-- ==== Sys2Proof/Word.lean ====
section
/-! DEFINITION. The word types of the V32 (R141, R147, R235) and nothing else: bit-field and arithmetic helpers stand
in Sys2Proof/Decode.lean and Sys2Proof/Machine/Bits.lean.
-/

namespace Sys2Proof

/-- The unit of memory (R3). -/
abbrev Byte := BitVec 8

/-- An instruction word (R141). -/
abbrev Word := BitVec 32

/-- A scalar register, an address, a status register (R147). -/
abbrev Dword := BitVec 64

/-- A vector register (R147, R235). -/
abbrev VReg := BitVec 4096

/-- A mask register (R147). -/
abbrev KReg := BitVec 512

/-- A register number of an x or v file. -/
abbrev Reg := BitVec 5

/-- A mask register number. -/
abbrev KIdx := BitVec 3

end Sys2Proof
end

