-- ==== Sys2Proof/Machine/Bits.lean ====
section
/-! DEFINITION. Bit-field, sign-extension and byte-order helpers, and the canonical list of bytes that memory is held in.
-/

namespace Sys2Proof.Machine

/-- Bits lo to lo + n - 1 of a number. -/
def bitsOf (v lo n : Nat) : Nat := (v >>> lo) % 2 ^ n

/-- A mask of the bits from lo to hi. -/
def bitMask (lo hi : Nat) : Dword := BitVec.ofNat 64 (2 ^ (hi + 1) - 2 ^ lo)

/-- Signed(v, w) of R6: the low w bits of v in two's complement. -/
def signed (w v : Nat) : Int :=
  let u := v % 2 ^ w
  if u < 2 ^ (w - 1) then (u : Int) else (u : Int) - (2 ^ w : Nat)

/-- Wrap(z, w) of R6: z modulo 2^w. -/
def wrap (w : Nat) (z : Int) : Nat := (z % ((2 ^ w : Nat) : Int)).toNat

/-- SatS(z, w) of R6: z clamped to the signed w-bit range. -/
def satS (w : Nat) (z : Int) : Int :=
  let hi : Int := (2 ^ (w - 1) : Nat) - 1
  let lo : Int := -(2 ^ (w - 1) : Nat)
  if z < lo then lo else if hi < z then hi else z

/-- SatU(z, w) of R6: z clamped to the unsigned w-bit range. -/
def satU (w : Nat) (z : Int) : Int :=
  let hi : Int := (2 ^ w : Nat) - 1
  if z < 0 then 0 else if hi < z then hi else z

/-- R3: the little-endian bytes of v, n of them. -/
def leBytes : Nat → Nat → List Byte
  | 0, _ => []
  | n + 1, v => BitVec.ofNat 8 v :: leBytes n (v / 256)

/-- R3: the number whose little-endian bytes these are. -/
def leNat : List Byte → Nat
  | [] => 0
  | b :: r => b.toNat + 256 * leNat r

/-- The n bytes of a record from byte off on, as a little-endian number. -/
def field (r : List Byte) (off n : Nat) : Nat := leNat ((r.drop off).take n)

/-- A 64-bit field of a record. -/
def field64 (r : List Byte) (off : Nat) : Dword := BitVec.ofNat 64 (field r off 8)

/-- Whether the n bytes of a record from byte off on are zero. -/
def fieldZero (r : List Byte) (off n : Nat) : Bool := field r off n == 0

/-- The bytes of r from off on replaced by bs. -/
def putBytes (r : List Byte) (off : Nat) (bs : List Byte) : List Byte :=
  r.take off ++ bs ++ r.drop (off + bs.length)

/-- Quotient rounded up. -/
def ceilDiv (a b : Nat) : Nat := (a + b - 1) / b

/-- The number of one bits of a number, over its low n bits. -/
def popCount (n v : Nat) : Nat := ((List.range n).filter (fun i => v.testBit i)).length

/-- The first element of a list that satisfies p, and the list without it. -/
def takeFirst {α : Type} (p : α → Bool) : List α → Option (α × List α)
  | [] => none
  | a :: r =>
    if p a then some (a, r)
    else match takeFirst p r with
      | none => none
      | some (b, r') => some (b, a :: r')

/-- The first element that satisfies p, changed by f. -/
def modifyFirst {α : Type} (p : α → Bool) (f : α → α) : List α → List α
  | [] => []
  | a :: r => if p a then f a :: r else a :: modifyFirst p f r

/-- Adds a member to a list without repeats. -/
def addNew {α : Type} [BEq α] (a : α) (l : List α) : List α := if l.contains a then l else l ++ [a]

/-! ## Memory as a list of cells -/

/-- The byte at an address; an address not listed reads as zero (R406 step 4, log entry 5). -/
def Memory.get : List Host.Cell → Nat → Byte
  | [], _ => 0
  | (a, v) :: r, i => if a = i then v else Memory.get r i

/-- Writes a byte, keeping addresses rising and listing no zero byte. -/
def Memory.set : List Host.Cell → Nat → Byte → List Host.Cell
  | [], i, v => if v = 0 then [] else [(i, v)]
  | (a, u) :: r, i, v =>
    if i < a then (if v = 0 then (a, u) :: r else (i, v) :: (a, u) :: r)
    else if a = i then (if v = 0 then r else (i, v) :: r)
    else (a, u) :: Memory.set r i v

/-- Addresses strictly rise, from lo on, and no listed byte is zero. -/
def Memory.wfFrom : Nat → List Host.Cell → Bool
  | _, [] => true
  | lo, (a, v) :: r => decide (lo ≤ a) && (v != 0) && Memory.wfFrom (a + 1) r

/-- The canonical form of memory. -/
def Memory.wf (m : List Host.Cell) : Bool := Memory.wfFrom 0 m

/-- n bytes from an address on. -/
def Memory.getBytes (m : List Host.Cell) (a : Nat) : Nat → List Byte
  | 0 => []
  | n + 1 => Memory.get m a :: Memory.getBytes m (a + 1) n

/-- Writes bytes from an address on. -/
def Memory.setBytes (m : List Host.Cell) (a : Nat) : List Byte → List Host.Cell
  | [] => m
  | b :: r => Memory.setBytes (Memory.set m a b) (a + 1) r

/-- Writes those bytes whose mask bit is set: bit i of the mask names byte i. -/
def Memory.setMasked (m : List Host.Cell) (a : Nat) (mask : Nat) : List Byte → List Host.Cell
  | [] => m
  | b :: r => Memory.setMasked (if mask % 2 = 1 then Memory.set m a b else m) (a + 1) (mask / 2) r

/-! ## The written bytes of an LS window -/

/-- The byte written last at an LS address, none where nothing was written. -/
def Written.get : List Host.Cell → Nat → Option Byte
  | [], _ => none
  | (a, v) :: r, i => if a = i then some v else Written.get r i

/-- Records a written byte, addresses rising. -/
def Written.set : List Host.Cell → Nat → Byte → List Host.Cell
  | [], i, v => [(i, v)]
  | (a, u) :: r, i, v =>
    if i < a then (i, v) :: (a, u) :: r
    else if a = i then (i, v) :: r
    else (a, u) :: Written.set r i v

/-- Records written bytes from an address on. -/
def Written.setBytes (m : List Host.Cell) (a : Nat) : List Byte → List Host.Cell
  | [] => m
  | b :: r => Written.setBytes (Written.set m a b) (a + 1) r

end Sys2Proof.Machine
end

