-- ==== Sys2Proof/Machine/Float.lean ====
section
/-! DEFINITION. Number formats and floating-point arithmetic (R52-R84): exact values, one rounding for each operation,
conversions, comparisons and the estimate functions.
-/

namespace Sys2Proof.Machine

/-! ## Formats (R59) -/

/-- A floating-point format. -/
structure Fmt where
  expBits  : Nat
  fracBits : Nat
  bias     : Nat
  /-- E4M3 has no infinities and its largest exponent field holds numbers. -/
  infs     : Bool
  deriving DecidableEq, Repr

/-- R59: binary64. -/
def fp64 : Fmt := { expBits := 11, fracBits := 52, bias := 1023, infs := true }
/-- R59: binary32. -/
def fp32 : Fmt := { expBits := 8, fracBits := 23, bias := 127, infs := true }
/-- R59: binary16. -/
def fp16 : Fmt := { expBits := 5, fracBits := 10, bias := 15, infs := true }
/-- R59: BF16. -/
def bf16 : Fmt := { expBits := 8, fracBits := 7, bias := 127, infs := true }
/-- R59: E4M3. -/
def e4m3 : Fmt := { expBits := 4, fracBits := 3, bias := 7, infs := false }
/-- R59: E5M2. -/
def e5m2 : Fmt := { expBits := 5, fracBits := 2, bias := 15, infs := true }

/-- The precision, the hidden bit counted. -/
def Fmt.p (f : Fmt) : Nat := f.fracBits + 1
/-- The total width. -/
def Fmt.width (f : Fmt) : Nat := 1 + f.expBits + f.fracBits
/-- The least normal exponent. -/
def Fmt.emin (f : Fmt) : Int := 1 - (f.bias : Int)
/-- The greatest exponent of a number. -/
def Fmt.emax (f : Fmt) : Int := if f.infs then (f.bias : Int) else (f.bias : Int) + 1
/-- The significand of the largest finite number, as an integer of p bits. -/
def Fmt.maxSig (f : Fmt) : Nat := if f.infs then 2 ^ f.p - 1 else 2 ^ f.p - 2
/-- The exponent field of all ones. -/
def Fmt.expOnes (f : Fmt) : Nat := 2 ^ f.expBits - 1
/-- R59: the canonical NaN. -/
def Fmt.nan (f : Fmt) : Nat :=
  if f.infs then f.expOnes * 2 ^ f.fracBits + 2 ^ (f.fracBits - 1) else f.expOnes * 2 ^ f.fracBits + (2 ^ f.fracBits - 1)
/-- The sign bit. -/
def Fmt.signBit (f : Fmt) (neg : Bool) : Nat := if neg then 2 ^ (f.width - 1) else 0
/-- The infinity of a sign; for E4M3 the largest number (R64). -/
def Fmt.inf (f : Fmt) (neg : Bool) : Nat :=
  f.signBit neg + (if f.infs then f.expOnes * 2 ^ f.fracBits else f.expOnes * 2 ^ f.fracBits + (2 ^ f.fracBits - 2))
/-- The largest finite number of a sign. -/
def Fmt.maxFinite (f : Fmt) (neg : Bool) : Nat :=
  f.signBit neg + (f.emax + f.bias).toNat * 2 ^ f.fracBits + (f.maxSig - 2 ^ f.fracBits)

/-- A value read from a format: num ÷ den with num not zero for a finite one. -/
inductive Val where
  | nan (signalling : Bool)
  | inf (neg : Bool)
  | zero (neg : Bool)
  | fin (neg : Bool) (num den : Nat)
  deriving DecidableEq, Repr

/-- num ÷ den of n × 2^e. -/
def scaled (n : Nat) (e : Int) : Nat × Nat := if 0 ≤ e then (n * 2 ^ e.toNat, 1) else (n, 2 ^ (-e).toNat)

/-- R59, R60: the value of the low bits of a number in a format. -/
def Fmt.decode (f : Fmt) (bits : Nat) : Val :=
  let frac := bitsOf bits 0 f.fracBits
  let exp := bitsOf bits f.fracBits f.expBits
  let neg := bits.testBit (f.width - 1)
  if exp = f.expOnes && (f.infs || frac = 2 ^ f.fracBits - 1) then
    if f.infs && frac = 0 then .inf neg
    else .nan (f.infs && !(f.fracBits == 2) && !frac.testBit (f.fracBits - 1))
  else if exp = 0 then
    if frac = 0 then .zero neg
    else let (n, d) := scaled frac (f.emin - f.fracBits)
      .fin neg n d
  else let (n, d) := scaled (2 ^ f.fracBits + frac) ((exp : Int) - f.bias - f.fracBits)
    .fin neg n d

/-! ## Flags (R77) -/

/-- R77: inexact. -/
def flagNX : BitVec 7 := 1
/-- R77: underflow. -/
def flagUF : BitVec 7 := 2
/-- R77: overflow. -/
def flagOF : BitVec 7 := 4
/-- R77: division by zero. -/
def flagDZ : BitVec 7 := 8
/-- R77: invalid operation. -/
def flagNV : BitVec 7 := 16
/-- R77: a scatter-add skipped an element. -/
def flagSK : BitVec 7 := 32
/-- R77: a fixed-point conversion saturated. -/
def flagXO : BitVec 7 := 64

/-! ## Rounding (R62-R67) -/

/-- R67: Mix64. -/
def mix64 (seed k : Dword) : Dword :=
  let z := seed ^^^ (k * 0x9E3779B97F4A7C15#64)
  let z := (z ^^^ (z >>> 30)) * 0xBF58476D1CE4E5B9#64
  let z := (z ^^^ (z >>> 27)) * 0x94D049BB133111EB#64
  z ^^^ (z >>> 31)

/-- A rounding: mode code (R62), key and seed (R67). -/
structure Rnd where
  mode : Nat
  key  : Dword
  seed : Dword
  deriving DecidableEq, Repr

/-- Round to nearest even, without keys. -/
def rne : Rnd := { mode := 0, key := 0, seed := 0 }

/-- A magnitude in units of the last place: its floor, whether that is exact, how the rest compares with a half, and the
rest's first 32 bits (R63). -/
structure Units where
  lo    : Nat
  exact : Bool
  half  : Ordering
  t     : Nat
  deriving DecidableEq, Repr

/-- R63: the units of the rounded magnitude. -/
def roundUnits (r : Rnd) (neg : Bool) (u : Units) : Nat :=
  if u.exact then u.lo
  else match r.mode with
    | 0 => match u.half with
      | .lt => u.lo
      | .gt => u.lo + 1
      | .eq => if u.lo % 2 = 0 then u.lo else u.lo + 1
    | 1 => u.lo
    | 2 => if neg then u.lo + 1 else u.lo
    | 3 => if neg then u.lo else u.lo + 1
    | 4 => match u.half with
      | .lt => u.lo
      | _ => u.lo + 1
    | _ => if ((mix64 r.seed r.key).toNat % 2 ^ 32) < u.t then u.lo + 1 else u.lo

/-- Floor(Log2(num ÷ den)). -/
def floorLog2 (num den : Nat) : Int :=
  let l : Int := (Nat.log2 num : Int) - (Nat.log2 den : Int)
  let ok := if 0 ≤ l then den * 2 ^ l.toNat ≤ num else den ≤ num * 2 ^ (-l).toNat
  if ok then l else l - 1

/-- The units of num ÷ den when a unit is 2^ue. -/
def unitsOf (num den : Nat) (ue : Int) : Units :=
  let n := if ue < 0 then num * 2 ^ (-ue).toNat else num
  let d := if ue < 0 then den else den * 2 ^ ue.toNat
  let q := n / d
  let r := n % d
  { lo := q, exact := r = 0, half := compare (2 * r) d, t := r * 2 ^ 32 / d }

/-- Integer square root, bit by bit from the given bit down. -/
def isqrtFrom (x : Nat) : Nat → Nat → Nat
  | 0, r => r
  | k + 1, r =>
    let c := r + 2 ^ k
    isqrtFrom x k (if c * c ≤ x then c else r)

/-- Floor(√x). -/
def isqrt (x : Nat) : Nat := isqrtFrom x (Nat.log2 x / 2 + 1) 0

/-- The units of √(num ÷ den) when a unit is 2^ue. -/
def sqrtUnitsOf (num den : Nat) (ue : Int) : Units :=
  let n := if ue < 0 then num * 2 ^ (2 * (-ue).toNat) else num
  let d := if ue < 0 then den else den * 2 ^ (2 * ue.toNat)
  let q := isqrt (n / d)
  { lo := q, exact := q * q * d = n, half := compare (4 * n) ((2 * q + 1) * (2 * q + 1) * d),
    t := isqrt (n * 2 ^ 64 / d) - q * 2 ^ 32 }

/-- The exponent of the unit in the last place of a magnitude with this Floor(Log2) (R63). -/
def Fmt.unit (f : Fmt) (lg : Int) : Int := max lg f.emin - f.p + 1

/-- R63-R65: the bits and flags of a rounded magnitude whose exact Floor(Log2) is lg. -/
def Fmt.pack (f : Fmt) (r : Rnd) (neg : Bool) (lg : Int) (u : Units) : Nat × BitVec 7 :=
  let n := roundUnits r neg u
  let ue := f.unit lg
  let (n, ue) := if 2 ^ f.p ≤ n then (n / 2, ue + 1) else (n, ue)
  let tiny := if lg < f.emin && !u.exact then flagUF else 0
  let nx := if u.exact then 0 else flagNX
  if n < 2 ^ f.fracBits then (f.signBit neg + n, nx ||| tiny)
  else
    let e := ue + f.fracBits
    if f.emax < e || (e = f.emax && f.maxSig < n) then
      let away := match r.mode with
        | 1 => false
        | 2 => neg
        | 3 => !neg
        | _ => true
      (if !f.infs then f.maxFinite neg else if away then f.inf neg else f.maxFinite neg, flagOF ||| flagNX)
    else (f.signBit neg + (e + f.bias).toNat * 2 ^ f.fracBits + (n - 2 ^ f.fracBits), nx ||| tiny)

/-- R63: Round(±num ÷ den, F, mode, k). -/
def Fmt.round (f : Fmt) (r : Rnd) (neg : Bool) (num den : Nat) : Nat × BitVec 7 :=
  let lg := floorLog2 num den
  f.pack r neg lg (unitsOf num den (f.unit lg))

/-- R63: Round(√(num ÷ den), F, mode, k). -/
def Fmt.roundSqrt (f : Fmt) (r : Rnd) (num den : Nat) : Nat × BitVec 7 :=
  let lg := floorLog2 num den / 2
  f.pack r false lg (sqrtUnitsOf num den (f.unit lg))

/-- R63 for INT: the rounded integer, and whether it was exact. -/
def roundInt (r : Rnd) (neg : Bool) (num den : Nat) : Int × Bool :=
  let u := unitsOf num den 0
  let n : Int := roundUnits r neg u
  (if neg then -n else n, u.exact)

/-- A value rounded to a format (R63, R70): NaN gives the canonical NaN. -/
def Fmt.ofVal (f : Fmt) (r : Rnd) : Val → Nat × BitVec 7
  | .nan _ => (f.nan, 0)
  | .inf neg => (f.inf neg, 0)
  | .zero neg => (f.signBit neg, 0)
  | .fin neg num den => f.round r neg num den

/-! ## Arithmetic (R66, R74, R75) -/

/-- R60: NV for a signalling NaN. -/
def Val.sig : Val → BitVec 7
  | .nan true => flagNV
  | _ => 0

/-- Whether a value is a NaN. -/
def Val.isNan : Val → Bool
  | .nan _ => true
  | _ => false

/-- The value with its sign inverted. -/
def Val.negate : Val → Val
  | .nan q => .nan q
  | .inf n => .inf (!n)
  | .zero n => .zero (!n)
  | .fin n a b => .fin (!n) a b

/-- A finite value of a signed rational: z ÷ d, zero taking the given sign. -/
def Val.ofInt (z : Int) (d : Nat) (zeroNeg : Bool) : Val :=
  if z = 0 then .zero zeroNeg else .fin (z < 0) z.natAbs d

/-- The signed numerator of a finite value. -/
def Val.num : Val → Int
  | .fin n a _ => if n then -(a : Int) else a
  | _ => 0

/-- The denominator of a finite value. -/
def Val.den : Val → Nat
  | .fin _ _ d => d
  | _ => 1

/-- The exact sum of two values (R66, R75), a quiet NaN where it is invalid. -/
def Val.add (mode : Nat) (a b : Val) : Val × BitVec 7 :=
  match a, b with
  | .nan _, _ => (.nan false, a.sig ||| b.sig)
  | _, .nan _ => (.nan false, a.sig ||| b.sig)
  | .inf n, .inf m => if n = m then (.inf n, 0) else (.nan false, flagNV)
  | .inf n, _ => (.inf n, 0)
  | _, .inf m => (.inf m, 0)
  | .zero n, .zero m => (.zero (if n = m then n else mode = 2), 0)
  | _, _ => (Val.ofInt (a.num * b.den + b.num * a.den) (a.den * b.den) (mode = 2), 0)

/-- The exact product of two values (R66, R75). -/
def Val.mul (a b : Val) : Val × BitVec 7 :=
  match a, b with
  | .nan _, _ => (.nan false, a.sig ||| b.sig)
  | _, .nan _ => (.nan false, a.sig ||| b.sig)
  | .inf _, .zero _ => (.nan false, flagNV)
  | .zero _, .inf _ => (.nan false, flagNV)
  | .inf n, .inf m => (.inf (n != m), 0)
  | .inf n, .fin m _ _ => (.inf (n != m), 0)
  | .fin n _ _, .inf m => (.inf (n != m), 0)
  | .zero n, .zero m => (.zero (n != m), 0)
  | .zero n, .fin m _ _ => (.zero (n != m), 0)
  | .fin n _ _, .zero m => (.zero (n != m), 0)
  | .fin n x y, .fin m u v => (.fin (n != m) (x * u) (y * v), 0)

/-- The exact quotient of two values (R66, R75). -/
def Val.div (a b : Val) : Val × BitVec 7 :=
  match a, b with
  | .nan _, _ => (.nan false, a.sig ||| b.sig)
  | _, .nan _ => (.nan false, a.sig ||| b.sig)
  | .inf _, .inf _ => (.nan false, flagNV)
  | .zero _, .zero _ => (.nan false, flagNV)
  | .inf n, .zero m => (.inf (n != m), 0)
  | .inf n, .fin m _ _ => (.inf (n != m), 0)
  | .zero n, .inf m => (.zero (n != m), 0)
  | .fin n _ _, .inf m => (.zero (n != m), 0)
  | .zero n, .fin m _ _ => (.zero (n != m), 0)
  | .fin n _ _, .zero m => (.inf (n != m), flagDZ)
  | .fin n x y, .fin m u v => (.fin (n != m) (x * v) (y * u), 0)

/-- R75: the exact a × b + c; 0 × ∞ sets NV even with a NaN addend. -/
def Val.fma (mode : Nat) (a b c : Val) : Val × BitVec 7 :=
  if a.isNan || b.isNan then (.nan false, a.sig ||| b.sig ||| c.sig)
  else
    let (m, f) := Val.mul a b
    match m with
    | .nan _ => (.nan false, f ||| c.sig)
    | _ => let (s, g) := Val.add mode m c
      (s, f ||| g)

/-- A result rounded once, its flags ORed (R65, R74). -/
def Fmt.finish (f : Fmt) (r : Rnd) (v : Val × BitVec 7) : Nat × BitVec 7 :=
  let (b, g) := f.ofVal r v.1
  (b, v.2 ||| g)

/-- Round(a + b). -/
def Fmt.add (f : Fmt) (r : Rnd) (a b : Nat) : Nat × BitVec 7 := f.finish r (Val.add r.mode (f.decode a) (f.decode b))
/-- Round(a − b). -/
def Fmt.sub (f : Fmt) (r : Rnd) (a b : Nat) : Nat × BitVec 7 :=
  f.finish r (Val.add r.mode (f.decode a) (f.decode b).negate)
/-- Round(a × b). -/
def Fmt.mul (f : Fmt) (r : Rnd) (a b : Nat) : Nat × BitVec 7 := f.finish r (Val.mul (f.decode a) (f.decode b))
/-- Round(a ÷ b). -/
def Fmt.div (f : Fmt) (r : Rnd) (a b : Nat) : Nat × BitVec 7 := f.finish r (Val.div (f.decode a) (f.decode b))
/-- Round(±a × b ± c). -/
def Fmt.fma (f : Fmt) (r : Rnd) (negProd negAdd : Bool) (a b c : Nat) : Nat × BitVec 7 :=
  let x := if negProd then (f.decode a).negate else f.decode a
  let z := if negAdd then (f.decode c).negate else f.decode c
  f.finish r (Val.fma r.mode x (f.decode b) z)

/-- Round(√a) (R75). -/
def Fmt.sqrt (f : Fmt) (r : Rnd) (a : Nat) : Nat × BitVec 7 :=
  match f.decode a with
  | .nan s => (f.nan, (Val.nan s).sig)
  | .zero n => (f.signBit n, 0)
  | .inf n => if n then (f.nan, flagNV) else (f.inf false, 0)
  | .fin n x y => if n then (f.nan, flagNV) else f.roundSqrt r x y

/-- The order of two values that are no NaNs. -/
def Val.cmp (a b : Val) : Ordering :=
  match a, b with
  | .inf n, .inf m => if n = m then .eq else if n then .lt else .gt
  | .inf n, _ => if n then .lt else .gt
  | _, .inf m => if m then .gt else .lt
  | _, _ => compare (a.num * b.den) (b.num * a.den)

/-- Whether a value is a zero. -/
def Val.isZero : Val → Bool
  | .zero _ => true
  | _ => false

/-- The sign of a value. -/
def Val.isNeg : Val → Bool
  | .nan _ => false
  | .inf n => n
  | .zero n => n
  | .fin n _ _ => n

/-- R75: minimum (or maximum) of two numbers of a format, as bits. -/
def Fmt.minMax (f : Fmt) (isMax : Bool) (a b : Nat) : Nat × BitVec 7 :=
  let x := f.decode a
  let y := f.decode b
  let fl := x.sig ||| y.sig
  if x.isNan && y.isNan then (f.nan, fl)
  else if x.isNan then (b % 2 ^ f.width, fl)
  else if y.isNan then (a % 2 ^ f.width, fl)
  else if x.isZero && y.isZero then (f.signBit (if isMax then x.isNeg && y.isNeg else x.isNeg || y.isNeg), fl)
  else match Val.cmp x y with
    | .gt => ((if isMax then a else b) % 2 ^ f.width, fl)
    | _ => ((if isMax then b else a) % 2 ^ f.width, fl)

/-- R75: a = b. -/
def Fmt.eq (f : Fmt) (a b : Nat) : Bool × BitVec 7 :=
  let x := f.decode a
  let y := f.decode b
  if x.isNan || y.isNan then (false, x.sig ||| y.sig) else (Val.cmp x y == .eq, 0)

/-- R75: a < b. -/
def Fmt.lt (f : Fmt) (a b : Nat) : Bool × BitVec 7 :=
  let x := f.decode a
  let y := f.decode b
  if x.isNan || y.isNan then (false, flagNV) else (Val.cmp x y == .lt, 0)

/-- R75: a ≤ b. -/
def Fmt.le (f : Fmt) (a b : Nat) : Bool × BitVec 7 :=
  let x := f.decode a
  let y := f.decode b
  if x.isNan || y.isNan then (false, flagNV) else (Val.cmp x y != .gt, 0)

/-- R61: the one-hot class. -/
def Fmt.fclass (f : Fmt) (a : Nat) : Nat :=
  let subnormal := bitsOf a f.fracBits f.expBits = 0
  match f.decode a with
  | .inf true => 2 ^ 0
  | .fin true _ _ => if subnormal then 2 ^ 2 else 2 ^ 1
  | .zero true => 2 ^ 3
  | .zero false => 2 ^ 4
  | .fin false _ _ => if subnormal then 2 ^ 5 else 2 ^ 6
  | .inf false => 2 ^ 7
  | .nan true => 2 ^ 8
  | .nan false => 2 ^ 9

/-- R75: absolute value and negation: the sign bit cleared or inverted; a NaN gives the canonical NaN. -/
def Fmt.absNeg (f : Fmt) (neg : Bool) (a : Nat) : Nat :=
  if (f.decode a).isNan then f.nan
  else
    let m := bitsOf a 0 (f.width - 1)
    if neg then f.signBit (!a.testBit (f.width - 1)) + m else m

/-! ## Conversions (R70-R73) -/

/-- R70: between floating-point formats. -/
def convFmt (src dst : Fmt) (r : Rnd) (a : Nat) : Nat × BitVec 7 :=
  match src.decode a with
  | .nan s => (dst.nan, (Val.nan s).sig)
  | .inf n => (dst.inf n, if dst.infs then 0 else flagNV)
  | v => dst.ofVal r v

/-- R71: to an integer of n bits, as those bits. -/
def toInt (src : Fmt) (r : Rnd) (n : Nat) (isSigned : Bool) (a : Nat) : Nat × BitVec 7 :=
  let sat (z : Int) : Int := if isSigned then satS n z else satU n z
  match src.decode a with
  | .nan _ => (0, flagNV)
  | .inf neg => (wrap n (sat (if neg then -(2 ^ (n + 1) : Nat) else (2 ^ (n + 1) : Nat))), flagNV)
  | .zero _ => (0, 0)
  | .fin neg x d =>
    let (y, exact) := roundInt r neg x d
    if sat y = y then (wrap n y, if exact then 0 else flagNX) else (wrap n (sat y), flagNV)

/-- R72: from an integer. -/
def ofIntFmt (dst : Fmt) (r : Rnd) (z : Int) : Nat × BitVec 7 := dst.ofVal r (Val.ofInt z 1 false)

/-- R73: FixCvt with a signed shift: none when the element is skipped. -/
def fixCvt (shift : Int) (a : Nat) : Option Nat × BitVec 7 :=
  match fp32.decode a with
  | .nan _ => (none, flagSK)
  | .inf _ => (none, flagSK)
  | .zero _ => (some 0, 0)
  | .fin neg x d =>
    let (n, m) := if 0 ≤ shift then (x * 2 ^ shift.toNat, d) else (x, d * 2 ^ (-shift).toNat)
    let (y, _) := roundInt rne neg n m
    if satS 64 y = y then (some (wrap 64 y), 0) else (some (wrap 64 (satS 64 y)), flagXO)

/-! ## Estimate functions (R80-R83) -/

/-- RNE_W of a fused a × b + c on bits of W, its flags dropped. -/
def stepFma (w : Fmt) (negProd : Bool) (a b c : Nat) : Nat := (w.fma rne negProd false a b c).1

/-- RNE_W of a rational. -/
def stepRat (w : Fmt) (num den : Nat) : Nat := (w.ofVal rne (Val.ofInt num den false)).1

/-- A value of W scaled by 2^e and rounded RNE to the destination (R80: the only step that sets OF, UF and NX). -/
def finalScale (w dst : Fmt) (neg : Bool) (y : Nat) (e : Int) : Nat × BitVec 7 :=
  match w.decode y with
  | .fin _ n d =>
    let (a, b) := scaled 1 e
    dst.round rne neg (n * a) (d * b)
  | _ => (dst.signBit neg, 0)

/-- A positive rational in [1, 2) as m, with its exponent: x = m × 2^E. -/
def normalise (num den : Nat) : Int × (Nat × Nat) :=
  let e := floorLog2 num den
  let (a, b) := scaled 1 (-e)
  (e, (num * a, den * b))

/-- R80: N repetitions. -/
def estimateSteps (w : Fmt) : Nat := if w.p = 24 then 2 else 3

/-- R81: the refinement of a reciprocal. -/
def rcpRefine (w : Fmt) (m : Nat) : Nat → Nat → Nat
  | 0, y => y
  | k + 1, y =>
    let one := stepRat w 1 1
    let e := stepFma w true m y one
    rcpRefine w m k (stepFma w false y e y)

/-- R81: vfrcp of an operand of W, to the destination format. -/
def frcp (w dst : Fmt) (a : Nat) : Nat × BitVec 7 :=
  match w.decode a with
  | .nan s => (dst.nan, (Val.nan s).sig)
  | .zero n => (dst.inf n, flagDZ)
  | .inf n => (dst.signBit n, 0)
  | .fin neg x d =>
    let (e, (mn, md)) := normalise x d
    let j := (mn - md) * 128 / md
    let y := stepRat w 256 (256 + 2 * j + 1)
    finalScale w dst neg (rcpRefine w (stepRat w mn md) (estimateSteps w) y) (-e)

/-- R82: the refinement of a reciprocal square root. -/
def rsqRefine (w : Fmt) (h : Nat) : Nat → Nat → Nat
  | 0, y => y
  | k + 1, y =>
    let g := (w.mul rne y y).1
    let e := stepFma w true h g (stepRat w 3 2)
    rsqRefine w h k (w.mul rne y e).1

/-- R82: vfrsq. -/
def frsq (w dst : Fmt) (a : Nat) : Nat × BitVec 7 :=
  match w.decode a with
  | .nan s => (dst.nan, (Val.nan s).sig)
  | .zero n => (dst.inf n, flagDZ)
  | .inf n => if n then (dst.nan, flagNV) else (dst.signBit false, 0)
  | .fin neg x d =>
    if neg then (dst.nan, flagNV)
    else
      let (e, (mn, md)) := normalise x d
      let (e, mn) := if e % 2 = 0 then (e, mn) else (e - 1, 2 * mn)
      let b := if 2 * md ≤ mn then 1 else 0
      let f := (mn - 2 ^ b * md) * 64 / (2 ^ b * md)
      let y := (w.roundSqrt rne 128 (2 ^ b * (128 + 2 * f + 1))).1
      let h := stepRat w mn (2 * md)
      finalScale w dst false (rsqRefine w h (estimateSteps w) y) (-(e / 2))

/-- Floor(Ln(2) × 2^160). -/
def ln2Scaled : Nat := 1013035739299659071135698605846798551586536899366

/-- R83: c[i] = RNE_W(Ln(2)^i ÷ i!). -/
def expCoeff (w : Fmt) (i : Nat) : Nat := stepRat w (ln2Scaled ^ i) (2 ^ (160 * i) * i.factorial)

/-- The integer 128th root of x, bit by bit from the given bit down. -/
def root128From (x : Nat) : Nat → Nat → Nat
  | 0, r => r
  | k + 1, r =>
    let c := r + 2 ^ k
    root128From x k (if c ^ 128 ≤ x then c else r)

/-- R83: Texp[j] = RNE_W(2^(j ÷ 128)). -/
def expTable (w : Fmt) (j : Nat) : Nat :=
  let q := root128From (2 ^ (j + 128 * w.fracBits)) w.p 0
  let u : Units :=
    { lo := q, exact := q ^ 128 = 2 ^ (j + 128 * w.fracBits),
      half := compare (2 ^ (j + 128 * (w.fracBits + 1))) ((2 * q + 1) ^ 128), t := 0 }
  (w.pack rne false 0 u).1

/-- R83: RNE_W(p × g + c) for p on bits of W and the exact g. -/
def expStep (w : Fmt) (g c : Val) (p : Nat) : Nat := (w.finish rne (Val.fma 0 (w.decode p) g c)).1

/-- R83: the polynomial, from coefficient i down. -/
def expPoly (w : Fmt) (g : Val) : Nat → Nat → Nat
  | 0, p => p
  | i + 1, p => expPoly w g i (expStep w g (w.decode (expCoeff w (i + 1))) p)

/-- R83: the sequence for an operand z ÷ d. n, f, j and g = f - j ÷ 128 are exact: g need not fit W. -/
def expSeq (w dst : Fmt) (z : Int) (d : Nat) : Nat × BitVec 7 :=
  let l : Int := if w.p = 24 then 256 else 2048
  let deg := if w.p = 24 then 3 else 6
  let (z, d) : Int × Nat := if l * d < z then (l, 1) else if z < -l * d then (-l, 1) else (z, d)
  let n := z / d
  let f := (z - n * d).toNat
  let j := 128 * f / d
  let g := Val.ofInt (128 * f - j * d) (128 * d) false
  let p := expStep w g (.zero false) (expPoly w g (deg - 1) (expCoeff w deg))
  let t := expTable w j
  finalScale w dst false (stepFma w false t p t) n

/-- R83: vfexp2. -/
def fexp2 (w dst : Fmt) (a : Nat) : Nat × BitVec 7 :=
  match w.decode a with
  | .nan s => (dst.nan, (Val.nan s).sig)
  | .inf n => if n then (dst.signBit false, 0) else (dst.inf false, 0)
  | v => expSeq w dst v.num v.den

/-- R80: the working format of an estimate, and the operand in it. -/
def estimateIn (f : Fmt) (a : Nat) : Fmt × Nat := if f.p = 8 then (fp32, a * 2 ^ 16) else (f, a)

/-! ## Packed codes (R53, R54, R56) -/

/-- R54: the value of a T2 code, none for the reserved code. -/
def t2Value (c : Nat) : Option Int :=
  match c % 4 with
  | 0 => some 0
  | 1 => some 1
  | 3 => some (-1)
  | _ => none

/-- R54: the code of a ternary value. -/
def t2Code (z : Int) : Nat := if z = 0 then 0 else if 0 < z then 1 else 3

end Sys2Proof.Machine
end

