-- ==== Sys2Proof/Syntax.lean ====
section
/-! DEFINITION. The syntax of the V32: one constructor for each row of spec/opcode_table.json. The first 277 are
the encoded instructions of R156, their arguments the fields of their words under the table's own field names
(d, a, b, c register numbers; i, o immediates and offsets; w, e widths; r rounding; s scope or source; k masks or
kinds; t the stall count). The rest are the part's other steps, which have no word: their arguments say what the
environment or an arbiter decides (which ring, line, die, queue; a value written from outside).
-/

namespace Sys2Proof

/-- One step of the part: an instruction or an event (spec/opcode_table.json). -/
inductive Instr where
  /-- R176. Writes the 64-bit wrapping sum of two x registers. -/
  | add (d : BitVec 5) (a : BitVec 5) (b : BitVec 5)
  /-- R176. Writes the 64-bit wrapping difference of two x registers. -/
  | sub (d : BitVec 5) (a : BitVec 5) (b : BitVec 5)
  /-- R176. Writes the bitwise AND of two x registers. -/
  | and (d : BitVec 5) (a : BitVec 5) (b : BitVec 5)
  /-- R176. Writes the bitwise OR of two x registers. -/
  | or (d : BitVec 5) (a : BitVec 5) (b : BitVec 5)
  /-- R176. Writes the bitwise XOR of two x registers. -/
  | xor (d : BitVec 5) (a : BitVec 5) (b : BitVec 5)
  /-- R176. Writes A AND NOT B. -/
  | andn (d : BitVec 5) (a : BitVec 5) (b : BitVec 5)
  /-- R176. Writes A OR NOT B. -/
  | orn (d : BitVec 5) (a : BitVec 5) (b : BitVec 5)
  /-- R176. Shifts left by B[5:0]. -/
  | sll (d : BitVec 5) (a : BitVec 5) (b : BitVec 5)
  /-- R176. Shifts right logically by B[5:0]. -/
  | srl (d : BitVec 5) (a : BitVec 5) (b : BitVec 5)
  /-- R176. Shifts right arithmetically by B[5:0]. -/
  | sra (d : BitVec 5) (a : BitVec 5) (b : BitVec 5)
  /-- R176. Writes 1 if A is less than B, signed. -/
  | slt (d : BitVec 5) (a : BitVec 5) (b : BitVec 5)
  /-- R176. Writes 1 if A is less than B, unsigned. -/
  | sltu (d : BitVec 5) (a : BitVec 5) (b : BitVec 5)
  /-- R176. Writes the signed minimum. -/
  | min (d : BitVec 5) (a : BitVec 5) (b : BitVec 5)
  /-- R176. Writes the signed maximum. -/
  | max (d : BitVec 5) (a : BitVec 5) (b : BitVec 5)
  /-- R176. Writes the unsigned minimum. -/
  | minu (d : BitVec 5) (a : BitVec 5) (b : BitVec 5)
  /-- R176. Writes the unsigned maximum. -/
  | maxu (d : BitVec 5) (a : BitVec 5) (b : BitVec 5)
  /-- R176. Writes the 32-bit sum, sign-extended. -/
  | addw (d : BitVec 5) (a : BitVec 5) (b : BitVec 5)
  /-- R176. Writes the 32-bit difference, sign-extended. -/
  | subw (d : BitVec 5) (a : BitVec 5) (b : BitVec 5)
  /-- R176. 32-bit left shift, sign-extended. -/
  | sllw (d : BitVec 5) (a : BitVec 5) (b : BitVec 5)
  /-- R176. 32-bit logical right shift, sign-extended. -/
  | srlw (d : BitVec 5) (a : BitVec 5) (b : BitVec 5)
  /-- R176. 32-bit arithmetic right shift, sign-extended. -/
  | sraw (d : BitVec 5) (a : BitVec 5) (b : BitVec 5)
  /-- R177. Adds a sign-extended immediate. -/
  | addi (d : BitVec 5) (a : BitVec 5) (i : BitVec 16)
  /-- R177. ANDs a zero-extended immediate. -/
  | andi (d : BitVec 5) (a : BitVec 5) (i : BitVec 16)
  /-- R177. ORs a zero-extended immediate. -/
  | ori (d : BitVec 5) (a : BitVec 5) (i : BitVec 16)
  /-- R177. XORs a zero-extended immediate. -/
  | xori (d : BitVec 5) (a : BitVec 5) (i : BitVec 16)
  /-- R178. Shifts left by an immediate amount. -/
  | slli (d : BitVec 5) (a : BitVec 5) (n : BitVec 6)
  /-- R178. Shifts right logically by an immediate amount. -/
  | srli (d : BitVec 5) (a : BitVec 5) (n : BitVec 6)
  /-- R178. Shifts right arithmetically by an immediate amount. -/
  | srai (d : BitVec 5) (a : BitVec 5) (n : BitVec 6)
  /-- R177. Signed compare with an immediate. -/
  | slti (d : BitVec 5) (a : BitVec 5) (i : BitVec 16)
  /-- R177. Unsigned compare with a sign-extended immediate. -/
  | sltiu (d : BitVec 5) (a : BitVec 5) (i : BitVec 16)
  /-- R179. Loads a sign-extended immediate shifted left by 16. -/
  | lhi (d : BitVec 5) (i : BitVec 16)
  /-- R180. Writes pc plus a signed byte offset. -/
  | lpc (d : BitVec 5) (i : BitVec 16)
  /-- R181. Low 64 bits of the product. -/
  | mul (d : BitVec 5) (a : BitVec 5) (b : BitVec 5)
  /-- R181. High 64 bits of the signed product. -/
  | mulh (d : BitVec 5) (a : BitVec 5) (b : BitVec 5)
  /-- R181. High 64 bits of the unsigned product. -/
  | mulhu (d : BitVec 5) (a : BitVec 5) (b : BitVec 5)
  /-- R181. High 64 bits of the signed-by-unsigned product. -/
  | mulhsu (d : BitVec 5) (a : BitVec 5) (b : BitVec 5)
  /-- R182. Signed 64-bit quotient toward zero, interlocked. -/
  | div (d : BitVec 5) (a : BitVec 5) (b : BitVec 5)
  /-- R182. Unsigned 64-bit quotient, interlocked. -/
  | divu (d : BitVec 5) (a : BitVec 5) (b : BitVec 5)
  /-- R182. Signed 64-bit remainder, interlocked. -/
  | rem (d : BitVec 5) (a : BitVec 5) (b : BitVec 5)
  /-- R182. Unsigned 64-bit remainder, interlocked. -/
  | remu (d : BitVec 5) (a : BitVec 5) (b : BitVec 5)
  /-- R181. 32-bit product, sign-extended. -/
  | mulw (d : BitVec 5) (a : BitVec 5) (b : BitVec 5)
  /-- R182. Signed 32-bit quotient, sign-extended, interlocked. -/
  | divw (d : BitVec 5) (a : BitVec 5) (b : BitVec 5)
  /-- R182. Signed 32-bit remainder, sign-extended, interlocked. -/
  | remw (d : BitVec 5) (a : BitVec 5) (b : BitVec 5)
  /-- R183. Counts leading zero bits. -/
  | clz (d : BitVec 5) (a : BitVec 5)
  /-- R183. Counts trailing zero bits. -/
  | ctz (d : BitVec 5) (a : BitVec 5)
  /-- R183. Counts one bits. -/
  | popc (d : BitVec 5) (a : BitVec 5)
  /-- R183. Reverses bit order. -/
  | brev (d : BitVec 5) (a : BitVec 5)
  /-- R183. Reverses byte order. -/
  | bswap (d : BitVec 5) (a : BitVec 5)
  /-- R183. Sign-extends the low byte. -/
  | sxb (d : BitVec 5) (a : BitVec 5)
  /-- R183. Sign-extends the low 16 bits. -/
  | sxh (d : BitVec 5) (a : BitVec 5)
  /-- R183. Sign-extends the low 32 bits. -/
  | sxw (d : BitVec 5) (a : BitVec 5)
  /-- R183. Zero-extends the low byte. -/
  | zxb (d : BitVec 5) (a : BitVec 5)
  /-- R183. Zero-extends the low 16 bits. -/
  | zxh (d : BitVec 5) (a : BitVec 5)
  /-- R183. Zero-extends the low 32 bits. -/
  | zxw (d : BitVec 5) (a : BitVec 5)
  /-- R183. Rotates left by B[5:0]. -/
  | rol (d : BitVec 5) (a : BitVec 5) (b : BitVec 5)
  /-- R183. Rotates right by B[5:0]. -/
  | ror (d : BitVec 5) (a : BitVec 5) (b : BitVec 5)
  /-- R186. Scalar FP add rounded once at the width. -/
  | fadd (d : BitVec 5) (a : BitVec 5) (b : BitVec 5) (r : BitVec 3) (w : BitVec 2)
  /-- R186. Scalar FP subtract. -/
  | fsub (d : BitVec 5) (a : BitVec 5) (b : BitVec 5) (r : BitVec 3) (w : BitVec 2)
  /-- R186. Scalar FP multiply. -/
  | fmul (d : BitVec 5) (a : BitVec 5) (b : BitVec 5) (r : BitVec 3) (w : BitVec 2)
  /-- R186. Scalar FP divide, interlocked. -/
  | fdiv (d : BitVec 5) (a : BitVec 5) (b : BitVec 5) (r : BitVec 3) (w : BitVec 2)
  /-- R186. Scalar FP square root, interlocked. -/
  | fsqrt (d : BitVec 5) (a : BitVec 5) (r : BitVec 3) (w : BitVec 2)
  /-- R186. Scalar FP minimum under R75. -/
  | fmin (d : BitVec 5) (a : BitVec 5) (b : BitVec 5) (w : BitVec 2)
  /-- R186. Scalar FP maximum under R75. -/
  | fmax (d : BitVec 5) (a : BitVec 5) (b : BitVec 5) (w : BitVec 2)
  /-- R186. Scalar FP equality compare. -/
  | feq (d : BitVec 5) (a : BitVec 5) (b : BitVec 5) (w : BitVec 2)
  /-- R186. Scalar FP less-than compare. -/
  | flt (d : BitVec 5) (a : BitVec 5) (b : BitVec 5) (w : BitVec 2)
  /-- R186. Scalar FP less-or-equal compare. -/
  | fle (d : BitVec 5) (a : BitVec 5) (b : BitVec 5) (w : BitVec 2)
  /-- R61. Writes the one-hot class mask of a scalar FP value. -/
  | fclass (d : BitVec 5) (a : BitVec 5) (w : BitVec 2)
  /-- R187. Converts scalar FP to an integer kind. -/
  | fcvtI (d : BitVec 5) (a : BitVec 5) (r : BitVec 3) (k : BitVec 2) (w : BitVec 2)
  /-- R187. Converts an integer kind to scalar FP. -/
  | fcvtF (d : BitVec 5) (a : BitVec 5) (r : BitVec 3) (k : BitVec 2) (w : BitVec 2)
  /-- R187. Converts between scalar FP widths. -/
  | fcvtW (d : BitVec 5) (a : BitVec 5) (r : BitVec 3) (s : BitVec 2) (w : BitVec 2)
  /-- R188. Fused a×b+c rounded once under stat.FRM. -/
  | fma (d : BitVec 5) (a : BitVec 5) (b : BitVec 5) (c : BitVec 5) (w : BitVec 2)
  /-- R188. Fused a×b−c. -/
  | fms (d : BitVec 5) (a : BitVec 5) (b : BitVec 5) (c : BitVec 5) (w : BitVec 2)
  /-- R188. Fused −a×b−c. -/
  | fnma (d : BitVec 5) (a : BitVec 5) (b : BitVec 5) (c : BitVec 5) (w : BitVec 2)
  /-- R188. Fused −a×b+c. -/
  | fnms (d : BitVec 5) (a : BitVec 5) (b : BitVec 5) (c : BitVec 5) (w : BitVec 2)
  /-- R191. Loads a sign-extended byte. -/
  | lb (d : BitVec 5) (a : BitVec 5) (i : BitVec 16)
  /-- R191. Loads a zero-extended byte. -/
  | lbu (d : BitVec 5) (a : BitVec 5) (i : BitVec 16)
  /-- R191. Loads a sign-extended halfword. -/
  | lh (d : BitVec 5) (a : BitVec 5) (i : BitVec 16)
  /-- R191. Loads a zero-extended halfword. -/
  | lhu (d : BitVec 5) (a : BitVec 5) (i : BitVec 16)
  /-- R191. Loads a sign-extended word. -/
  | lw (d : BitVec 5) (a : BitVec 5) (i : BitVec 16)
  /-- R191. Loads a zero-extended word. -/
  | lwu (d : BitVec 5) (a : BitVec 5) (i : BitVec 16)
  /-- R191. Loads a doubleword. -/
  | ld (d : BitVec 5) (a : BitVec 5) (i : BitVec 16)
  /-- R192. Stores a byte. -/
  | sb (s : BitVec 5) (a : BitVec 5) (i : BitVec 16)
  /-- R192. Stores a halfword. -/
  | sh (s : BitVec 5) (a : BitVec 5) (i : BitVec 16)
  /-- R192. Stores a word. -/
  | sw (s : BitVec 5) (a : BitVec 5) (i : BitVec 16)
  /-- R192. Stores a doubleword. -/
  | sd (s : BitVec 5) (a : BitVec 5) (i : BitVec 16)
  /-- R194. Acquire load of a word at the named scope, held until head. -/
  | ldAcqW (d : BitVec 5) (a : BitVec 5) (s : BitVec 2)
  /-- R194. Acquire load of a doubleword. -/
  | ldAcqD (d : BitVec 5) (a : BitVec 5) (s : BitVec 2)
  /-- R194. Release store of a word at the named scope. -/
  | stRelW (a : BitVec 5) (b : BitVec 5) (s : BitVec 2)
  /-- R194. Release store of a doubleword. -/
  | stRelD (a : BitVec 5) (b : BitVec 5) (s : BitVec 2)
  /-- R195. Atomic swap, returning the old value. -/
  | amoSwap (d : BitVec 5) (a : BitVec 5) (b : BitVec 5) (s : BitVec 2) (o : BitVec 2) (z : BitVec 1)
  /-- R195. Atomic add. -/
  | amoAdd (d : BitVec 5) (a : BitVec 5) (b : BitVec 5) (s : BitVec 2) (o : BitVec 2) (z : BitVec 1)
  /-- R195. Atomic AND. -/
  | amoAnd (d : BitVec 5) (a : BitVec 5) (b : BitVec 5) (s : BitVec 2) (o : BitVec 2) (z : BitVec 1)
  /-- R195. Atomic OR. -/
  | amoOr (d : BitVec 5) (a : BitVec 5) (b : BitVec 5) (s : BitVec 2) (o : BitVec 2) (z : BitVec 1)
  /-- R195. Atomic XOR. -/
  | amoXor (d : BitVec 5) (a : BitVec 5) (b : BitVec 5) (s : BitVec 2) (o : BitVec 2) (z : BitVec 1)
  /-- R195. Atomic signed minimum. -/
  | amoMin (d : BitVec 5) (a : BitVec 5) (b : BitVec 5) (s : BitVec 2) (o : BitVec 2) (z : BitVec 1)
  /-- R195. Atomic signed maximum. -/
  | amoMax (d : BitVec 5) (a : BitVec 5) (b : BitVec 5) (s : BitVec 2) (o : BitVec 2) (z : BitVec 1)
  /-- R195. Atomic unsigned minimum. -/
  | amoMinu (d : BitVec 5) (a : BitVec 5) (b : BitVec 5) (s : BitVec 2) (o : BitVec 2) (z : BitVec 1)
  /-- R195. Atomic unsigned maximum. -/
  | amoMaxu (d : BitVec 5) (a : BitVec 5) (b : BitVec 5) (s : BitVec 2) (o : BitVec 2) (z : BitVec 1)
  /-- R196. Compare-and-swap, returning the old value in D. -/
  | cas (d : BitVec 5) (a : BitVec 5) (b : BitVec 5) (s : BitVec 2) (o : BitVec 2) (z : BitVec 1)
  /-- R199. Branches if equal. -/
  | beq (a : BitVec 5) (b : BitVec 5) (o : BitVec 13)
  /-- R199. Branches if not equal. -/
  | bne (a : BitVec 5) (b : BitVec 5) (o : BitVec 13)
  /-- R199. Branches if less, signed. -/
  | blt (a : BitVec 5) (b : BitVec 5) (o : BitVec 13)
  /-- R199. Branches if greater or equal, signed. -/
  | bge (a : BitVec 5) (b : BitVec 5) (o : BitVec 13)
  /-- R199. Branches if less, unsigned. -/
  | bltu (a : BitVec 5) (b : BitVec 5) (o : BitVec 13)
  /-- R199. Branches if greater or equal, unsigned. -/
  | bgeu (a : BitVec 5) (b : BitVec 5) (o : BitVec 13)
  /-- R200. Jumps pc-relative and writes the link. -/
  | jal (d : BitVec 5) (o : BitVec 21)
  /-- R201. Jumps to register plus offset and writes the link. -/
  | jalr (d : BitVec 5) (a : BitVec 5) (i : BitVec 16)
  /-- R202. Jumps through a table of signed offsets, or falls through. -/
  | jt (d : BitVec 5) (a : BitVec 5) (b : BitVec 5)
  /-- R205. Decrements per-lane trip counts and branches while any lane remains. -/
  | vloop (a : BitVec 5) (k : BitVec 3) (e : BitVec 2) (o : BitVec 13)
  /-- R207. Captures up to 16 vector words and executes them with register staggers. -/
  | rpt (d : BitVec 2) (a : BitVec 2) (b : BitVec 2) (c : BitVec 8) (n : BitVec 4)
  /-- R22. Asks the head to open a loop region. -/
  | fork (a : BitVec 5) (b : BitVec 5) (o : BitVec 13)
  /-- R25. Opens or extends a cut region at the target. -/
  | fcut (d : BitVec 5) (o : BitVec 21)
  /-- R132. Orders the thread's accesses and engine commands at a scope. -/
  | fence (s : BitVec 2) (l : BitVec 1) (m : BitVec 1) (e : BitVec 1)
  /-- R216. Parks the head until a memory word meets a condition or times out. -/
  | waitw (d : BitVec 5) (a : BitVec 5) (b : BitVec 5) (c : BitVec 2) (z : BitVec 1)
  /-- R220. Joins a hardware group. -/
  | gjoin (d : BitVec 5) (a : BitVec 5)
  /-- R220. Leaves a hardware group. -/
  | gleave (d : BitVec 5) (a : BitVec 5)
  /-- R221. Arrives at a group barrier and waits. -/
  | gbar (d : BitVec 5) (a : BitVec 5) (b : BitVec 5)
  /-- R227. Sends one message, delivering, parking or refusing it. -/
  | msend (d : BitVec 5) (a : BitVec 5)
  /-- R230. Receives the next message of a mailbox into LS. -/
  | mrecv (d : BitVec 5) (a : BitVec 5) (b : BitVec 5)
  /-- R231. Returns the number of waiting messages. -/
  | mcount (d : BitVec 5) (a : BitVec 5)
  /-- R232. Creates a device-side launch from an LS record. -/
  | spawn (d : BitVec 5) (a : BitVec 5)
  /-- R233. Ends the ring thread with an exit code. -/
  | rexit (a : BitVec 5)
  /-- R234. Offers the ring back to the scheduler. -/
  | yield (d : BitVec 5)
  /-- R213. Sends listed create-mask registers to the successor chunk. -/
  | fwd (a : BitVec 5)
  /-- R214. Ends speculation in the current region. -/
  | fserial
  /-- R249. Vector integer add. -/
  | vadd (e : BitVec 2) (d : BitVec 5) (a : BitVec 5) (b : BitVec 5) (f : BitVec 2) (k : BitVec 2) (t : BitVec 2)
  /-- R249. Vector integer subtract. -/
  | vsub (e : BitVec 2) (d : BitVec 5) (a : BitVec 5) (b : BitVec 5) (f : BitVec 2) (k : BitVec 2) (t : BitVec 2)
  /-- R249. Vector reverse subtract. -/
  | vrsub (e : BitVec 2) (d : BitVec 5) (a : BitVec 5) (b : BitVec 5) (f : BitVec 2) (k : BitVec 2) (t : BitVec 2)
  /-- R249. Vector low product. -/
  | vmul (e : BitVec 2) (d : BitVec 5) (a : BitVec 5) (b : BitVec 5) (f : BitVec 2) (k : BitVec 2) (t : BitVec 2)
  /-- R249. Vector signed high product. -/
  | vmulh (e : BitVec 2) (d : BitVec 5) (a : BitVec 5) (b : BitVec 5) (f : BitVec 2) (k : BitVec 2) (t : BitVec 2)
  /-- R249. Vector unsigned high product. -/
  | vmulhu (e : BitVec 2) (d : BitVec 5) (a : BitVec 5) (b : BitVec 5) (f : BitVec 2) (k : BitVec 2) (t : BitVec 2)
  /-- R249. Vector multiply-accumulate into D. -/
  | vmacc (e : BitVec 2) (d : BitVec 5) (a : BitVec 5) (b : BitVec 5) (f : BitVec 2) (k : BitVec 2) (t : BitVec 2)
  /-- R249. Vector AND. -/
  | vand (e : BitVec 2) (d : BitVec 5) (a : BitVec 5) (b : BitVec 5) (f : BitVec 2) (k : BitVec 2) (t : BitVec 2)
  /-- R249. Vector OR. -/
  | vor (e : BitVec 2) (d : BitVec 5) (a : BitVec 5) (b : BitVec 5) (f : BitVec 2) (k : BitVec 2) (t : BitVec 2)
  /-- R249. Vector XOR. -/
  | vxor (e : BitVec 2) (d : BitVec 5) (a : BitVec 5) (b : BitVec 5) (f : BitVec 2) (k : BitVec 2) (t : BitVec 2)
  /-- R249. Vector shift left. -/
  | vsll (e : BitVec 2) (d : BitVec 5) (a : BitVec 5) (b : BitVec 5) (f : BitVec 2) (k : BitVec 2) (t : BitVec 2)
  /-- R249. Vector logical shift right. -/
  | vsrl (e : BitVec 2) (d : BitVec 5) (a : BitVec 5) (b : BitVec 5) (f : BitVec 2) (k : BitVec 2) (t : BitVec 2)
  /-- R249. Vector arithmetic shift right. -/
  | vsra (e : BitVec 2) (d : BitVec 5) (a : BitVec 5) (b : BitVec 5) (f : BitVec 2) (k : BitVec 2) (t : BitVec 2)
  /-- R249. Vector signed minimum. -/
  | vmin (e : BitVec 2) (d : BitVec 5) (a : BitVec 5) (b : BitVec 5) (f : BitVec 2) (k : BitVec 2) (t : BitVec 2)
  /-- R249. Vector signed maximum. -/
  | vmax (e : BitVec 2) (d : BitVec 5) (a : BitVec 5) (b : BitVec 5) (f : BitVec 2) (k : BitVec 2) (t : BitVec 2)
  /-- R249. Vector unsigned minimum. -/
  | vminu (e : BitVec 2) (d : BitVec 5) (a : BitVec 5) (b : BitVec 5) (f : BitVec 2) (k : BitVec 2) (t : BitVec 2)
  /-- R249. Vector unsigned maximum. -/
  | vmaxu (e : BitVec 2) (d : BitVec 5) (a : BitVec 5) (b : BitVec 5) (f : BitVec 2) (k : BitVec 2) (t : BitVec 2)
  /-- R249. Vector signed saturating add. -/
  | vsadd (e : BitVec 2) (d : BitVec 5) (a : BitVec 5) (b : BitVec 5) (f : BitVec 2) (k : BitVec 2) (t : BitVec 2)
  /-- R249. Vector unsigned saturating add. -/
  | vsaddu (e : BitVec 2) (d : BitVec 5) (a : BitVec 5) (b : BitVec 5) (f : BitVec 2) (k : BitVec 2) (t : BitVec 2)
  /-- R249. Vector signed saturating subtract. -/
  | vssub (e : BitVec 2) (d : BitVec 5) (a : BitVec 5) (b : BitVec 5) (f : BitVec 2) (k : BitVec 2) (t : BitVec 2)
  /-- R249. Vector unsigned saturating subtract. -/
  | vssubu (e : BitVec 2) (d : BitVec 5) (a : BitVec 5) (b : BitVec 5) (f : BitVec 2) (k : BitVec 2) (t : BitVec 2)
  /-- R249. Vector signed absolute value. -/
  | vabs (e : BitVec 2) (d : BitVec 5) (a : BitVec 5) (k : BitVec 2) (t : BitVec 2)
  /-- R250. Vector compare equal into a mask. -/
  | vceq (e : BitVec 2) (d : BitVec 3) (a : BitVec 5) (b : BitVec 5) (f : BitVec 2) (k : BitVec 2) (t : BitVec 2)
  /-- R250. Vector compare not equal into a mask. -/
  | vcne (e : BitVec 2) (d : BitVec 3) (a : BitVec 5) (b : BitVec 5) (f : BitVec 2) (k : BitVec 2) (t : BitVec 2)
  /-- R250. Vector signed less-than into a mask. -/
  | vclt (e : BitVec 2) (d : BitVec 3) (a : BitVec 5) (b : BitVec 5) (f : BitVec 2) (k : BitVec 2) (t : BitVec 2)
  /-- R250. Vector signed less-or-equal into a mask. -/
  | vcle (e : BitVec 2) (d : BitVec 3) (a : BitVec 5) (b : BitVec 5) (f : BitVec 2) (k : BitVec 2) (t : BitVec 2)
  /-- R250. Vector unsigned less-than into a mask. -/
  | vcltu (e : BitVec 2) (d : BitVec 3) (a : BitVec 5) (b : BitVec 5) (f : BitVec 2) (k : BitVec 2) (t : BitVec 2)
  /-- R250. Vector unsigned less-or-equal into a mask. -/
  | vcleu (e : BitVec 2) (d : BitVec 3) (a : BitVec 5) (b : BitVec 5) (f : BitVec 2) (k : BitVec 2) (t : BitVec 2)
  /-- R249. Vector move of operand B. -/
  | vmv (e : BitVec 2) (d : BitVec 5) (b : BitVec 5) (f : BitVec 2) (k : BitVec 2) (t : BitVec 2)
  /-- R251. Shifts and saturates each element to half width. -/
  | vnarrow (e : BitVec 2) (d : BitVec 5) (a : BitVec 5) (b : BitVec 5) (f : BitVec 2) (k : BitVec 2) (t : BitVec 2)
  /-- R251. Sign-extends each element to double width. -/
  | vwiden (e : BitVec 2) (d : BitVec 5) (a : BitVec 5) (k : BitVec 2) (t : BitVec 2)
  /-- R252. Vector FP add. -/
  | vfadd (e : BitVec 2) (d : BitVec 5) (a : BitVec 5) (b : BitVec 5) (f : BitVec 2) (k : BitVec 2) (t : BitVec 2)
  /-- R252. Vector FP subtract. -/
  | vfsub (e : BitVec 2) (d : BitVec 5) (a : BitVec 5) (b : BitVec 5) (f : BitVec 2) (k : BitVec 2) (t : BitVec 2)
  /-- R252. Vector FP multiply. -/
  | vfmul (e : BitVec 2) (d : BitVec 5) (a : BitVec 5) (b : BitVec 5) (f : BitVec 2) (k : BitVec 2) (t : BitVec 2)
  /-- R252. Vector FP divide, interlocked. -/
  | vfdiv (e : BitVec 2) (d : BitVec 5) (a : BitVec 5) (b : BitVec 5) (f : BitVec 2) (k : BitVec 2) (t : BitVec 2)
  /-- R252. Vector FP square root, interlocked. -/
  | vfsqrt (e : BitVec 2) (d : BitVec 5) (a : BitVec 5) (k : BitVec 2) (t : BitVec 2)
  /-- R252. Vector fused a×b+d. -/
  | vfma (e : BitVec 2) (d : BitVec 5) (a : BitVec 5) (b : BitVec 5) (f : BitVec 2) (k : BitVec 2) (t : BitVec 2)
  /-- R252. Vector fused a×b−d. -/
  | vfms (e : BitVec 2) (d : BitVec 5) (a : BitVec 5) (b : BitVec 5) (f : BitVec 2) (k : BitVec 2) (t : BitVec 2)
  /-- R252. Vector fused −a×b−d. -/
  | vfnma (e : BitVec 2) (d : BitVec 5) (a : BitVec 5) (b : BitVec 5) (f : BitVec 2) (k : BitVec 2) (t : BitVec 2)
  /-- R252. Vector FP minimum. -/
  | vfmin (e : BitVec 2) (d : BitVec 5) (a : BitVec 5) (b : BitVec 5) (f : BitVec 2) (k : BitVec 2) (t : BitVec 2)
  /-- R252. Vector FP maximum. -/
  | vfmax (e : BitVec 2) (d : BitVec 5) (a : BitVec 5) (b : BitVec 5) (f : BitVec 2) (k : BitVec 2) (t : BitVec 2)
  /-- R252. Vector FP equality compare into a mask. -/
  | vfceq (e : BitVec 2) (d : BitVec 3) (a : BitVec 5) (b : BitVec 5) (f : BitVec 2) (k : BitVec 2) (t : BitVec 2)
  /-- R252. Vector FP less-than compare into a mask. -/
  | vfclt (e : BitVec 2) (d : BitVec 3) (a : BitVec 5) (b : BitVec 5) (f : BitVec 2) (k : BitVec 2) (t : BitVec 2)
  /-- R252. Vector FP less-or-equal compare into a mask. -/
  | vfcle (e : BitVec 2) (d : BitVec 3) (a : BitVec 5) (b : BitVec 5) (f : BitVec 2) (k : BitVec 2) (t : BitVec 2)
  /-- R252. Clears the sign of each FP element. -/
  | vfabs (e : BitVec 2) (d : BitVec 5) (a : BitVec 5) (k : BitVec 2) (t : BitVec 2)
  /-- R252. Inverts the sign of each FP element. -/
  | vfneg (e : BitVec 2) (d : BitVec 5) (a : BitVec 5) (k : BitVec 2) (t : BitVec 2)
  /-- R252. Writes the class mask of each FP element. -/
  | vfclass (e : BitVec 2) (d : BitVec 5) (a : BitVec 5) (k : BitVec 2) (t : BitVec 2)
  /-- R83. Vector base-2 exponential estimate. -/
  | vfexp2 (e : BitVec 2) (d : BitVec 5) (a : BitVec 5) (k : BitVec 2) (t : BitVec 2)
  /-- R81. Vector reciprocal estimate. -/
  | vfrcp (e : BitVec 2) (d : BitVec 5) (a : BitVec 5) (k : BitVec 2) (t : BitVec 2)
  /-- R82. Vector reciprocal square-root estimate. -/
  | vfrsq (e : BitVec 2) (d : BitVec 5) (a : BitVec 5) (k : BitVec 2) (t : BitVec 2)
  /-- R252. Copies operand B bits unchanged. -/
  | vfmv (e : BitVec 2) (d : BitVec 5) (b : BitVec 5) (f : BitVec 2) (k : BitVec 2) (t : BitVec 2)
  /-- R253. Converts BF16 to FP32 exactly. -/
  | vconvSfBf (d : BitVec 5) (a : BitVec 5) (k : BitVec 2) (t : BitVec 2)
  /-- R253. Converts FP32 to BF16. -/
  | vconvBfSf (d : BitVec 5) (a : BitVec 5) (k : BitVec 2) (t : BitVec 2)
  /-- R253. Converts FP16 to FP32 exactly. -/
  | vconvSfHf (d : BitVec 5) (a : BitVec 5) (k : BitVec 2) (t : BitVec 2)
  /-- R253. Converts FP32 to FP16. -/
  | vconvHfSf (d : BitVec 5) (a : BitVec 5) (k : BitVec 2) (t : BitVec 2)
  /-- R253. Converts E4M3 to FP32 exactly. -/
  | vconvSfE4 (d : BitVec 5) (a : BitVec 5) (k : BitVec 2) (t : BitVec 2)
  /-- R253. Converts FP32 to E4M3. -/
  | vconvE4Sf (d : BitVec 5) (a : BitVec 5) (k : BitVec 2) (t : BitVec 2)
  /-- R253. Converts E5M2 to FP32 exactly. -/
  | vconvSfE5 (d : BitVec 5) (a : BitVec 5) (k : BitVec 2) (t : BitVec 2)
  /-- R253. Converts FP32 to E5M2. -/
  | vconvE5Sf (d : BitVec 5) (a : BitVec 5) (k : BitVec 2) (t : BitVec 2)
  /-- R253. Converts FP32 to FP64 exactly. -/
  | vconvDfSf (d : BitVec 5) (a : BitVec 5) (k : BitVec 2) (t : BitVec 2)
  /-- R253. Converts FP64 to FP32. -/
  | vconvSfDf (d : BitVec 5) (a : BitVec 5) (k : BitVec 2) (t : BitVec 2)
  /-- R253. Converts signed 32-bit integers to FP32. -/
  | vconvSfW (d : BitVec 5) (a : BitVec 5) (k : BitVec 2) (t : BitVec 2)
  /-- R253. Converts FP32 to signed 32-bit integers. -/
  | vconvWSf (d : BitVec 5) (a : BitVec 5) (k : BitVec 2) (t : BitVec 2)
  /-- R254. Quantises FP32 elements to KI8 elements and E8 scales. -/
  | kq8 (d : BitVec 5) (a : BitVec 5) (b : BitVec 5) (t : BitVec 2)
  /-- R255. Dequantises KI8 elements to FP32. -/
  | kdq8 (d : BitVec 5) (a : BitVec 5) (b : BitVec 5) (k : BitVec 2) (t : BitVec 2)
  /-- R256. Packs clamped integers into T2 codes. -/
  | t2pack (d : BitVec 5) (a : BitVec 5) (e : BitVec 2) (t : BitVec 2)
  /-- R256. Unpacks T2 codes into integers, faulting on code 0b10. -/
  | t2unpack (d : BitVec 5) (a : BitVec 5) (e : BitVec 2) (k : BitVec 2) (t : BitVec 2)
  /-- R256. Packs saturated integers into I4 nibbles. -/
  | q4pack (d : BitVec 5) (a : BitVec 5) (e : BitVec 2) (t : BitVec 2)
  /-- R256. Unpacks I4 nibbles into integers. -/
  | q4unpack (d : BitVec 5) (a : BitVec 5) (e : BitVec 2) (k : BitVec 2) (t : BitVec 2)
  /-- R248. ANDs two mask registers. -/
  | kand (d : BitVec 3) (a : BitVec 3) (b : BitVec 3)
  /-- R248. ORs two mask registers. -/
  | kor (d : BitVec 3) (a : BitVec 3) (b : BitVec 3)
  /-- R248. XORs two mask registers. -/
  | kxor (d : BitVec 3) (a : BitVec 3) (b : BitVec 3)
  /-- R248. Inverts a mask register. -/
  | knot (d : BitVec 3) (a : BitVec 3)
  /-- R248. Copies a mask register. -/
  | kmov (d : BitVec 3) (a : BitVec 3)
  /-- R248. Counts set mask bits below vl. -/
  | kpop (d : BitVec 5) (a : BitVec 3)
  /-- R248. Finds the lowest set mask bit below vl. -/
  | kfirst (d : BitVec 5) (a : BitVec 3)
  /-- R248. Writes 64 bits of a mask register from an x register. -/
  | kset (d : BitVec 3) (a : BitVec 5) (b : BitVec 5)
  /-- R248. Reads 64 bits of a mask register. -/
  | kget (d : BitVec 5) (a : BitVec 3) (b : BitVec 5)
  /-- R241. Sets vl and vew from the request, width and power grant. -/
  | setvl (d : BitVec 5) (a : BitVec 5) (b : BitVec 5)
  /-- R243. Zeroes every vector register and marks it dead. -/
  | vdead
  /-- R267. Unit-stride vector load. -/
  | vld (d : BitVec 5) (a : BitVec 5) (e : BitVec 2) (k : BitVec 2) (t : BitVec 2)
  /-- R267. Strided vector load. -/
  | vlds (d : BitVec 5) (a : BitVec 5) (b : BitVec 5) (e : BitVec 2) (k : BitVec 2) (t : BitVec 2)
  /-- R268. Ordered indexed gather. -/
  | vldxO (d : BitVec 5) (a : BitVec 5) (b : BitVec 5) (e : BitVec 2) (k : BitVec 2) (t : BitVec 2)
  /-- R268. Unordered indexed gather. -/
  | vldxU (d : BitVec 5) (a : BitVec 5) (b : BitVec 5) (e : BitVec 2) (k : BitVec 2) (t : BitVec 2)
  /-- R267. Unit-stride vector store. -/
  | vst (s : BitVec 5) (a : BitVec 5) (e : BitVec 2) (k : BitVec 2) (t : BitVec 2)
  /-- R267. Strided vector store. -/
  | vsts (s : BitVec 5) (a : BitVec 5) (b : BitVec 5) (e : BitVec 2) (k : BitVec 2) (t : BitVec 2)
  /-- R267. Ordered indexed scatter. -/
  | vstxO (s : BitVec 5) (a : BitVec 5) (b : BitVec 5) (e : BitVec 2) (k : BitVec 2) (t : BitVec 2)
  /-- R267. Unordered indexed scatter, highest index wins. -/
  | vstxU (s : BitVec 5) (a : BitVec 5) (b : BitVec 5) (e : BitVec 2) (k : BitVec 2) (t : BitVec 2)
  /-- R271. Integer scatter-add, one relaxed RMW per element. -/
  | vscaddI (s : BitVec 5) (a : BitVec 5) (b : BitVec 5) (e : BitVec 2) (k : BitVec 2) (t : BitVec 2)
  /-- R272. Fixed-point scatter-add of FP32 elements into 64-bit words. -/
  | vscaddX (s : BitVec 5) (a : BitVec 5) (b : BitVec 5) (k : BitVec 2) (t : BitVec 2)
  /-- R271. Scatter signed minimum. -/
  | vscmin (s : BitVec 5) (a : BitVec 5) (b : BitVec 5) (e : BitVec 2) (k : BitVec 2) (t : BitVec 2)
  /-- R271. Scatter signed maximum. -/
  | vscmax (s : BitVec 5) (a : BitVec 5) (b : BitVec 5) (e : BitVec 2) (k : BitVec 2) (t : BitVec 2)
  /-- R271. Scatter OR. -/
  | vscor (s : BitVec 5) (a : BitVec 5) (b : BitVec 5) (e : BitVec 2) (k : BitVec 2) (t : BitVec 2)
  /-- R267. Loads one value and broadcasts it to active elements. -/
  | vldb (d : BitVec 5) (a : BitVec 5) (e : BitVec 2) (k : BitVec 2) (t : BitVec 2)
  /-- R270. Unit-stride load that shortens vl instead of faulting past the first element. -/
  | vldff (d : BitVec 5) (a : BitVec 5) (e : BitVec 2) (k : BitVec 2) (t : BitVec 2)
  /-- R273. FP scatter-add in ascending element order. -/
  | vscaddF (s : BitVec 5) (a : BitVec 5) (b : BitVec 5) (e : BitVec 1) (k : BitVec 2) (t : BitVec 2)
  /-- R257. Integer sum reduction into element 0. -/
  | vredsum (d : BitVec 5) (a : BitVec 5) (b : BitVec 5) (e : BitVec 2) (k : BitVec 2) (t : BitVec 2)
  /-- R257. Signed maximum reduction. -/
  | vredmax (d : BitVec 5) (a : BitVec 5) (b : BitVec 5) (e : BitVec 2) (k : BitVec 2) (t : BitVec 2)
  /-- R257. Signed minimum reduction. -/
  | vredmin (d : BitVec 5) (a : BitVec 5) (b : BitVec 5) (e : BitVec 2) (k : BitVec 2) (t : BitVec 2)
  /-- R257. Unsigned maximum reduction. -/
  | vredmaxu (d : BitVec 5) (a : BitVec 5) (b : BitVec 5) (e : BitVec 2) (k : BitVec 2) (t : BitVec 2)
  /-- R257. Unsigned minimum reduction. -/
  | vredminu (d : BitVec 5) (a : BitVec 5) (b : BitVec 5) (e : BitVec 2) (k : BitVec 2) (t : BitVec 2)
  /-- R257. FP sum reduction in ascending index, rounding each step. -/
  | vfredsum (d : BitVec 5) (a : BitVec 5) (b : BitVec 5) (e : BitVec 2) (k : BitVec 2) (t : BitVec 2)
  /-- R257. FP maximum reduction. -/
  | vfredmax (d : BitVec 5) (a : BitVec 5) (b : BitVec 5) (e : BitVec 2) (k : BitVec 2) (t : BitVec 2)
  /-- R258. Slides elements up by X[B]. -/
  | vslideup (d : BitVec 5) (a : BitVec 5) (b : BitVec 5) (e : BitVec 2) (k : BitVec 2) (t : BitVec 2)
  /-- R258. Slides elements down by X[B]. -/
  | vslidedn (d : BitVec 5) (a : BitVec 5) (b : BitVec 5) (e : BitVec 2) (k : BitVec 2) (t : BitVec 2)
  /-- R258. Permutes elements by an index vector. -/
  | vperm (d : BitVec 5) (a : BitVec 5) (b : BitVec 5) (e : BitVec 2) (k : BitVec 2) (t : BitVec 2)
  /-- R259. Packs mask-selected elements to the front. -/
  | vcompress (d : BitVec 5) (a : BitVec 5) (b : BitVec 3) (e : BitVec 2) (t : BitVec 2)
  /-- R259. Spreads leading elements to mask-selected positions. -/
  | vexpand (d : BitVec 5) (a : BitVec 5) (b : BitVec 3) (e : BitVec 2) (t : BitVec 2)
  /-- R258. Broadcasts element X[B]. -/
  | vbcast (d : BitVec 5) (a : BitVec 5) (b : BitVec 5) (e : BitVec 2) (k : BitVec 2) (t : BitVec 2)
  /-- R261. Moves element 0 to an x register. -/
  | vmvxs (d : BitVec 5) (a : BitVec 5) (e : BitVec 2) (t : BitVec 2)
  /-- R261. Moves an x register into element 0. -/
  | vmvsx (d : BitVec 5) (a : BitVec 5) (e : BitVec 2) (t : BitVec 2)
  /-- R260. Selects elements of A or B by the mask. -/
  | vmerge (d : BitVec 5) (a : BitVec 5) (b : BitVec 5) (e : BitVec 2) (k : BitVec 2) (t : BitVec 2)
  /-- R263. Ranks equal keys and marks last occurrences. -/
  | vbin (d : BitVec 5) (a : BitVec 5) (b : BitVec 3) (e : BitVec 2) (k : BitVec 2) (t : BitVec 2)
  /-- R264. Merges two ascending key vectors. -/
  | vmrgs (d : BitVec 5) (a : BitVec 5) (b : BitVec 5) (e : BitVec 2) (k : BitVec 2) (t : BitVec 2)
  /-- R262. Writes the count of set mask bits below each element. -/
  | viota (d : BitVec 5) (a : BitVec 3) (e : BitVec 2) (k : BitVec 2) (t : BitVec 2)
  /-- R262. Inclusive prefix sum. -/
  | vscan (d : BitVec 5) (a : BitVec 5) (e : BitVec 2) (k : BitVec 2) (t : BitVec 2)
  /-- R262. Writes each element's index. -/
  | vid (d : BitVec 5) (e : BitVec 2) (k : BitVec 2) (t : BitVec 2)
  /-- R286. Issues a copy command from a shape record. -/
  | ccopy (d : BitVec 5) (a : BitVec 5) (b : BitVec 3) (q : BitVec 1) (l : BitVec 1) (s : BitVec 2) (t : BitVec 2)
  /-- R286. Issues a copy with indexed source positions. -/
  | cgath (d : BitVec 5) (a : BitVec 5) (b : BitVec 3) (q : BitVec 1) (l : BitVec 1) (s : BitVec 2) (t : BitVec 2)
  /-- R286. Issues a copy with indexed destination positions. -/
  | cscat (d : BitVec 5) (a : BitVec 5) (b : BitVec 3) (q : BitVec 1) (l : BitVec 1) (s : BitVec 2) (t : BitVec 2)
  /-- R286. Issues a fill of the destination with a pattern. -/
  | cfill (d : BitVec 5) (a : BitVec 5) (b : BitVec 3) (q : BitVec 1) (l : BitVec 1) (s : BitVec 2) (t : BitVec 2)
  /-- R287. Waits until a copy barrier's pending count reaches zero. -/
  | cwait (d : BitVec 5) (b : BitVec 3) (t : BitVec 2)
  /-- R288. Reports the oldest faulted command on a barrier. -/
  | cquery (d : BitVec 5) (a : BitVec 5) (b : BitVec 3) (t : BitVec 2)
  /-- R289. Restarts a faulted command at its faulting group. -/
  | cresume (d : BitVec 5) (a : BitVec 5) (b : BitVec 3) (t : BitVec 2)
  /-- R290. Aborts one command, or all on a barrier. -/
  | cabort (d : BitVec 5) (a : BitVec 5) (b : BitVec 3) (t : BitVec 2)
  /-- R303. Claims the core's Enlarger bank. -/
  | mclaim (d : BitVec 5) (t : BitVec 2)
  /-- R296. Checks and installs a format context and clears the bank. -/
  | mfmt (a : BitVec 5) (t : BitVec 2)
  /-- R303. Clears the bank and manages A-stream replay. -/
  | mzero (t : BitVec 2)
  /-- R304. Applies step groups from the FIFOs to the bank. -/
  | mstep (a : BitVec 5) (t : BitVec 2)
  /-- R302. Drains one row of cells into a vector register. -/
  | mdrain (d : BitVec 5) (a : BitVec 5) (t : BitVec 2)
  /-- R303. Drains all used rows to LS and clears the bank. -/
  | mdrainl (a : BitVec 5) (t : BitVec 2)
  /-- R303. Releases the bank claim and discards its state. -/
  | mrel (t : BitVec 2)
  /-- R303. Returns STEPS, Tray entries and MSTART. -/
  | mstat (d : BitVec 5) (t : BitVec 2)
  /-- R299. Spills every Tray entry of the bank. -/
  | mspill (d : BitVec 5) (t : BitVec 2)
  /-- R311. Binds and configures the Loupe, or releases it. -/
  | lcfg (d : BitVec 5) (a : BitVec 5) (t : BitVec 2)
  /-- R316. Predicts one batch and writes the FETCH, SAMPLE and REST lists. -/
  | lpred (d : BitVec 5) (a : BitVec 5) (t : BitVec 2)
  /-- R318. Counts active sampled rows and decides replay. -/
  | lproof (d : BitVec 5) (a : BitVec 5) (t : BitVec 2)
  /-- R320. Reads, and optionally clears, a Loupe calibration counter. -/
  | lstat (d : BitVec 5) (a : BitVec 5) (t : BitVec 2)
  /-- R336. Reads a status register. -/
  | sregR (d : BitVec 5) (s : BitVec 10)
  /-- R336. Writes a status register. -/
  | sregW (a : BitVec 5) (s : BitVec 10)
  /-- R336. Exchanges an x register with a status register. -/
  | sregX (d : BitVec 5) (a : BitVec 5) (s : BitVec 10)
  /-- R337. Raises SCALL with a call code. -/
  | scall (n : BitVec 10)
  /-- R338. Returns from a handler, restoring stat and pc. -/
  | tret
  /-- R337. Raises BRK with a break code. -/
  | brk (n : BitVec 10)
  /-- R339. Loads a segment register from memory. -/
  | sgld (n : BitVec 3) (a : BitVec 5)
  /-- R339. Stores a segment register to memory. -/
  | sgst (n : BitVec 3) (a : BitVec 5)
  /-- R340. Performs a page or ASID shootdown and waits for it. -/
  | pflush (a : BitVec 5)
  /-- R341. Writes back the ring's lines of a range. -/
  | cflush (l : BitVec 5) (a : BitVec 5)
  /-- R341. Writes back and invalidates the ring's lines of a range. -/
  | cinv (l : BitVec 5) (a : BitVec 5)
  /-- R342. Parks the head until an interrupt is pending. -/
  | idle (d : BitVec 5)
  /-- R343. Saves and stops the thread for inspection. -/
  | halt (a : BitVec 5)
  /-- R344. Waits for completion and discards fetched instruction words. -/
  | ssync
  /-- R150. Write of stat, checked for mode and privilege fields. -/
  | statWrite (v : BitVec 64)
  /-- R79. Write of fflags, setting the thread value and squashing younger chunks. -/
  | fflagsWrite (v : BitVec 64)
  /-- R336. Write of tmcmp, re-evaluating TIMER at once. -/
  | tmcmpWrite (v : BitVec 64)
  /-- R223. Write of mbase, binding or replacing the endpoint holder. -/
  | mbaseWrite (v : BitVec 64)
  /-- R91. Write of asid, squashing younger chunks. -/
  | asidWrite (v : BitVec 64)
  /-- R91. Write of pgroot, squashing younger chunks. -/
  | pgrootWrite (v : BitVec 64)
  /-- R329. cyc reaches tmcmp and TIMER becomes pending. -/
  | timerPending
  /-- R330. Takes a pending enabled interrupt at a head instruction boundary. -/
  | interruptEntry
  /-- R27. Creates the next chunk once a slot is empty and in-flight limit allows. -/
  | chunkCreate
  /-- R30. A forwarded register value reaches the successor chunk. -/
  | stitchValueArrival
  /-- R35. A store notice meets a younger chunk's read bit and squashes it. -/
  | storeNoticeArrival
  /-- R38. A squashed chunk restarts 12 cycles after the squash. -/
  | chunkRestart
  /-- R39. The head commits once forwards, stores and engine commands are done. -/
  | chunkCommit
  /-- R175. Data of an outstanding load or atomic arrives and is written. -/
  | loadResultReturn
  /-- R175. A divide, remainder, fdiv or fsqrt result is written and frees its slot. -/
  | longOpResult
  /-- R105. A read miss joins the line's chain at the home. -/
  | trkReadMiss (ring line : Nat)
  /-- R105. A write asks the home for ownership, starting a purge. -/
  | trkOwnershipRequest (ring line : Nat)
  /-- R105. A purge invalidates a chain member's copies and passes on. -/
  | trkPurge (line : Nat)
  /-- R105. The tail acknowledges and the home grants M. -/
  | purgeAck (line : Nat)
  /-- R106. Evicts a ring-cache line, unlinking or writing it back. -/
  | ringCacheEviction (ring line : Nat)
  /-- R101. A translation miss starts a walk when a walker is free. -/
  | pageWalkStart (die : Nat) (va : BitVec 64)
  /-- R98. A walk ends with a translation or a fault. -/
  | pageWalkComplete (die : Nat)
  /-- R114. A die acknowledges a shootdown; the last completes it. -/
  | shootdownAck (die : Nat)
  /-- R228. A message is written into the destination mailbox slot and COUNT advances. -/
  | messageDelivery (spkg sep ep mbox ch : Nat) (user : BitVec 64) (payload : List (BitVec 8))
  /-- R229. The message unit retries a parked entry when TAKEN advances. -/
  | parkedMessageDelivery (lid tix entry : Nat)
  /-- R217. A parked waitw re-reads its word on purge or period. -/
  | waitwReread
  /-- R216. waitw reaches its wtime limit and returns 1. -/
  | waitwTimeout
  /-- R221. Members' gbar return 0, 96 cycles after the last arrival. -/
  | gbarComplete (group : Nat)
  /-- R221. A member times out and is withdrawn from the arrived set. -/
  | gbarTimeout
  /-- R287. cwait reaches its wtime limit and returns 1. -/
  | cwaitTimeout
  /-- R275. A queued copy command becomes active. -/
  | copyCommandActivate (n : Nat)
  /-- R279. The engine translates and performs one element group. -/
  | copyElementGroup (cmd n : Nat)
  /-- R295. A waiting bank is granted the array lease. -/
  | enlargerLease
  /-- R297. The array checks and applies one step group to the bank's cells. -/
  | enlargerGroupApply
  /-- R317. The Loupe finishes consuming the stream and writes the lists. -/
  | lpredCompletion
  /-- R366. The scheduler places the head of the highest ready queue on an available ring. -/
  | placeThread
  /-- R367. A thread's slice ends and it may be pre-empted. -/
  | sliceExpiry
  /-- R367. A parked head passes WPARK and becomes eligible for pre-emption. -/
  | wparkExpiry
  /-- R346. Saves a ring thread and releases its ring. -/
  | preempt
  /-- R350. Restores a saved thread on a ring and re-accepts its commands. -/
  | resume (lid tix : Nat)
  /-- R364. Re-reads a launch dependence word until met or failed. -/
  | dependenceReread (lid : Nat)
  /-- R364. Re-reads the WAITEV word until it is met. -/
  | waitevReread (queue : Nat)
  /-- R356. The host writes a queue's tail word and the device fetches new commands. -/
  | queueTailWrite (queue : Nat) (tail : BitVec 64)
  /-- R355. Write of QCTL, enabling or stopping a queue. -/
  | qctlWrite (queue : Nat) (v : BitVec 64)
  /-- R373. Host consumes events; waiting events are posted. -/
  | eqheadWrite (v : BitVec 64)
  /-- R373. Enables or configures the event queue. -/
  | eqctlWrite (v : BitVec 64)
  /-- R4. Write to an aperture or management register with no behaviour of its own. -/
  | registerWrite (mgmt : Bool) (off : Nat) (v : BitVec 64)
  /-- R360. Copies and checks a launch record and admits the launch. -/
  | launch (queue : Nat)
  /-- R358. Writes a word and sets a thread's HOSTIRQ. -/
  | signal (queue : Nat)
  /-- R358. Completes when a memory word reaches a value. -/
  | waitev (queue : Nat)
  /-- R358. Writes a leaf after shooting down a valid old entry. -/
  | map (queue : Nat)
  /-- R358. Clears an entry and shoots the page down. -/
  | unmap (queue : Nat)
  /-- R359. Holds, shoots down, copies and remaps a page. -/
  | migrate (queue : Nat)
  /-- R358. Copies bytes with the system die's engine. -/
  | copy (queue : Nat)
  /-- R358. Writes a device, launch or thread report. -/
  | query (queue : Nat)
  /-- R365. Ends every thread of a launch. -/
  | resetLaunch (queue : Nat)
  /-- R406. Performs a warm start of the package. -/
  | resetWarm (queue : Nat) (fails : List (Nat × Nat))
  /-- R406. Performs a cold start of the package. -/
  | resetCold (queue : Nat) (fails : List (Nat × Nat))
  /-- R411. Carries one SPDM request and response. -/
  | attest (queue : Nat)
  /-- R172. Loads and relocates an IKX image. -/
  | loadimg (queue : Nat)
  /-- R377. A host agent reads device memory or an aperture register. -/
  | hostRead (pa size : Nat)
  /-- R377. A host agent writes device memory. -/
  | hostWrite (pa size : Nat) (v : BitVec 512)
  /-- R380. The host snoops a line held by the package. -/
  | hostSnoop (line : Nat) (invalidate : Bool)
  /-- R198. A peer package's read, write or atomic arrives over UALink. -/
  | peerRequest (op pa size : Nat) (v w : BitVec 64)
  /-- R375. The power controller evaluates limits and moves die levels. -/
  | powerEvaluation (pkg : Nat) (dieW stackW : List Nat)
  /-- R412. A die above 105 °C moves to level 5. -/
  | dieJunctionHot (die : Nat)
  /-- R412. A die above 120 °C trips the power stages off. -/
  | dieJunctionTrip (die : Nat)
  /-- R413. Input voltage outside 40–60 V keeps the stages off. -/
  | inputOutOfRange (volts : Nat)
  /-- R400. A channel's retraining interval expires and a burst starts. -/
  | hbmRetrain (stack chan : Nat)
  /-- R400. A retraining burst ends and waiting requests are served. -/
  | hbmRetrainEnd (stack chan : Nat)
  /-- R404. A stack raises critical temperature and enters self-refresh. -/
  | stackCriticalTemp (stack : Nat)
  /-- R405. The stack leaves self-refresh after 1 ms below threshold. -/
  | selfRefreshExit (stack : Nat)
  /-- R405. Self-refresh lasts TSR_MAX and waiting requests fail. -/
  | tsrMaxExpiry (stack : Nat)
  /-- R403. The patrol scrubber reads and corrects HBM. -/
  | patrolScrub (pa : Nat)
  /-- R403. An uncorrectable error ends the charged address space's threads. -/
  | memerr (pa : Nat) (charged : Bool) (asid : BitVec 12)
  /-- R406. Power-on starts a cold start. -/
  | powerOn (fails : List (Nat × Nat))
  /-- R406. STARTCMD.CMD = 1 starts a warm start. -/
  | startcmdWarm (fails : List (Nat × Nat))
  /-- R406. STARTCMD.CMD = 2 starts a cold start. -/
  | startcmdCold (fails : List (Nat × Nat))
  /-- R406. A start step exceeds 10 s and fails with REASON 9. -/
  | startStepTimeout (step : Nat) (fails : List (Nat × Nat))
  /-- R408. The management controller writes a firmware image in recovery. -/
  | firmwareStagingWrite (version : Nat) (image : List (BitVec 8))
  /-- R411. SPDM request for supported versions. -/
  | getVersion (attest : Bool) (req : List (BitVec 8))
  /-- R411. SPDM request for capabilities. -/
  | getCapabilities (attest : Bool) (req : List (BitVec 8))
  /-- R411. SPDM algorithm negotiation, P-256 and SHA-256 only. -/
  | negotiateAlgorithms (attest : Bool) (req : List (BitVec 8))
  /-- R411. SPDM request for certificate digests, slot 0. -/
  | getDigests (attest : Bool) (req : List (BitVec 8))
  /-- R411. SPDM request for the slot 0 certificate chain. -/
  | getCertificate (attest : Bool) (req : List (BitVec 8))
  /-- R411. SPDM challenge signed with the alias key. -/
  | challenge (attest : Bool) (req : List (BitVec 8))
  /-- R411. SPDM measurements of ROM, firmware and fuses, signed. -/
  | getMeasurements (attest : Bool) (req : List (BitVec 8))
  /-- R411. Any other SPDM request gets UnsupportedRequest. -/
  | unsupportedRequest (attest : Bool) (req : List (BitVec 8))
  /-- R157. A fetched word in a reserved major, an unassigned function value or a reserved FORM raises ILLOP with tinfo = the word. -/
  | illop (w : BitVec 32)
  /-- R341. A home acknowledges a write-back or drained store, releasing a parked cflush, cinv, ssync or fence and lowering the unacknowledged-store count. -/
  | writeBackAcknowledgement
  /-- R405. A stack's critical-temperature signal falls, starting the 1 ms count before it leaves self-refresh. -/
  | criticalTemperatureCleared (stack : Nat)
  /-- R379. A compute die is reset: its host lines are written back and invalidated, snoops are answered from the filter, and it later returns to service with empty caches. -/
  | dieReset (die : Nat)
  /-- R379. A die is power-gated after its host lines are flushed and before its clocks stop. -/
  | diePowerGating (die : Nat)
  /-- R407. Aeleadel Link goes down, so host-bound completions such as RESET's are dropped. -/
  | hostLinkDown
  deriving DecidableEq, Repr

end Sys2Proof
end

