-- ==== Sys2Proof/WellFormed.lean ====
section
/-! DEFINITION. Which terms of Instr are instructions of the V32: the field values that R157 refuses by the word alone,
and the ranges of the arguments of the steps that have no word.
-/

namespace Sys2Proof

/-- What is wrong with an ill-formed term. -/
inductive Flaw where
  /-- FORM 11 (R144, R157). -/
  | form
  /-- A rounding field of 6 (R62, R157). -/
  | rounding
  /-- fcvt.w with equal widths (R156). -/
  | sameWidth
  /-- A width that majors 0x34 to 0x36 do not have (R156). -/
  | fpWidth
  /-- vnarrow in major 0x30 (R156, R251). -/
  | narrowByte
  /-- vwiden in major 0x33 (R156, R251). -/
  | widenDouble
  /-- vloop with B [2:0] = 0 (R205), vmerge with KM = 0 (R260). -/
  | maskZero
  /-- kq8 with D = B (R254). -/
  | quantTarget
  /-- An FP reduction with EW = 0 (R257). -/
  | fpByte
  /-- A ring id above 255 (R12). -/
  | ring
  /-- A die number above 31 (R10). -/
  | die
  /-- A queue number above 1,023 (R354). -/
  | queue
  /-- A group number above 63 (R219). -/
  | group
  /-- A stack number above 15 (R398). -/
  | stack
  /-- A channel above 31 (R398). -/
  | channel
  /-- A package id above 1,023 (R223). -/
  | package
  /-- An endpoint number above 255 (R223). -/
  | endpoint
  /-- A mailbox or channel above 3 (R223, R225). -/
  | mailbox
  /-- A message payload above 4,096 bytes (R225). -/
  | payload
  /-- A physical address outside its space (R102). -/
  | address
  deriving DecidableEq, Repr

/-- The first flaw of a term, none for an instruction or step of the V32. -/
def Instr.flaw : Instr → Option Flaw
  | .fadd _ _ _ r _ => if r = 6 then some .rounding else none
  | .fsub _ _ _ r _ => if r = 6 then some .rounding else none
  | .fmul _ _ _ r _ => if r = 6 then some .rounding else none
  | .fdiv _ _ _ r _ => if r = 6 then some .rounding else none
  | .fsqrt _ _ r _ => if r = 6 then some .rounding else none
  | .fcvtI _ _ r _ _ => if r = 6 then some .rounding else none
  | .fcvtF _ _ r _ _ => if r = 6 then some .rounding else none
  | .fcvtW _ _ r s w => if r = 6 then some .rounding else if s = w then some .sameWidth else none
  | .vloop _ k _ _ => if k = 0 then some .maskZero else none
  | .vadd _ _ _ _ f _ _ => if f = 3 then some .form else none
  | .vsub _ _ _ _ f _ _ => if f = 3 then some .form else none
  | .vrsub _ _ _ _ f _ _ => if f = 3 then some .form else none
  | .vmul _ _ _ _ f _ _ => if f = 3 then some .form else none
  | .vmulh _ _ _ _ f _ _ => if f = 3 then some .form else none
  | .vmulhu _ _ _ _ f _ _ => if f = 3 then some .form else none
  | .vmacc _ _ _ _ f _ _ => if f = 3 then some .form else none
  | .vand _ _ _ _ f _ _ => if f = 3 then some .form else none
  | .vor _ _ _ _ f _ _ => if f = 3 then some .form else none
  | .vxor _ _ _ _ f _ _ => if f = 3 then some .form else none
  | .vsll _ _ _ _ f _ _ => if f = 3 then some .form else none
  | .vsrl _ _ _ _ f _ _ => if f = 3 then some .form else none
  | .vsra _ _ _ _ f _ _ => if f = 3 then some .form else none
  | .vmin _ _ _ _ f _ _ => if f = 3 then some .form else none
  | .vmax _ _ _ _ f _ _ => if f = 3 then some .form else none
  | .vminu _ _ _ _ f _ _ => if f = 3 then some .form else none
  | .vmaxu _ _ _ _ f _ _ => if f = 3 then some .form else none
  | .vsadd _ _ _ _ f _ _ => if f = 3 then some .form else none
  | .vsaddu _ _ _ _ f _ _ => if f = 3 then some .form else none
  | .vssub _ _ _ _ f _ _ => if f = 3 then some .form else none
  | .vssubu _ _ _ _ f _ _ => if f = 3 then some .form else none
  | .vceq _ _ _ _ f _ _ => if f = 3 then some .form else none
  | .vcne _ _ _ _ f _ _ => if f = 3 then some .form else none
  | .vclt _ _ _ _ f _ _ => if f = 3 then some .form else none
  | .vcle _ _ _ _ f _ _ => if f = 3 then some .form else none
  | .vcltu _ _ _ _ f _ _ => if f = 3 then some .form else none
  | .vcleu _ _ _ _ f _ _ => if f = 3 then some .form else none
  | .vmv _ _ _ f _ _ => if f = 3 then some .form else none
  | .vnarrow e _ _ _ f _ _ => if f = 3 then some .form else if e = 0 then some .narrowByte else none
  | .vwiden e _ _ _ _ => if e = 3 then some .widenDouble else none
  | .vfadd e _ _ _ f _ _ => if e = 3 then some .fpWidth else if f = 3 then some .form else none
  | .vfsub e _ _ _ f _ _ => if e = 3 then some .fpWidth else if f = 3 then some .form else none
  | .vfmul e _ _ _ f _ _ => if e = 3 then some .fpWidth else if f = 3 then some .form else none
  | .vfdiv e _ _ _ f _ _ => if e = 3 then some .fpWidth else if f = 3 then some .form else none
  | .vfsqrt e _ _ _ _ => if e = 3 then some .fpWidth else none
  | .vfma e _ _ _ f _ _ => if e = 3 then some .fpWidth else if f = 3 then some .form else none
  | .vfms e _ _ _ f _ _ => if e = 3 then some .fpWidth else if f = 3 then some .form else none
  | .vfnma e _ _ _ f _ _ => if e = 3 then some .fpWidth else if f = 3 then some .form else none
  | .vfmin e _ _ _ f _ _ => if e = 3 then some .fpWidth else if f = 3 then some .form else none
  | .vfmax e _ _ _ f _ _ => if e = 3 then some .fpWidth else if f = 3 then some .form else none
  | .vfceq e _ _ _ f _ _ => if e = 3 then some .fpWidth else if f = 3 then some .form else none
  | .vfclt e _ _ _ f _ _ => if e = 3 then some .fpWidth else if f = 3 then some .form else none
  | .vfcle e _ _ _ f _ _ => if e = 3 then some .fpWidth else if f = 3 then some .form else none
  | .vfabs e _ _ _ _ => if e = 3 then some .fpWidth else none
  | .vfneg e _ _ _ _ => if e = 3 then some .fpWidth else none
  | .vfclass e _ _ _ _ => if e = 3 then some .fpWidth else none
  | .vfexp2 e _ _ _ _ => if e = 3 then some .fpWidth else none
  | .vfrcp e _ _ _ _ => if e = 3 then some .fpWidth else none
  | .vfrsq e _ _ _ _ => if e = 3 then some .fpWidth else none
  | .vfmv e _ _ f _ _ => if e = 3 then some .fpWidth else if f = 3 then some .form else none
  | .kq8 d _ b _ => if d = b then some .quantTarget else none
  | .vfredsum _ _ _ e _ _ => if e = 0 then some .fpByte else none
  | .vfredmax _ _ _ e _ _ => if e = 0 then some .fpByte else none
  | .vmerge _ _ _ _ k _ => if k = 0 then some .maskZero else none
  | .trkReadMiss ring _ => if 256 ≤ ring then some .ring else none
  | .trkOwnershipRequest ring _ => if 256 ≤ ring then some .ring else none
  | .ringCacheEviction ring _ => if 256 ≤ ring then some .ring else none
  | .pageWalkStart die _ => if 32 ≤ die then some .die else none
  | .pageWalkComplete die => if 32 ≤ die then some .die else none
  | .shootdownAck die => if 32 ≤ die then some .die else none
  | .messageDelivery spkg sep ep mbox ch _ payload => if 1024 ≤ spkg then some .package else if 256 ≤ sep then some .endpoint else if 256 ≤ ep then some .endpoint else if 4 ≤ mbox then some .mailbox else if 4 ≤ ch then some .mailbox else if 4096 < payload.length then some .payload else none
  | .gbarComplete group => if 64 ≤ group then some .group else none
  | .waitevReread queue => if 1024 ≤ queue then some .queue else none
  | .queueTailWrite queue _ => if 1024 ≤ queue then some .queue else none
  | .qctlWrite queue _ => if 1024 ≤ queue then some .queue else none
  | .launch queue => if 1024 ≤ queue then some .queue else none
  | .signal queue => if 1024 ≤ queue then some .queue else none
  | .waitev queue => if 1024 ≤ queue then some .queue else none
  | .map queue => if 1024 ≤ queue then some .queue else none
  | .unmap queue => if 1024 ≤ queue then some .queue else none
  | .migrate queue => if 1024 ≤ queue then some .queue else none
  | .copy queue => if 1024 ≤ queue then some .queue else none
  | .query queue => if 1024 ≤ queue then some .queue else none
  | .resetLaunch queue => if 1024 ≤ queue then some .queue else none
  | .resetWarm queue _ => if 1024 ≤ queue then some .queue else none
  | .resetCold queue _ => if 1024 ≤ queue then some .queue else none
  | .attest queue => if 1024 ≤ queue then some .queue else none
  | .loadimg queue => if 1024 ≤ queue then some .queue else none
  | .hostRead pa _ => if 2^52 ≤ pa then some .address else none
  | .hostWrite pa _ _ => if 2^52 ≤ pa then some .address else none
  | .peerRequest _ pa _ _ _ => if 2^52 ≤ pa then some .address else none
  | .dieJunctionHot die => if 32 ≤ die then some .die else none
  | .dieJunctionTrip die => if 32 ≤ die then some .die else none
  | .hbmRetrain stack chan => if 16 ≤ stack then some .stack else if 32 ≤ chan then some .channel else none
  | .hbmRetrainEnd stack chan => if 16 ≤ stack then some .stack else if 32 ≤ chan then some .channel else none
  | .stackCriticalTemp stack => if 16 ≤ stack then some .stack else none
  | .selfRefreshExit stack => if 16 ≤ stack then some .stack else none
  | .tsrMaxExpiry stack => if 16 ≤ stack then some .stack else none
  | .patrolScrub pa => if 2^40 ≤ pa then some .address else none
  | .memerr pa _ _ => if 2^52 ≤ pa then some .address else none
  | .criticalTemperatureCleared stack => if 16 ≤ stack then some .stack else none
  | .dieReset die => if 32 ≤ die then some .die else none
  | .diePowerGating die => if 32 ≤ die then some .die else none
  | _ => none

/-- The term is an instruction or step of the V32. -/
abbrev Instr.WellFormed (i : Instr) : Prop := i.flaw = none

end Sys2Proof
end

