-- ==== Sys2Proof/Decode.lean ====
section
/-! DEFINITION. The decoder of instruction words (R141-R146, R156, R157), total on any word and any bytes, rejecting by
name, and the encoder, written from the same tables of the spec. Lean's compiler builds no constructor whose position passes 244, so the definitions that
build the last ones are marked noncomputable; Lean's kernel evaluates them.
-/

namespace Sys2Proof

/-- Why a word is no instruction (R157); every one of them raises ILLOP. -/
inductive Reject where
  /-- A reserved major opcode. -/
  | reservedMajor
  /-- An unassigned function value. -/
  | unassigned
  /-- A non-zero Z field (R146). -/
  | zField
  /-- A width the instruction does not have (R156, R272). -/
  | width
  /-- A field value that the instruction refuses (R144, R62, R156). -/
  | flaw (f : Flaw)
  /-- Fewer than four bytes. -/
  | short
  deriving DecidableEq, Repr

/-- R146: the n bits of w from bit lo are a Z field. -/
def z (w : Word) (lo n : Nat) (r : Except Reject Instr) : Except Reject Instr :=
  if w.extractLsb' lo n = 0 then r else .error .zField

/-- The n bits of w from bit lo must be v: the only width the row has. -/
def need (w : Word) (lo n v : Nat) (r : Except Reject Instr) : Except Reject Instr :=
  if w.extractLsb' lo n = BitVec.ofNat n v then r else .error .width

/-- R156, major 0x01. -/
def decAlu (w : Word) : Except Reject Instr :=
  match (w.extractLsb' 0 6).toNat with
  | 0 => z w 6 5 <| .ok (.add (w.extractLsb' 21 5) (w.extractLsb' 16 5) (w.extractLsb' 11 5))
  | 1 => z w 6 5 <| .ok (.sub (w.extractLsb' 21 5) (w.extractLsb' 16 5) (w.extractLsb' 11 5))
  | 2 => z w 6 5 <| .ok (.and (w.extractLsb' 21 5) (w.extractLsb' 16 5) (w.extractLsb' 11 5))
  | 3 => z w 6 5 <| .ok (.or (w.extractLsb' 21 5) (w.extractLsb' 16 5) (w.extractLsb' 11 5))
  | 4 => z w 6 5 <| .ok (.xor (w.extractLsb' 21 5) (w.extractLsb' 16 5) (w.extractLsb' 11 5))
  | 5 => z w 6 5 <| .ok (.andn (w.extractLsb' 21 5) (w.extractLsb' 16 5) (w.extractLsb' 11 5))
  | 6 => z w 6 5 <| .ok (.orn (w.extractLsb' 21 5) (w.extractLsb' 16 5) (w.extractLsb' 11 5))
  | 7 => z w 6 5 <| .ok (.sll (w.extractLsb' 21 5) (w.extractLsb' 16 5) (w.extractLsb' 11 5))
  | 8 => z w 6 5 <| .ok (.srl (w.extractLsb' 21 5) (w.extractLsb' 16 5) (w.extractLsb' 11 5))
  | 9 => z w 6 5 <| .ok (.sra (w.extractLsb' 21 5) (w.extractLsb' 16 5) (w.extractLsb' 11 5))
  | 10 => z w 6 5 <| .ok (.slt (w.extractLsb' 21 5) (w.extractLsb' 16 5) (w.extractLsb' 11 5))
  | 11 => z w 6 5 <| .ok (.sltu (w.extractLsb' 21 5) (w.extractLsb' 16 5) (w.extractLsb' 11 5))
  | 12 => z w 6 5 <| .ok (.min (w.extractLsb' 21 5) (w.extractLsb' 16 5) (w.extractLsb' 11 5))
  | 13 => z w 6 5 <| .ok (.max (w.extractLsb' 21 5) (w.extractLsb' 16 5) (w.extractLsb' 11 5))
  | 14 => z w 6 5 <| .ok (.minu (w.extractLsb' 21 5) (w.extractLsb' 16 5) (w.extractLsb' 11 5))
  | 15 => z w 6 5 <| .ok (.maxu (w.extractLsb' 21 5) (w.extractLsb' 16 5) (w.extractLsb' 11 5))
  | 16 => z w 6 5 <| .ok (.addw (w.extractLsb' 21 5) (w.extractLsb' 16 5) (w.extractLsb' 11 5))
  | 17 => z w 6 5 <| .ok (.subw (w.extractLsb' 21 5) (w.extractLsb' 16 5) (w.extractLsb' 11 5))
  | 18 => z w 6 5 <| .ok (.sllw (w.extractLsb' 21 5) (w.extractLsb' 16 5) (w.extractLsb' 11 5))
  | 19 => z w 6 5 <| .ok (.srlw (w.extractLsb' 21 5) (w.extractLsb' 16 5) (w.extractLsb' 11 5))
  | 20 => z w 6 5 <| .ok (.sraw (w.extractLsb' 21 5) (w.extractLsb' 16 5) (w.extractLsb' 11 5))
  | _ => .error .unassigned

/-- R156, major 0x06. -/
def decShift (w : Word) : Except Reject Instr :=
  match (w.extractLsb' 14 2).toNat with
  | 0 => z w 6 8 <| .ok (.slli (w.extractLsb' 21 5) (w.extractLsb' 16 5) (w.extractLsb' 0 6))
  | 1 => z w 6 8 <| .ok (.srli (w.extractLsb' 21 5) (w.extractLsb' 16 5) (w.extractLsb' 0 6))
  | 2 => z w 6 8 <| .ok (.srai (w.extractLsb' 21 5) (w.extractLsb' 16 5) (w.extractLsb' 0 6))
  | _ => .error .unassigned

/-- R156, major 0x0B. -/
def decMul (w : Word) : Except Reject Instr :=
  match (w.extractLsb' 0 6).toNat with
  | 0 => z w 6 5 <| .ok (.mul (w.extractLsb' 21 5) (w.extractLsb' 16 5) (w.extractLsb' 11 5))
  | 1 => z w 6 5 <| .ok (.mulh (w.extractLsb' 21 5) (w.extractLsb' 16 5) (w.extractLsb' 11 5))
  | 2 => z w 6 5 <| .ok (.mulhu (w.extractLsb' 21 5) (w.extractLsb' 16 5) (w.extractLsb' 11 5))
  | 3 => z w 6 5 <| .ok (.mulhsu (w.extractLsb' 21 5) (w.extractLsb' 16 5) (w.extractLsb' 11 5))
  | 4 => z w 6 5 <| .ok (.div (w.extractLsb' 21 5) (w.extractLsb' 16 5) (w.extractLsb' 11 5))
  | 5 => z w 6 5 <| .ok (.divu (w.extractLsb' 21 5) (w.extractLsb' 16 5) (w.extractLsb' 11 5))
  | 6 => z w 6 5 <| .ok (.rem (w.extractLsb' 21 5) (w.extractLsb' 16 5) (w.extractLsb' 11 5))
  | 7 => z w 6 5 <| .ok (.remu (w.extractLsb' 21 5) (w.extractLsb' 16 5) (w.extractLsb' 11 5))
  | 8 => z w 6 5 <| .ok (.mulw (w.extractLsb' 21 5) (w.extractLsb' 16 5) (w.extractLsb' 11 5))
  | 9 => z w 6 5 <| .ok (.divw (w.extractLsb' 21 5) (w.extractLsb' 16 5) (w.extractLsb' 11 5))
  | 10 => z w 6 5 <| .ok (.remw (w.extractLsb' 21 5) (w.extractLsb' 16 5) (w.extractLsb' 11 5))
  | _ => .error .unassigned

/-- R156, major 0x0C. -/
def decBit (w : Word) : Except Reject Instr :=
  match (w.extractLsb' 0 6).toNat with
  | 0 => z w 6 10 <| .ok (.clz (w.extractLsb' 21 5) (w.extractLsb' 16 5))
  | 1 => z w 6 10 <| .ok (.ctz (w.extractLsb' 21 5) (w.extractLsb' 16 5))
  | 2 => z w 6 10 <| .ok (.popc (w.extractLsb' 21 5) (w.extractLsb' 16 5))
  | 3 => z w 6 10 <| .ok (.brev (w.extractLsb' 21 5) (w.extractLsb' 16 5))
  | 4 => z w 6 10 <| .ok (.bswap (w.extractLsb' 21 5) (w.extractLsb' 16 5))
  | 5 => z w 6 10 <| .ok (.sxb (w.extractLsb' 21 5) (w.extractLsb' 16 5))
  | 6 => z w 6 10 <| .ok (.sxh (w.extractLsb' 21 5) (w.extractLsb' 16 5))
  | 7 => z w 6 10 <| .ok (.sxw (w.extractLsb' 21 5) (w.extractLsb' 16 5))
  | 8 => z w 6 10 <| .ok (.zxb (w.extractLsb' 21 5) (w.extractLsb' 16 5))
  | 9 => z w 6 10 <| .ok (.zxh (w.extractLsb' 21 5) (w.extractLsb' 16 5))
  | 10 => z w 6 10 <| .ok (.zxw (w.extractLsb' 21 5) (w.extractLsb' 16 5))
  | 11 => z w 6 5 <| .ok (.rol (w.extractLsb' 21 5) (w.extractLsb' 16 5) (w.extractLsb' 11 5))
  | 12 => z w 6 5 <| .ok (.ror (w.extractLsb' 21 5) (w.extractLsb' 16 5) (w.extractLsb' 11 5))
  | _ => .error .unassigned

/-- R156, major 0x0D. -/
def decFp (w : Word) : Except Reject Instr :=
  match (w.extractLsb' 0 4).toNat with
  | 0 => z w 6 2 <| .ok (.fadd (w.extractLsb' 21 5) (w.extractLsb' 16 5) (w.extractLsb' 11 5) (w.extractLsb' 8 3) (w.extractLsb' 4 2))
  | 1 => z w 6 2 <| .ok (.fsub (w.extractLsb' 21 5) (w.extractLsb' 16 5) (w.extractLsb' 11 5) (w.extractLsb' 8 3) (w.extractLsb' 4 2))
  | 2 => z w 6 2 <| .ok (.fmul (w.extractLsb' 21 5) (w.extractLsb' 16 5) (w.extractLsb' 11 5) (w.extractLsb' 8 3) (w.extractLsb' 4 2))
  | 3 => z w 6 2 <| .ok (.fdiv (w.extractLsb' 21 5) (w.extractLsb' 16 5) (w.extractLsb' 11 5) (w.extractLsb' 8 3) (w.extractLsb' 4 2))
  | 4 => z w 11 5 <| z w 6 2 <| .ok (.fsqrt (w.extractLsb' 21 5) (w.extractLsb' 16 5) (w.extractLsb' 8 3) (w.extractLsb' 4 2))
  | 5 => z w 6 5 <| .ok (.fmin (w.extractLsb' 21 5) (w.extractLsb' 16 5) (w.extractLsb' 11 5) (w.extractLsb' 4 2))
  | 6 => z w 6 5 <| .ok (.fmax (w.extractLsb' 21 5) (w.extractLsb' 16 5) (w.extractLsb' 11 5) (w.extractLsb' 4 2))
  | 7 => z w 6 5 <| .ok (.feq (w.extractLsb' 21 5) (w.extractLsb' 16 5) (w.extractLsb' 11 5) (w.extractLsb' 4 2))
  | 8 => z w 6 5 <| .ok (.flt (w.extractLsb' 21 5) (w.extractLsb' 16 5) (w.extractLsb' 11 5) (w.extractLsb' 4 2))
  | 9 => z w 6 5 <| .ok (.fle (w.extractLsb' 21 5) (w.extractLsb' 16 5) (w.extractLsb' 11 5) (w.extractLsb' 4 2))
  | 10 => z w 6 10 <| .ok (.fclass (w.extractLsb' 21 5) (w.extractLsb' 16 5) (w.extractLsb' 4 2))
  | 11 => z w 11 5 <| .ok (.fcvtI (w.extractLsb' 21 5) (w.extractLsb' 16 5) (w.extractLsb' 8 3) (w.extractLsb' 6 2) (w.extractLsb' 4 2))
  | 12 => z w 11 5 <| .ok (.fcvtF (w.extractLsb' 21 5) (w.extractLsb' 16 5) (w.extractLsb' 8 3) (w.extractLsb' 6 2) (w.extractLsb' 4 2))
  | 13 => z w 11 5 <| .ok (.fcvtW (w.extractLsb' 21 5) (w.extractLsb' 16 5) (w.extractLsb' 8 3) (w.extractLsb' 6 2) (w.extractLsb' 4 2))
  | _ => .error .unassigned

/-- R156, major 0x0E. -/
def decFused (w : Word) : Except Reject Instr :=
  match (w.extractLsb' 0 4).toNat with
  | 0 => .ok (.fma (w.extractLsb' 21 5) (w.extractLsb' 16 5) (w.extractLsb' 11 5) (w.extractLsb' 6 5) (w.extractLsb' 4 2))
  | 1 => .ok (.fms (w.extractLsb' 21 5) (w.extractLsb' 16 5) (w.extractLsb' 11 5) (w.extractLsb' 6 5) (w.extractLsb' 4 2))
  | 2 => .ok (.fnma (w.extractLsb' 21 5) (w.extractLsb' 16 5) (w.extractLsb' 11 5) (w.extractLsb' 6 5) (w.extractLsb' 4 2))
  | 3 => .ok (.fnms (w.extractLsb' 21 5) (w.extractLsb' 16 5) (w.extractLsb' 11 5) (w.extractLsb' 6 5) (w.extractLsb' 4 2))
  | _ => .error .unassigned

/-- R156, major 0x1C. -/
def decSync (w : Word) : Except Reject Instr :=
  match (w.extractLsb' 0 6).toNat with
  | 0 => z w 11 5 <| z w 6 3 <| .ok (.ldAcqW (w.extractLsb' 21 5) (w.extractLsb' 16 5) (w.extractLsb' 9 2))
  | 1 => z w 11 5 <| z w 6 3 <| .ok (.ldAcqD (w.extractLsb' 21 5) (w.extractLsb' 16 5) (w.extractLsb' 9 2))
  | 2 => z w 21 5 <| z w 6 3 <| .ok (.stRelW (w.extractLsb' 16 5) (w.extractLsb' 11 5) (w.extractLsb' 9 2))
  | 3 => z w 21 5 <| z w 6 3 <| .ok (.stRelD (w.extractLsb' 16 5) (w.extractLsb' 11 5) (w.extractLsb' 9 2))
  | _ => .error .unassigned

/-- R156, major 0x1D. -/
def decAmo (w : Word) : Except Reject Instr :=
  match (w.extractLsb' 0 6).toNat with
  | 0 => .ok (.amoSwap (w.extractLsb' 21 5) (w.extractLsb' 16 5) (w.extractLsb' 11 5) (w.extractLsb' 9 2) (w.extractLsb' 7 2) (w.extractLsb' 6 1))
  | 1 => .ok (.amoAdd (w.extractLsb' 21 5) (w.extractLsb' 16 5) (w.extractLsb' 11 5) (w.extractLsb' 9 2) (w.extractLsb' 7 2) (w.extractLsb' 6 1))
  | 2 => .ok (.amoAnd (w.extractLsb' 21 5) (w.extractLsb' 16 5) (w.extractLsb' 11 5) (w.extractLsb' 9 2) (w.extractLsb' 7 2) (w.extractLsb' 6 1))
  | 3 => .ok (.amoOr (w.extractLsb' 21 5) (w.extractLsb' 16 5) (w.extractLsb' 11 5) (w.extractLsb' 9 2) (w.extractLsb' 7 2) (w.extractLsb' 6 1))
  | 4 => .ok (.amoXor (w.extractLsb' 21 5) (w.extractLsb' 16 5) (w.extractLsb' 11 5) (w.extractLsb' 9 2) (w.extractLsb' 7 2) (w.extractLsb' 6 1))
  | 5 => .ok (.amoMin (w.extractLsb' 21 5) (w.extractLsb' 16 5) (w.extractLsb' 11 5) (w.extractLsb' 9 2) (w.extractLsb' 7 2) (w.extractLsb' 6 1))
  | 6 => .ok (.amoMax (w.extractLsb' 21 5) (w.extractLsb' 16 5) (w.extractLsb' 11 5) (w.extractLsb' 9 2) (w.extractLsb' 7 2) (w.extractLsb' 6 1))
  | 7 => .ok (.amoMinu (w.extractLsb' 21 5) (w.extractLsb' 16 5) (w.extractLsb' 11 5) (w.extractLsb' 9 2) (w.extractLsb' 7 2) (w.extractLsb' 6 1))
  | 8 => .ok (.amoMaxu (w.extractLsb' 21 5) (w.extractLsb' 16 5) (w.extractLsb' 11 5) (w.extractLsb' 9 2) (w.extractLsb' 7 2) (w.extractLsb' 6 1))
  | _ => .error .unassigned

/-- R156, major 0x1E. -/
def decCas (w : Word) : Except Reject Instr :=
  match (w.extractLsb' 0 6).toNat with
  | 0 => .ok (.cas (w.extractLsb' 21 5) (w.extractLsb' 16 5) (w.extractLsb' 11 5) (w.extractLsb' 9 2) (w.extractLsb' 7 2) (w.extractLsb' 6 1))
  | _ => .error .unassigned

/-- R156, major 0x20. -/
def decBranch (w : Word) : Except Reject Instr :=
  match (w.extractLsb' 13 3).toNat with
  | 0 => .ok (.beq (w.extractLsb' 21 5) (w.extractLsb' 16 5) (w.extractLsb' 0 13))
  | 1 => .ok (.bne (w.extractLsb' 21 5) (w.extractLsb' 16 5) (w.extractLsb' 0 13))
  | 2 => .ok (.blt (w.extractLsb' 21 5) (w.extractLsb' 16 5) (w.extractLsb' 0 13))
  | 3 => .ok (.bge (w.extractLsb' 21 5) (w.extractLsb' 16 5) (w.extractLsb' 0 13))
  | 4 => .ok (.bltu (w.extractLsb' 21 5) (w.extractLsb' 16 5) (w.extractLsb' 0 13))
  | 5 => .ok (.bgeu (w.extractLsb' 21 5) (w.extractLsb' 16 5) (w.extractLsb' 0 13))
  | _ => .error .unassigned

/-- R156, major 0x23. -/
def decTable (w : Word) : Except Reject Instr :=
  match (w.extractLsb' 0 6).toNat with
  | 0 => z w 6 5 <| .ok (.jt (w.extractLsb' 21 5) (w.extractLsb' 16 5) (w.extractLsb' 11 5))
  | _ => .error .unassigned

/-- R156, major 0x2A. -/
def decWait (w : Word) : Except Reject Instr :=
  match (w.extractLsb' 0 6).toNat with
  | 0 => z w 11 15 <| .ok (.fence (w.extractLsb' 9 2) (w.extractLsb' 8 1) (w.extractLsb' 7 1) (w.extractLsb' 6 1))
  | 1 => z w 6 2 <| .ok (.waitw (w.extractLsb' 21 5) (w.extractLsb' 16 5) (w.extractLsb' 11 5) (w.extractLsb' 9 2) (w.extractLsb' 8 1))
  | 2 => z w 6 10 <| .ok (.gjoin (w.extractLsb' 21 5) (w.extractLsb' 16 5))
  | 3 => z w 6 10 <| .ok (.gleave (w.extractLsb' 21 5) (w.extractLsb' 16 5))
  | 4 => z w 6 5 <| .ok (.gbar (w.extractLsb' 21 5) (w.extractLsb' 16 5) (w.extractLsb' 11 5))
  | _ => .error .unassigned

/-- R156, major 0x2B. -/
def decMessage (w : Word) : Except Reject Instr :=
  match (w.extractLsb' 0 6).toNat with
  | 0 => z w 6 10 <| .ok (.msend (w.extractLsb' 21 5) (w.extractLsb' 16 5))
  | 1 => z w 6 5 <| .ok (.mrecv (w.extractLsb' 21 5) (w.extractLsb' 16 5) (w.extractLsb' 11 5))
  | 2 => z w 6 10 <| .ok (.mcount (w.extractLsb' 21 5) (w.extractLsb' 16 5))
  | _ => .error .unassigned

/-- R156, major 0x2C. -/
def decThread (w : Word) : Except Reject Instr :=
  match (w.extractLsb' 0 6).toNat with
  | 0 => z w 6 10 <| .ok (.spawn (w.extractLsb' 21 5) (w.extractLsb' 16 5))
  | 1 => z w 21 5 <| z w 6 10 <| .ok (.rexit (w.extractLsb' 16 5))
  | 2 => z w 6 15 <| .ok (.yield (w.extractLsb' 21 5))
  | _ => .error .unassigned

/-- R156, major 0x2D. -/
def decRegion (w : Word) : Except Reject Instr :=
  match (w.extractLsb' 0 6).toNat with
  | 0 => z w 21 5 <| z w 6 10 <| .ok (.fwd (w.extractLsb' 16 5))
  | 1 => z w 6 20 <| .ok .fserial
  | _ => .error .unassigned

/-- R156, major 0x30 to 0x33. -/
def decVecInt (w : Word) : Except Reject Instr :=
  match (w.extractLsb' 4 5).toNat with
  | 0 => .ok (.vadd (w.extractLsb' 26 2) (w.extractLsb' 21 5) (w.extractLsb' 16 5) (w.extractLsb' 11 5) (w.extractLsb' 9 2) (w.extractLsb' 2 2) (w.extractLsb' 0 2))
  | 1 => .ok (.vsub (w.extractLsb' 26 2) (w.extractLsb' 21 5) (w.extractLsb' 16 5) (w.extractLsb' 11 5) (w.extractLsb' 9 2) (w.extractLsb' 2 2) (w.extractLsb' 0 2))
  | 2 => .ok (.vrsub (w.extractLsb' 26 2) (w.extractLsb' 21 5) (w.extractLsb' 16 5) (w.extractLsb' 11 5) (w.extractLsb' 9 2) (w.extractLsb' 2 2) (w.extractLsb' 0 2))
  | 3 => .ok (.vmul (w.extractLsb' 26 2) (w.extractLsb' 21 5) (w.extractLsb' 16 5) (w.extractLsb' 11 5) (w.extractLsb' 9 2) (w.extractLsb' 2 2) (w.extractLsb' 0 2))
  | 4 => .ok (.vmulh (w.extractLsb' 26 2) (w.extractLsb' 21 5) (w.extractLsb' 16 5) (w.extractLsb' 11 5) (w.extractLsb' 9 2) (w.extractLsb' 2 2) (w.extractLsb' 0 2))
  | 5 => .ok (.vmulhu (w.extractLsb' 26 2) (w.extractLsb' 21 5) (w.extractLsb' 16 5) (w.extractLsb' 11 5) (w.extractLsb' 9 2) (w.extractLsb' 2 2) (w.extractLsb' 0 2))
  | 6 => .ok (.vmacc (w.extractLsb' 26 2) (w.extractLsb' 21 5) (w.extractLsb' 16 5) (w.extractLsb' 11 5) (w.extractLsb' 9 2) (w.extractLsb' 2 2) (w.extractLsb' 0 2))
  | 7 => .ok (.vand (w.extractLsb' 26 2) (w.extractLsb' 21 5) (w.extractLsb' 16 5) (w.extractLsb' 11 5) (w.extractLsb' 9 2) (w.extractLsb' 2 2) (w.extractLsb' 0 2))
  | 8 => .ok (.vor (w.extractLsb' 26 2) (w.extractLsb' 21 5) (w.extractLsb' 16 5) (w.extractLsb' 11 5) (w.extractLsb' 9 2) (w.extractLsb' 2 2) (w.extractLsb' 0 2))
  | 9 => .ok (.vxor (w.extractLsb' 26 2) (w.extractLsb' 21 5) (w.extractLsb' 16 5) (w.extractLsb' 11 5) (w.extractLsb' 9 2) (w.extractLsb' 2 2) (w.extractLsb' 0 2))
  | 10 => .ok (.vsll (w.extractLsb' 26 2) (w.extractLsb' 21 5) (w.extractLsb' 16 5) (w.extractLsb' 11 5) (w.extractLsb' 9 2) (w.extractLsb' 2 2) (w.extractLsb' 0 2))
  | 11 => .ok (.vsrl (w.extractLsb' 26 2) (w.extractLsb' 21 5) (w.extractLsb' 16 5) (w.extractLsb' 11 5) (w.extractLsb' 9 2) (w.extractLsb' 2 2) (w.extractLsb' 0 2))
  | 12 => .ok (.vsra (w.extractLsb' 26 2) (w.extractLsb' 21 5) (w.extractLsb' 16 5) (w.extractLsb' 11 5) (w.extractLsb' 9 2) (w.extractLsb' 2 2) (w.extractLsb' 0 2))
  | 13 => .ok (.vmin (w.extractLsb' 26 2) (w.extractLsb' 21 5) (w.extractLsb' 16 5) (w.extractLsb' 11 5) (w.extractLsb' 9 2) (w.extractLsb' 2 2) (w.extractLsb' 0 2))
  | 14 => .ok (.vmax (w.extractLsb' 26 2) (w.extractLsb' 21 5) (w.extractLsb' 16 5) (w.extractLsb' 11 5) (w.extractLsb' 9 2) (w.extractLsb' 2 2) (w.extractLsb' 0 2))
  | 15 => .ok (.vminu (w.extractLsb' 26 2) (w.extractLsb' 21 5) (w.extractLsb' 16 5) (w.extractLsb' 11 5) (w.extractLsb' 9 2) (w.extractLsb' 2 2) (w.extractLsb' 0 2))
  | 16 => .ok (.vmaxu (w.extractLsb' 26 2) (w.extractLsb' 21 5) (w.extractLsb' 16 5) (w.extractLsb' 11 5) (w.extractLsb' 9 2) (w.extractLsb' 2 2) (w.extractLsb' 0 2))
  | 17 => .ok (.vsadd (w.extractLsb' 26 2) (w.extractLsb' 21 5) (w.extractLsb' 16 5) (w.extractLsb' 11 5) (w.extractLsb' 9 2) (w.extractLsb' 2 2) (w.extractLsb' 0 2))
  | 18 => .ok (.vsaddu (w.extractLsb' 26 2) (w.extractLsb' 21 5) (w.extractLsb' 16 5) (w.extractLsb' 11 5) (w.extractLsb' 9 2) (w.extractLsb' 2 2) (w.extractLsb' 0 2))
  | 19 => .ok (.vssub (w.extractLsb' 26 2) (w.extractLsb' 21 5) (w.extractLsb' 16 5) (w.extractLsb' 11 5) (w.extractLsb' 9 2) (w.extractLsb' 2 2) (w.extractLsb' 0 2))
  | 20 => .ok (.vssubu (w.extractLsb' 26 2) (w.extractLsb' 21 5) (w.extractLsb' 16 5) (w.extractLsb' 11 5) (w.extractLsb' 9 2) (w.extractLsb' 2 2) (w.extractLsb' 0 2))
  | 21 => z w 9 7 <| .ok (.vabs (w.extractLsb' 26 2) (w.extractLsb' 21 5) (w.extractLsb' 16 5) (w.extractLsb' 2 2) (w.extractLsb' 0 2))
  | 22 => z w 24 2 <| .ok (.vceq (w.extractLsb' 26 2) (w.extractLsb' 21 3) (w.extractLsb' 16 5) (w.extractLsb' 11 5) (w.extractLsb' 9 2) (w.extractLsb' 2 2) (w.extractLsb' 0 2))
  | 23 => z w 24 2 <| .ok (.vcne (w.extractLsb' 26 2) (w.extractLsb' 21 3) (w.extractLsb' 16 5) (w.extractLsb' 11 5) (w.extractLsb' 9 2) (w.extractLsb' 2 2) (w.extractLsb' 0 2))
  | 24 => z w 24 2 <| .ok (.vclt (w.extractLsb' 26 2) (w.extractLsb' 21 3) (w.extractLsb' 16 5) (w.extractLsb' 11 5) (w.extractLsb' 9 2) (w.extractLsb' 2 2) (w.extractLsb' 0 2))
  | 25 => z w 24 2 <| .ok (.vcle (w.extractLsb' 26 2) (w.extractLsb' 21 3) (w.extractLsb' 16 5) (w.extractLsb' 11 5) (w.extractLsb' 9 2) (w.extractLsb' 2 2) (w.extractLsb' 0 2))
  | 26 => z w 24 2 <| .ok (.vcltu (w.extractLsb' 26 2) (w.extractLsb' 21 3) (w.extractLsb' 16 5) (w.extractLsb' 11 5) (w.extractLsb' 9 2) (w.extractLsb' 2 2) (w.extractLsb' 0 2))
  | 27 => z w 24 2 <| .ok (.vcleu (w.extractLsb' 26 2) (w.extractLsb' 21 3) (w.extractLsb' 16 5) (w.extractLsb' 11 5) (w.extractLsb' 9 2) (w.extractLsb' 2 2) (w.extractLsb' 0 2))
  | 28 => z w 16 5 <| .ok (.vmv (w.extractLsb' 26 2) (w.extractLsb' 21 5) (w.extractLsb' 11 5) (w.extractLsb' 9 2) (w.extractLsb' 2 2) (w.extractLsb' 0 2))
  | 29 => .ok (.vnarrow (w.extractLsb' 26 2) (w.extractLsb' 21 5) (w.extractLsb' 16 5) (w.extractLsb' 11 5) (w.extractLsb' 9 2) (w.extractLsb' 2 2) (w.extractLsb' 0 2))
  | 30 => z w 9 7 <| .ok (.vwiden (w.extractLsb' 26 2) (w.extractLsb' 21 5) (w.extractLsb' 16 5) (w.extractLsb' 2 2) (w.extractLsb' 0 2))
  | _ => .error .unassigned

/-- R156, major 0x34 to 0x36. -/
def decVecFp (w : Word) : Except Reject Instr :=
  match (w.extractLsb' 4 5).toNat with
  | 0 => .ok (.vfadd (w.extractLsb' 26 2) (w.extractLsb' 21 5) (w.extractLsb' 16 5) (w.extractLsb' 11 5) (w.extractLsb' 9 2) (w.extractLsb' 2 2) (w.extractLsb' 0 2))
  | 1 => .ok (.vfsub (w.extractLsb' 26 2) (w.extractLsb' 21 5) (w.extractLsb' 16 5) (w.extractLsb' 11 5) (w.extractLsb' 9 2) (w.extractLsb' 2 2) (w.extractLsb' 0 2))
  | 2 => .ok (.vfmul (w.extractLsb' 26 2) (w.extractLsb' 21 5) (w.extractLsb' 16 5) (w.extractLsb' 11 5) (w.extractLsb' 9 2) (w.extractLsb' 2 2) (w.extractLsb' 0 2))
  | 3 => .ok (.vfdiv (w.extractLsb' 26 2) (w.extractLsb' 21 5) (w.extractLsb' 16 5) (w.extractLsb' 11 5) (w.extractLsb' 9 2) (w.extractLsb' 2 2) (w.extractLsb' 0 2))
  | 4 => z w 9 7 <| .ok (.vfsqrt (w.extractLsb' 26 2) (w.extractLsb' 21 5) (w.extractLsb' 16 5) (w.extractLsb' 2 2) (w.extractLsb' 0 2))
  | 5 => .ok (.vfma (w.extractLsb' 26 2) (w.extractLsb' 21 5) (w.extractLsb' 16 5) (w.extractLsb' 11 5) (w.extractLsb' 9 2) (w.extractLsb' 2 2) (w.extractLsb' 0 2))
  | 6 => .ok (.vfms (w.extractLsb' 26 2) (w.extractLsb' 21 5) (w.extractLsb' 16 5) (w.extractLsb' 11 5) (w.extractLsb' 9 2) (w.extractLsb' 2 2) (w.extractLsb' 0 2))
  | 7 => .ok (.vfnma (w.extractLsb' 26 2) (w.extractLsb' 21 5) (w.extractLsb' 16 5) (w.extractLsb' 11 5) (w.extractLsb' 9 2) (w.extractLsb' 2 2) (w.extractLsb' 0 2))
  | 8 => .ok (.vfmin (w.extractLsb' 26 2) (w.extractLsb' 21 5) (w.extractLsb' 16 5) (w.extractLsb' 11 5) (w.extractLsb' 9 2) (w.extractLsb' 2 2) (w.extractLsb' 0 2))
  | 9 => .ok (.vfmax (w.extractLsb' 26 2) (w.extractLsb' 21 5) (w.extractLsb' 16 5) (w.extractLsb' 11 5) (w.extractLsb' 9 2) (w.extractLsb' 2 2) (w.extractLsb' 0 2))
  | 10 => z w 24 2 <| .ok (.vfceq (w.extractLsb' 26 2) (w.extractLsb' 21 3) (w.extractLsb' 16 5) (w.extractLsb' 11 5) (w.extractLsb' 9 2) (w.extractLsb' 2 2) (w.extractLsb' 0 2))
  | 11 => z w 24 2 <| .ok (.vfclt (w.extractLsb' 26 2) (w.extractLsb' 21 3) (w.extractLsb' 16 5) (w.extractLsb' 11 5) (w.extractLsb' 9 2) (w.extractLsb' 2 2) (w.extractLsb' 0 2))
  | 12 => z w 24 2 <| .ok (.vfcle (w.extractLsb' 26 2) (w.extractLsb' 21 3) (w.extractLsb' 16 5) (w.extractLsb' 11 5) (w.extractLsb' 9 2) (w.extractLsb' 2 2) (w.extractLsb' 0 2))
  | 13 => z w 9 7 <| .ok (.vfabs (w.extractLsb' 26 2) (w.extractLsb' 21 5) (w.extractLsb' 16 5) (w.extractLsb' 2 2) (w.extractLsb' 0 2))
  | 14 => z w 9 7 <| .ok (.vfneg (w.extractLsb' 26 2) (w.extractLsb' 21 5) (w.extractLsb' 16 5) (w.extractLsb' 2 2) (w.extractLsb' 0 2))
  | 15 => z w 9 7 <| .ok (.vfclass (w.extractLsb' 26 2) (w.extractLsb' 21 5) (w.extractLsb' 16 5) (w.extractLsb' 2 2) (w.extractLsb' 0 2))
  | 16 => z w 9 7 <| .ok (.vfexp2 (w.extractLsb' 26 2) (w.extractLsb' 21 5) (w.extractLsb' 16 5) (w.extractLsb' 2 2) (w.extractLsb' 0 2))
  | 17 => z w 9 7 <| .ok (.vfrcp (w.extractLsb' 26 2) (w.extractLsb' 21 5) (w.extractLsb' 16 5) (w.extractLsb' 2 2) (w.extractLsb' 0 2))
  | 18 => z w 9 7 <| .ok (.vfrsq (w.extractLsb' 26 2) (w.extractLsb' 21 5) (w.extractLsb' 16 5) (w.extractLsb' 2 2) (w.extractLsb' 0 2))
  | 19 => z w 16 5 <| .ok (.vfmv (w.extractLsb' 26 2) (w.extractLsb' 21 5) (w.extractLsb' 11 5) (w.extractLsb' 9 2) (w.extractLsb' 2 2) (w.extractLsb' 0 2))
  | _ => .error .unassigned

/-- R156, major 0x37. -/
def decVecConv (w : Word) : Except Reject Instr :=
  match (w.extractLsb' 4 5).toNat with
  | 0 => z w 9 7 <| .ok (.vconvSfBf (w.extractLsb' 21 5) (w.extractLsb' 16 5) (w.extractLsb' 2 2) (w.extractLsb' 0 2))
  | 1 => z w 9 7 <| .ok (.vconvBfSf (w.extractLsb' 21 5) (w.extractLsb' 16 5) (w.extractLsb' 2 2) (w.extractLsb' 0 2))
  | 2 => z w 9 7 <| .ok (.vconvSfHf (w.extractLsb' 21 5) (w.extractLsb' 16 5) (w.extractLsb' 2 2) (w.extractLsb' 0 2))
  | 3 => z w 9 7 <| .ok (.vconvHfSf (w.extractLsb' 21 5) (w.extractLsb' 16 5) (w.extractLsb' 2 2) (w.extractLsb' 0 2))
  | 4 => z w 9 7 <| .ok (.vconvSfE4 (w.extractLsb' 21 5) (w.extractLsb' 16 5) (w.extractLsb' 2 2) (w.extractLsb' 0 2))
  | 5 => z w 9 7 <| .ok (.vconvE4Sf (w.extractLsb' 21 5) (w.extractLsb' 16 5) (w.extractLsb' 2 2) (w.extractLsb' 0 2))
  | 6 => z w 9 7 <| .ok (.vconvSfE5 (w.extractLsb' 21 5) (w.extractLsb' 16 5) (w.extractLsb' 2 2) (w.extractLsb' 0 2))
  | 7 => z w 9 7 <| .ok (.vconvE5Sf (w.extractLsb' 21 5) (w.extractLsb' 16 5) (w.extractLsb' 2 2) (w.extractLsb' 0 2))
  | 8 => z w 9 7 <| .ok (.vconvDfSf (w.extractLsb' 21 5) (w.extractLsb' 16 5) (w.extractLsb' 2 2) (w.extractLsb' 0 2))
  | 9 => z w 9 7 <| .ok (.vconvSfDf (w.extractLsb' 21 5) (w.extractLsb' 16 5) (w.extractLsb' 2 2) (w.extractLsb' 0 2))
  | 10 => z w 9 7 <| .ok (.vconvSfW (w.extractLsb' 21 5) (w.extractLsb' 16 5) (w.extractLsb' 2 2) (w.extractLsb' 0 2))
  | 11 => z w 9 7 <| .ok (.vconvWSf (w.extractLsb' 21 5) (w.extractLsb' 16 5) (w.extractLsb' 2 2) (w.extractLsb' 0 2))
  | 12 => z w 9 2 <| z w 2 2 <| .ok (.kq8 (w.extractLsb' 21 5) (w.extractLsb' 16 5) (w.extractLsb' 11 5) (w.extractLsb' 0 2))
  | 13 => z w 9 2 <| .ok (.kdq8 (w.extractLsb' 21 5) (w.extractLsb' 16 5) (w.extractLsb' 11 5) (w.extractLsb' 2 2) (w.extractLsb' 0 2))
  | 14 => z w 11 5 <| z w 2 2 <| .ok (.t2pack (w.extractLsb' 21 5) (w.extractLsb' 16 5) (w.extractLsb' 9 2) (w.extractLsb' 0 2))
  | 15 => z w 11 5 <| .ok (.t2unpack (w.extractLsb' 21 5) (w.extractLsb' 16 5) (w.extractLsb' 9 2) (w.extractLsb' 2 2) (w.extractLsb' 0 2))
  | 16 => z w 11 5 <| z w 2 2 <| .ok (.q4pack (w.extractLsb' 21 5) (w.extractLsb' 16 5) (w.extractLsb' 9 2) (w.extractLsb' 0 2))
  | 17 => z w 11 5 <| .ok (.q4unpack (w.extractLsb' 21 5) (w.extractLsb' 16 5) (w.extractLsb' 9 2) (w.extractLsb' 2 2) (w.extractLsb' 0 2))
  | _ => .error .unassigned

/-- R156, major 0x38. -/
def decMask (w : Word) : Except Reject Instr :=
  match (w.extractLsb' 0 6).toNat with
  | 0 => z w 24 2 <| z w 19 2 <| z w 14 2 <| z w 6 5 <| .ok (.kand (w.extractLsb' 21 3) (w.extractLsb' 16 3) (w.extractLsb' 11 3))
  | 1 => z w 24 2 <| z w 19 2 <| z w 14 2 <| z w 6 5 <| .ok (.kor (w.extractLsb' 21 3) (w.extractLsb' 16 3) (w.extractLsb' 11 3))
  | 2 => z w 24 2 <| z w 19 2 <| z w 14 2 <| z w 6 5 <| .ok (.kxor (w.extractLsb' 21 3) (w.extractLsb' 16 3) (w.extractLsb' 11 3))
  | 3 => z w 24 2 <| z w 19 2 <| z w 6 10 <| .ok (.knot (w.extractLsb' 21 3) (w.extractLsb' 16 3))
  | 4 => z w 24 2 <| z w 19 2 <| z w 6 10 <| .ok (.kmov (w.extractLsb' 21 3) (w.extractLsb' 16 3))
  | 5 => z w 19 2 <| z w 6 10 <| .ok (.kpop (w.extractLsb' 21 5) (w.extractLsb' 16 3))
  | 6 => z w 19 2 <| z w 6 10 <| .ok (.kfirst (w.extractLsb' 21 5) (w.extractLsb' 16 3))
  | 7 => z w 24 2 <| z w 6 5 <| .ok (.kset (w.extractLsb' 21 3) (w.extractLsb' 16 5) (w.extractLsb' 11 5))
  | 8 => z w 19 2 <| z w 6 5 <| .ok (.kget (w.extractLsb' 21 5) (w.extractLsb' 16 3) (w.extractLsb' 11 5))
  | 9 => z w 6 5 <| .ok (.setvl (w.extractLsb' 21 5) (w.extractLsb' 16 5) (w.extractLsb' 11 5))
  | 10 => z w 6 20 <| .ok .vdead
  | _ => .error .unassigned

/-- R156, major 0x39. -/
def decVecMem (w : Word) : Except Reject Instr :=
  match (w.extractLsb' 4 5).toNat with
  | 0 => z w 11 5 <| .ok (.vld (w.extractLsb' 21 5) (w.extractLsb' 16 5) (w.extractLsb' 9 2) (w.extractLsb' 2 2) (w.extractLsb' 0 2))
  | 1 => .ok (.vlds (w.extractLsb' 21 5) (w.extractLsb' 16 5) (w.extractLsb' 11 5) (w.extractLsb' 9 2) (w.extractLsb' 2 2) (w.extractLsb' 0 2))
  | 2 => .ok (.vldxO (w.extractLsb' 21 5) (w.extractLsb' 16 5) (w.extractLsb' 11 5) (w.extractLsb' 9 2) (w.extractLsb' 2 2) (w.extractLsb' 0 2))
  | 3 => .ok (.vldxU (w.extractLsb' 21 5) (w.extractLsb' 16 5) (w.extractLsb' 11 5) (w.extractLsb' 9 2) (w.extractLsb' 2 2) (w.extractLsb' 0 2))
  | 4 => z w 11 5 <| .ok (.vst (w.extractLsb' 21 5) (w.extractLsb' 16 5) (w.extractLsb' 9 2) (w.extractLsb' 2 2) (w.extractLsb' 0 2))
  | 5 => .ok (.vsts (w.extractLsb' 21 5) (w.extractLsb' 16 5) (w.extractLsb' 11 5) (w.extractLsb' 9 2) (w.extractLsb' 2 2) (w.extractLsb' 0 2))
  | 6 => .ok (.vstxO (w.extractLsb' 21 5) (w.extractLsb' 16 5) (w.extractLsb' 11 5) (w.extractLsb' 9 2) (w.extractLsb' 2 2) (w.extractLsb' 0 2))
  | 7 => .ok (.vstxU (w.extractLsb' 21 5) (w.extractLsb' 16 5) (w.extractLsb' 11 5) (w.extractLsb' 9 2) (w.extractLsb' 2 2) (w.extractLsb' 0 2))
  | 8 => .ok (.vscaddI (w.extractLsb' 21 5) (w.extractLsb' 16 5) (w.extractLsb' 11 5) (w.extractLsb' 9 2) (w.extractLsb' 2 2) (w.extractLsb' 0 2))
  | 9 => need w 9 2 2 <| .ok (.vscaddX (w.extractLsb' 21 5) (w.extractLsb' 16 5) (w.extractLsb' 11 5) (w.extractLsb' 2 2) (w.extractLsb' 0 2))
  | 10 => .ok (.vscmin (w.extractLsb' 21 5) (w.extractLsb' 16 5) (w.extractLsb' 11 5) (w.extractLsb' 9 2) (w.extractLsb' 2 2) (w.extractLsb' 0 2))
  | 11 => .ok (.vscmax (w.extractLsb' 21 5) (w.extractLsb' 16 5) (w.extractLsb' 11 5) (w.extractLsb' 9 2) (w.extractLsb' 2 2) (w.extractLsb' 0 2))
  | 12 => .ok (.vscor (w.extractLsb' 21 5) (w.extractLsb' 16 5) (w.extractLsb' 11 5) (w.extractLsb' 9 2) (w.extractLsb' 2 2) (w.extractLsb' 0 2))
  | 13 => z w 11 5 <| .ok (.vldb (w.extractLsb' 21 5) (w.extractLsb' 16 5) (w.extractLsb' 9 2) (w.extractLsb' 2 2) (w.extractLsb' 0 2))
  | 14 => z w 11 5 <| .ok (.vldff (w.extractLsb' 21 5) (w.extractLsb' 16 5) (w.extractLsb' 9 2) (w.extractLsb' 2 2) (w.extractLsb' 0 2))
  | 15 => need w 10 1 1 <| .ok (.vscaddF (w.extractLsb' 21 5) (w.extractLsb' 16 5) (w.extractLsb' 11 5) (w.extractLsb' 9 1) (w.extractLsb' 2 2) (w.extractLsb' 0 2))
  | _ => .error .unassigned

/-- R156, major 0x3A. -/
def decVecPerm (w : Word) : Except Reject Instr :=
  match (w.extractLsb' 4 5).toNat with
  | 0 => .ok (.vredsum (w.extractLsb' 21 5) (w.extractLsb' 16 5) (w.extractLsb' 11 5) (w.extractLsb' 9 2) (w.extractLsb' 2 2) (w.extractLsb' 0 2))
  | 1 => .ok (.vredmax (w.extractLsb' 21 5) (w.extractLsb' 16 5) (w.extractLsb' 11 5) (w.extractLsb' 9 2) (w.extractLsb' 2 2) (w.extractLsb' 0 2))
  | 2 => .ok (.vredmin (w.extractLsb' 21 5) (w.extractLsb' 16 5) (w.extractLsb' 11 5) (w.extractLsb' 9 2) (w.extractLsb' 2 2) (w.extractLsb' 0 2))
  | 3 => .ok (.vredmaxu (w.extractLsb' 21 5) (w.extractLsb' 16 5) (w.extractLsb' 11 5) (w.extractLsb' 9 2) (w.extractLsb' 2 2) (w.extractLsb' 0 2))
  | 4 => .ok (.vredminu (w.extractLsb' 21 5) (w.extractLsb' 16 5) (w.extractLsb' 11 5) (w.extractLsb' 9 2) (w.extractLsb' 2 2) (w.extractLsb' 0 2))
  | 5 => .ok (.vfredsum (w.extractLsb' 21 5) (w.extractLsb' 16 5) (w.extractLsb' 11 5) (w.extractLsb' 9 2) (w.extractLsb' 2 2) (w.extractLsb' 0 2))
  | 6 => .ok (.vfredmax (w.extractLsb' 21 5) (w.extractLsb' 16 5) (w.extractLsb' 11 5) (w.extractLsb' 9 2) (w.extractLsb' 2 2) (w.extractLsb' 0 2))
  | 7 => .ok (.vslideup (w.extractLsb' 21 5) (w.extractLsb' 16 5) (w.extractLsb' 11 5) (w.extractLsb' 9 2) (w.extractLsb' 2 2) (w.extractLsb' 0 2))
  | 8 => .ok (.vslidedn (w.extractLsb' 21 5) (w.extractLsb' 16 5) (w.extractLsb' 11 5) (w.extractLsb' 9 2) (w.extractLsb' 2 2) (w.extractLsb' 0 2))
  | 9 => .ok (.vperm (w.extractLsb' 21 5) (w.extractLsb' 16 5) (w.extractLsb' 11 5) (w.extractLsb' 9 2) (w.extractLsb' 2 2) (w.extractLsb' 0 2))
  | 10 => z w 14 2 <| z w 2 2 <| .ok (.vcompress (w.extractLsb' 21 5) (w.extractLsb' 16 5) (w.extractLsb' 11 3) (w.extractLsb' 9 2) (w.extractLsb' 0 2))
  | 11 => z w 14 2 <| z w 2 2 <| .ok (.vexpand (w.extractLsb' 21 5) (w.extractLsb' 16 5) (w.extractLsb' 11 3) (w.extractLsb' 9 2) (w.extractLsb' 0 2))
  | 12 => .ok (.vbcast (w.extractLsb' 21 5) (w.extractLsb' 16 5) (w.extractLsb' 11 5) (w.extractLsb' 9 2) (w.extractLsb' 2 2) (w.extractLsb' 0 2))
  | 13 => z w 11 5 <| z w 2 2 <| .ok (.vmvxs (w.extractLsb' 21 5) (w.extractLsb' 16 5) (w.extractLsb' 9 2) (w.extractLsb' 0 2))
  | 14 => z w 11 5 <| z w 2 2 <| .ok (.vmvsx (w.extractLsb' 21 5) (w.extractLsb' 16 5) (w.extractLsb' 9 2) (w.extractLsb' 0 2))
  | 15 => .ok (.vmerge (w.extractLsb' 21 5) (w.extractLsb' 16 5) (w.extractLsb' 11 5) (w.extractLsb' 9 2) (w.extractLsb' 2 2) (w.extractLsb' 0 2))
  | 16 => z w 14 2 <| .ok (.vbin (w.extractLsb' 21 5) (w.extractLsb' 16 5) (w.extractLsb' 11 3) (w.extractLsb' 9 2) (w.extractLsb' 2 2) (w.extractLsb' 0 2))
  | 17 => .ok (.vmrgs (w.extractLsb' 21 5) (w.extractLsb' 16 5) (w.extractLsb' 11 5) (w.extractLsb' 9 2) (w.extractLsb' 2 2) (w.extractLsb' 0 2))
  | 18 => z w 19 2 <| z w 11 5 <| .ok (.viota (w.extractLsb' 21 5) (w.extractLsb' 16 3) (w.extractLsb' 9 2) (w.extractLsb' 2 2) (w.extractLsb' 0 2))
  | 19 => z w 11 5 <| .ok (.vscan (w.extractLsb' 21 5) (w.extractLsb' 16 5) (w.extractLsb' 9 2) (w.extractLsb' 2 2) (w.extractLsb' 0 2))
  | 20 => z w 11 10 <| .ok (.vid (w.extractLsb' 21 5) (w.extractLsb' 9 2) (w.extractLsb' 2 2) (w.extractLsb' 0 2))
  | _ => .error .unassigned

/-- R156, major 0x3B. -/
noncomputable def decCopy (w : Word) : Except Reject Instr :=
  match (w.extractLsb' 6 5).toNat with
  | 0 => z w 14 2 <| .ok (.ccopy (w.extractLsb' 21 5) (w.extractLsb' 16 5) (w.extractLsb' 11 3) (w.extractLsb' 5 1) (w.extractLsb' 4 1) (w.extractLsb' 2 2) (w.extractLsb' 0 2))
  | 1 => z w 14 2 <| .ok (.cgath (w.extractLsb' 21 5) (w.extractLsb' 16 5) (w.extractLsb' 11 3) (w.extractLsb' 5 1) (w.extractLsb' 4 1) (w.extractLsb' 2 2) (w.extractLsb' 0 2))
  | 2 => z w 14 2 <| .ok (.cscat (w.extractLsb' 21 5) (w.extractLsb' 16 5) (w.extractLsb' 11 3) (w.extractLsb' 5 1) (w.extractLsb' 4 1) (w.extractLsb' 2 2) (w.extractLsb' 0 2))
  | 3 => z w 14 2 <| .ok (.cfill (w.extractLsb' 21 5) (w.extractLsb' 16 5) (w.extractLsb' 11 3) (w.extractLsb' 5 1) (w.extractLsb' 4 1) (w.extractLsb' 2 2) (w.extractLsb' 0 2))
  | 4 => z w 14 7 <| z w 2 4 <| .ok (.cwait (w.extractLsb' 21 5) (w.extractLsb' 11 3) (w.extractLsb' 0 2))
  | 5 => z w 14 2 <| z w 2 4 <| .ok (.cquery (w.extractLsb' 21 5) (w.extractLsb' 16 5) (w.extractLsb' 11 3) (w.extractLsb' 0 2))
  | 6 => z w 14 2 <| z w 2 4 <| .ok (.cresume (w.extractLsb' 21 5) (w.extractLsb' 16 5) (w.extractLsb' 11 3) (w.extractLsb' 0 2))
  | 7 => z w 14 2 <| z w 2 4 <| .ok (.cabort (w.extractLsb' 21 5) (w.extractLsb' 16 5) (w.extractLsb' 11 3) (w.extractLsb' 0 2))
  | _ => .error .unassigned

/-- R156, major 0x3C. -/
noncomputable def decEnlarger (w : Word) : Except Reject Instr :=
  match (w.extractLsb' 6 5).toNat with
  | 0 => z w 11 10 <| z w 2 4 <| .ok (.mclaim (w.extractLsb' 21 5) (w.extractLsb' 0 2))
  | 1 => z w 21 5 <| z w 11 5 <| z w 2 4 <| .ok (.mfmt (w.extractLsb' 16 5) (w.extractLsb' 0 2))
  | 2 => z w 11 15 <| z w 2 4 <| .ok (.mzero (w.extractLsb' 0 2))
  | 3 => z w 21 5 <| z w 11 5 <| z w 2 4 <| .ok (.mstep (w.extractLsb' 16 5) (w.extractLsb' 0 2))
  | 4 => z w 11 5 <| z w 2 4 <| .ok (.mdrain (w.extractLsb' 21 5) (w.extractLsb' 16 5) (w.extractLsb' 0 2))
  | 5 => z w 21 5 <| z w 11 5 <| z w 2 4 <| .ok (.mdrainl (w.extractLsb' 16 5) (w.extractLsb' 0 2))
  | 6 => z w 11 15 <| z w 2 4 <| .ok (.mrel (w.extractLsb' 0 2))
  | 7 => z w 11 10 <| z w 2 4 <| .ok (.mstat (w.extractLsb' 21 5) (w.extractLsb' 0 2))
  | 8 => z w 11 10 <| z w 2 4 <| .ok (.mspill (w.extractLsb' 21 5) (w.extractLsb' 0 2))
  | _ => .error .unassigned

/-- R156, major 0x3D. -/
noncomputable def decLoupe (w : Word) : Except Reject Instr :=
  match (w.extractLsb' 6 5).toNat with
  | 0 => z w 11 5 <| z w 2 4 <| .ok (.lcfg (w.extractLsb' 21 5) (w.extractLsb' 16 5) (w.extractLsb' 0 2))
  | 1 => z w 11 5 <| z w 2 4 <| .ok (.lpred (w.extractLsb' 21 5) (w.extractLsb' 16 5) (w.extractLsb' 0 2))
  | 2 => z w 11 5 <| z w 2 4 <| .ok (.lproof (w.extractLsb' 21 5) (w.extractLsb' 16 5) (w.extractLsb' 0 2))
  | 3 => z w 11 5 <| z w 2 4 <| .ok (.lstat (w.extractLsb' 21 5) (w.extractLsb' 16 5) (w.extractLsb' 0 2))
  | _ => .error .unassigned

/-- R156, major 0x3E. -/
noncomputable def decSystem (w : Word) : Except Reject Instr :=
  match (w.extractLsb' 0 6).toNat with
  | 0 => z w 16 5 <| .ok (.sregR (w.extractLsb' 21 5) (w.extractLsb' 6 10))
  | 1 => z w 21 5 <| .ok (.sregW (w.extractLsb' 16 5) (w.extractLsb' 6 10))
  | 2 => .ok (.sregX (w.extractLsb' 21 5) (w.extractLsb' 16 5) (w.extractLsb' 6 10))
  | 3 => z w 16 10 <| .ok (.scall (w.extractLsb' 6 10))
  | 4 => z w 6 20 <| .ok .tret
  | 5 => z w 16 10 <| .ok (.brk (w.extractLsb' 6 10))
  | 6 => z w 24 2 <| z w 6 10 <| .ok (.sgld (w.extractLsb' 21 3) (w.extractLsb' 16 5))
  | 7 => z w 24 2 <| z w 6 10 <| .ok (.sgst (w.extractLsb' 21 3) (w.extractLsb' 16 5))
  | 8 => z w 21 5 <| z w 6 10 <| .ok (.pflush (w.extractLsb' 16 5))
  | 9 => z w 6 10 <| .ok (.cflush (w.extractLsb' 21 5) (w.extractLsb' 16 5))
  | 10 => z w 6 10 <| .ok (.cinv (w.extractLsb' 21 5) (w.extractLsb' 16 5))
  | 11 => z w 6 15 <| .ok (.idle (w.extractLsb' 21 5))
  | 12 => z w 21 5 <| z w 6 10 <| .ok (.halt (w.extractLsb' 16 5))
  | 13 => z w 6 20 <| .ok .ssync
  | _ => .error .unassigned

/-- R207: what a word of the majors that rpt captures names, none for any other word. -/
def captured (w : Word) : Except Reject Instr :=
  match (w.extractLsb' 26 6).toNat with
  | 0x30 => decVecInt w
  | 0x31 => decVecInt w
  | 0x32 => decVecInt w
  | 0x33 => decVecInt w
  | 0x34 => decVecFp w
  | 0x35 => decVecFp w
  | 0x36 => decVecFp w
  | 0x37 => decVecConv w
  | 0x3A => decVecPerm w
  | _ => .error .reservedMajor

/-- The instruction an instruction word names by its major and function fields (R156), before the field values
that R157 refuses. -/
noncomputable def candidate (w : Word) : Except Reject Instr :=
  match (w.extractLsb' 26 6).toNat with
  | 0x01 => decAlu w
  | 0x02 => .ok (.addi (w.extractLsb' 21 5) (w.extractLsb' 16 5) (w.extractLsb' 0 16))
  | 0x03 => .ok (.andi (w.extractLsb' 21 5) (w.extractLsb' 16 5) (w.extractLsb' 0 16))
  | 0x04 => .ok (.ori (w.extractLsb' 21 5) (w.extractLsb' 16 5) (w.extractLsb' 0 16))
  | 0x05 => .ok (.xori (w.extractLsb' 21 5) (w.extractLsb' 16 5) (w.extractLsb' 0 16))
  | 0x06 => decShift w
  | 0x07 => .ok (.slti (w.extractLsb' 21 5) (w.extractLsb' 16 5) (w.extractLsb' 0 16))
  | 0x08 => .ok (.sltiu (w.extractLsb' 21 5) (w.extractLsb' 16 5) (w.extractLsb' 0 16))
  | 0x09 => z w 16 5 <| .ok (.lhi (w.extractLsb' 21 5) (w.extractLsb' 0 16))
  | 0x0A => z w 16 5 <| .ok (.lpc (w.extractLsb' 21 5) (w.extractLsb' 0 16))
  | 0x0B => decMul w
  | 0x0C => decBit w
  | 0x0D => decFp w
  | 0x0E => decFused w
  | 0x10 => .ok (.lb (w.extractLsb' 21 5) (w.extractLsb' 16 5) (w.extractLsb' 0 16))
  | 0x11 => .ok (.lbu (w.extractLsb' 21 5) (w.extractLsb' 16 5) (w.extractLsb' 0 16))
  | 0x12 => .ok (.lh (w.extractLsb' 21 5) (w.extractLsb' 16 5) (w.extractLsb' 0 16))
  | 0x13 => .ok (.lhu (w.extractLsb' 21 5) (w.extractLsb' 16 5) (w.extractLsb' 0 16))
  | 0x14 => .ok (.lw (w.extractLsb' 21 5) (w.extractLsb' 16 5) (w.extractLsb' 0 16))
  | 0x15 => .ok (.lwu (w.extractLsb' 21 5) (w.extractLsb' 16 5) (w.extractLsb' 0 16))
  | 0x16 => .ok (.ld (w.extractLsb' 21 5) (w.extractLsb' 16 5) (w.extractLsb' 0 16))
  | 0x18 => .ok (.sb (w.extractLsb' 21 5) (w.extractLsb' 16 5) (w.extractLsb' 0 16))
  | 0x19 => .ok (.sh (w.extractLsb' 21 5) (w.extractLsb' 16 5) (w.extractLsb' 0 16))
  | 0x1A => .ok (.sw (w.extractLsb' 21 5) (w.extractLsb' 16 5) (w.extractLsb' 0 16))
  | 0x1B => .ok (.sd (w.extractLsb' 21 5) (w.extractLsb' 16 5) (w.extractLsb' 0 16))
  | 0x1C => decSync w
  | 0x1D => decAmo w
  | 0x1E => decCas w
  | 0x20 => decBranch w
  | 0x21 => .ok (.jal (w.extractLsb' 21 5) (w.extractLsb' 0 21))
  | 0x22 => .ok (.jalr (w.extractLsb' 21 5) (w.extractLsb' 16 5) (w.extractLsb' 0 16))
  | 0x23 => decTable w
  | 0x24 => z w 19 2 <| z w 15 1 <| .ok (.vloop (w.extractLsb' 21 5) (w.extractLsb' 16 3) (w.extractLsb' 13 2) (w.extractLsb' 0 13))
  | 0x25 => z w 0 8 <| .ok (.rpt (w.extractLsb' 24 2) (w.extractLsb' 22 2) (w.extractLsb' 20 2) (w.extractLsb' 12 8) (w.extractLsb' 8 4))
  | 0x28 => z w 13 3 <| .ok (.fork (w.extractLsb' 21 5) (w.extractLsb' 16 5) (w.extractLsb' 0 13))
  | 0x29 => .ok (.fcut (w.extractLsb' 21 5) (w.extractLsb' 0 21))
  | 0x2A => decWait w
  | 0x2B => decMessage w
  | 0x2C => decThread w
  | 0x2D => decRegion w
  | 0x30 => decVecInt w
  | 0x31 => decVecInt w
  | 0x32 => decVecInt w
  | 0x33 => decVecInt w
  | 0x34 => decVecFp w
  | 0x35 => decVecFp w
  | 0x36 => decVecFp w
  | 0x37 => decVecConv w
  | 0x38 => decMask w
  | 0x39 => decVecMem w
  | 0x3A => decVecPerm w
  | 0x3B => decCopy w
  | 0x3C => decEnlarger w
  | 0x3D => decLoupe w
  | 0x3E => decSystem w
  | _ => .error .reservedMajor
/-- R157: the field values that the word alone makes illegal. -/
def legal (c : Except Reject Instr) : Except Reject Instr :=
  match c with
  | .error r => .error r
  | .ok i =>
    match i.flaw with
    | some f => .error (.flaw f)
    | none => .ok i

/-- R156, R157: the decoder. -/
noncomputable def decode (w : Word) : Except Reject Instr := legal (candidate w)

/-- R207: the decoder of a captured word. -/
def decodeCaptured (w : Word) : Except Reject Instr := legal (captured w)

/-- R3, R141: the word that four bytes in memory make, lowest address first. -/
def wordOfBytes (b0 b1 b2 b3 : Byte) : Word := b3 ++ b2 ++ b1 ++ b0

/-- R141: the bytes of a word in memory, lowest address first. -/
def bytesOfWord (w : Word) : List Byte :=
  [w.extractLsb' 0 8, w.extractLsb' 8 8, w.extractLsb' 16 8, w.extractLsb' 24 8]

/-- Decoding of bytes: the instruction and the bytes after it. -/
noncomputable def decodeBytes : List Byte → Except Reject (Instr × List Byte)
  | b0 :: b1 :: b2 :: b3 :: rest =>
    match decode (wordOfBytes b0 b1 b2 b3) with
    | .ok i => .ok (i, rest)
    | .error r => .error r
  | _ => .error .short

/-- What the decoder reads from the table's numbering of an instruction's bits: one 32-bit word, little-endian (R141). -/
noncomputable def decodeTableWord (_nbits w : Nat) : Option Instr :=
  match decodeBytes (bytesOfWord (BitVec.ofNat 32 w)) with
  | .ok (i, _) => some i
  | .error _ => none

/-- R142, R156: the word of an encoded instruction, most significant field first; none for a step that has no word. -/
def encode : Instr → Option Word
  | .add d a b => some (1#6 ++ d ++ a ++ b ++ 0#11)
  | .sub d a b => some (1#6 ++ d ++ a ++ b ++ 1#11)
  | .and d a b => some (1#6 ++ d ++ a ++ b ++ 2#11)
  | .or d a b => some (1#6 ++ d ++ a ++ b ++ 3#11)
  | .xor d a b => some (1#6 ++ d ++ a ++ b ++ 4#11)
  | .andn d a b => some (1#6 ++ d ++ a ++ b ++ 5#11)
  | .orn d a b => some (1#6 ++ d ++ a ++ b ++ 6#11)
  | .sll d a b => some (1#6 ++ d ++ a ++ b ++ 7#11)
  | .srl d a b => some (1#6 ++ d ++ a ++ b ++ 8#11)
  | .sra d a b => some (1#6 ++ d ++ a ++ b ++ 9#11)
  | .slt d a b => some (1#6 ++ d ++ a ++ b ++ 10#11)
  | .sltu d a b => some (1#6 ++ d ++ a ++ b ++ 11#11)
  | .min d a b => some (1#6 ++ d ++ a ++ b ++ 12#11)
  | .max d a b => some (1#6 ++ d ++ a ++ b ++ 13#11)
  | .minu d a b => some (1#6 ++ d ++ a ++ b ++ 14#11)
  | .maxu d a b => some (1#6 ++ d ++ a ++ b ++ 15#11)
  | .addw d a b => some (1#6 ++ d ++ a ++ b ++ 16#11)
  | .subw d a b => some (1#6 ++ d ++ a ++ b ++ 17#11)
  | .sllw d a b => some (1#6 ++ d ++ a ++ b ++ 18#11)
  | .srlw d a b => some (1#6 ++ d ++ a ++ b ++ 19#11)
  | .sraw d a b => some (1#6 ++ d ++ a ++ b ++ 20#11)
  | .addi d a i => some (2#6 ++ d ++ a ++ i)
  | .andi d a i => some (3#6 ++ d ++ a ++ i)
  | .ori d a i => some (4#6 ++ d ++ a ++ i)
  | .xori d a i => some (5#6 ++ d ++ a ++ i)
  | .slli d a n => some (6#6 ++ d ++ a ++ 0#10 ++ n)
  | .srli d a n => some (6#6 ++ d ++ a ++ 256#10 ++ n)
  | .srai d a n => some (6#6 ++ d ++ a ++ 512#10 ++ n)
  | .slti d a i => some (7#6 ++ d ++ a ++ i)
  | .sltiu d a i => some (8#6 ++ d ++ a ++ i)
  | .lhi d i => some (9#6 ++ d ++ 0#5 ++ i)
  | .lpc d i => some (10#6 ++ d ++ 0#5 ++ i)
  | .mul d a b => some (11#6 ++ d ++ a ++ b ++ 0#11)
  | .mulh d a b => some (11#6 ++ d ++ a ++ b ++ 1#11)
  | .mulhu d a b => some (11#6 ++ d ++ a ++ b ++ 2#11)
  | .mulhsu d a b => some (11#6 ++ d ++ a ++ b ++ 3#11)
  | .div d a b => some (11#6 ++ d ++ a ++ b ++ 4#11)
  | .divu d a b => some (11#6 ++ d ++ a ++ b ++ 5#11)
  | .rem d a b => some (11#6 ++ d ++ a ++ b ++ 6#11)
  | .remu d a b => some (11#6 ++ d ++ a ++ b ++ 7#11)
  | .mulw d a b => some (11#6 ++ d ++ a ++ b ++ 8#11)
  | .divw d a b => some (11#6 ++ d ++ a ++ b ++ 9#11)
  | .remw d a b => some (11#6 ++ d ++ a ++ b ++ 10#11)
  | .clz d a => some (12#6 ++ d ++ a ++ 0#16)
  | .ctz d a => some (12#6 ++ d ++ a ++ 1#16)
  | .popc d a => some (12#6 ++ d ++ a ++ 2#16)
  | .brev d a => some (12#6 ++ d ++ a ++ 3#16)
  | .bswap d a => some (12#6 ++ d ++ a ++ 4#16)
  | .sxb d a => some (12#6 ++ d ++ a ++ 5#16)
  | .sxh d a => some (12#6 ++ d ++ a ++ 6#16)
  | .sxw d a => some (12#6 ++ d ++ a ++ 7#16)
  | .zxb d a => some (12#6 ++ d ++ a ++ 8#16)
  | .zxh d a => some (12#6 ++ d ++ a ++ 9#16)
  | .zxw d a => some (12#6 ++ d ++ a ++ 10#16)
  | .rol d a b => some (12#6 ++ d ++ a ++ b ++ 11#11)
  | .ror d a b => some (12#6 ++ d ++ a ++ b ++ 12#11)
  | .fadd d a b r w => some (13#6 ++ d ++ a ++ b ++ r ++ 0#2 ++ w ++ 0#4)
  | .fsub d a b r w => some (13#6 ++ d ++ a ++ b ++ r ++ 0#2 ++ w ++ 1#4)
  | .fmul d a b r w => some (13#6 ++ d ++ a ++ b ++ r ++ 0#2 ++ w ++ 2#4)
  | .fdiv d a b r w => some (13#6 ++ d ++ a ++ b ++ r ++ 0#2 ++ w ++ 3#4)
  | .fsqrt d a r w => some (13#6 ++ d ++ a ++ 0#5 ++ r ++ 0#2 ++ w ++ 4#4)
  | .fmin d a b w => some (13#6 ++ d ++ a ++ b ++ 0#5 ++ w ++ 5#4)
  | .fmax d a b w => some (13#6 ++ d ++ a ++ b ++ 0#5 ++ w ++ 6#4)
  | .feq d a b w => some (13#6 ++ d ++ a ++ b ++ 0#5 ++ w ++ 7#4)
  | .flt d a b w => some (13#6 ++ d ++ a ++ b ++ 0#5 ++ w ++ 8#4)
  | .fle d a b w => some (13#6 ++ d ++ a ++ b ++ 0#5 ++ w ++ 9#4)
  | .fclass d a w => some (13#6 ++ d ++ a ++ 0#10 ++ w ++ 10#4)
  | .fcvtI d a r k w => some (13#6 ++ d ++ a ++ 0#5 ++ r ++ k ++ w ++ 11#4)
  | .fcvtF d a r k w => some (13#6 ++ d ++ a ++ 0#5 ++ r ++ k ++ w ++ 12#4)
  | .fcvtW d a r s w => some (13#6 ++ d ++ a ++ 0#5 ++ r ++ s ++ w ++ 13#4)
  | .fma d a b c w => some (14#6 ++ d ++ a ++ b ++ c ++ w ++ 0#4)
  | .fms d a b c w => some (14#6 ++ d ++ a ++ b ++ c ++ w ++ 1#4)
  | .fnma d a b c w => some (14#6 ++ d ++ a ++ b ++ c ++ w ++ 2#4)
  | .fnms d a b c w => some (14#6 ++ d ++ a ++ b ++ c ++ w ++ 3#4)
  | .lb d a i => some (16#6 ++ d ++ a ++ i)
  | .lbu d a i => some (17#6 ++ d ++ a ++ i)
  | .lh d a i => some (18#6 ++ d ++ a ++ i)
  | .lhu d a i => some (19#6 ++ d ++ a ++ i)
  | .lw d a i => some (20#6 ++ d ++ a ++ i)
  | .lwu d a i => some (21#6 ++ d ++ a ++ i)
  | .ld d a i => some (22#6 ++ d ++ a ++ i)
  | .sb s a i => some (24#6 ++ s ++ a ++ i)
  | .sh s a i => some (25#6 ++ s ++ a ++ i)
  | .sw s a i => some (26#6 ++ s ++ a ++ i)
  | .sd s a i => some (27#6 ++ s ++ a ++ i)
  | .ldAcqW d a s => some (28#6 ++ d ++ a ++ 0#5 ++ s ++ 0#9)
  | .ldAcqD d a s => some (28#6 ++ d ++ a ++ 0#5 ++ s ++ 1#9)
  | .stRelW a b s => some (896#11 ++ a ++ b ++ s ++ 2#9)
  | .stRelD a b s => some (896#11 ++ a ++ b ++ s ++ 3#9)
  | .amoSwap d a b s o z => some (29#6 ++ d ++ a ++ b ++ s ++ o ++ z ++ 0#6)
  | .amoAdd d a b s o z => some (29#6 ++ d ++ a ++ b ++ s ++ o ++ z ++ 1#6)
  | .amoAnd d a b s o z => some (29#6 ++ d ++ a ++ b ++ s ++ o ++ z ++ 2#6)
  | .amoOr d a b s o z => some (29#6 ++ d ++ a ++ b ++ s ++ o ++ z ++ 3#6)
  | .amoXor d a b s o z => some (29#6 ++ d ++ a ++ b ++ s ++ o ++ z ++ 4#6)
  | .amoMin d a b s o z => some (29#6 ++ d ++ a ++ b ++ s ++ o ++ z ++ 5#6)
  | .amoMax d a b s o z => some (29#6 ++ d ++ a ++ b ++ s ++ o ++ z ++ 6#6)
  | .amoMinu d a b s o z => some (29#6 ++ d ++ a ++ b ++ s ++ o ++ z ++ 7#6)
  | .amoMaxu d a b s o z => some (29#6 ++ d ++ a ++ b ++ s ++ o ++ z ++ 8#6)
  | .cas d a b s o z => some (30#6 ++ d ++ a ++ b ++ s ++ o ++ z ++ 0#6)
  | .beq a b o => some (32#6 ++ a ++ b ++ 0#3 ++ o)
  | .bne a b o => some (32#6 ++ a ++ b ++ 1#3 ++ o)
  | .blt a b o => some (32#6 ++ a ++ b ++ 2#3 ++ o)
  | .bge a b o => some (32#6 ++ a ++ b ++ 3#3 ++ o)
  | .bltu a b o => some (32#6 ++ a ++ b ++ 4#3 ++ o)
  | .bgeu a b o => some (32#6 ++ a ++ b ++ 5#3 ++ o)
  | .jal d o => some (33#6 ++ d ++ o)
  | .jalr d a i => some (34#6 ++ d ++ a ++ i)
  | .jt d a b => some (35#6 ++ d ++ a ++ b ++ 0#11)
  | .vloop a k e o => some (36#6 ++ a ++ 0#2 ++ k ++ 0#1 ++ e ++ o)
  | .rpt d a b c n => some (37#6 ++ d ++ a ++ b ++ c ++ n ++ 0#8)
  | .fork a b o => some (40#6 ++ a ++ b ++ 0#3 ++ o)
  | .fcut d o => some (41#6 ++ d ++ o)
  | .fence s l m e => some (1376256#21 ++ s ++ l ++ m ++ e ++ 0#6)
  | .waitw d a b c z => some (42#6 ++ d ++ a ++ b ++ c ++ z ++ 1#8)
  | .gjoin d a => some (42#6 ++ d ++ a ++ 2#16)
  | .gleave d a => some (42#6 ++ d ++ a ++ 3#16)
  | .gbar d a b => some (42#6 ++ d ++ a ++ b ++ 4#11)
  | .msend d a => some (43#6 ++ d ++ a ++ 0#16)
  | .mrecv d a b => some (43#6 ++ d ++ a ++ b ++ 1#11)
  | .mcount d a => some (43#6 ++ d ++ a ++ 2#16)
  | .spawn d a => some (44#6 ++ d ++ a ++ 0#16)
  | .rexit a => some (1408#11 ++ a ++ 1#16)
  | .yield d => some (44#6 ++ d ++ 2#21)
  | .fwd a => some (1440#11 ++ a ++ 0#16)
  | .fserial => some (3019898881#32)
  | .vadd e d a b f k t => some (12#4 ++ e ++ d ++ a ++ b ++ f ++ 0#5 ++ k ++ t)
  | .vsub e d a b f k t => some (12#4 ++ e ++ d ++ a ++ b ++ f ++ 1#5 ++ k ++ t)
  | .vrsub e d a b f k t => some (12#4 ++ e ++ d ++ a ++ b ++ f ++ 2#5 ++ k ++ t)
  | .vmul e d a b f k t => some (12#4 ++ e ++ d ++ a ++ b ++ f ++ 3#5 ++ k ++ t)
  | .vmulh e d a b f k t => some (12#4 ++ e ++ d ++ a ++ b ++ f ++ 4#5 ++ k ++ t)
  | .vmulhu e d a b f k t => some (12#4 ++ e ++ d ++ a ++ b ++ f ++ 5#5 ++ k ++ t)
  | .vmacc e d a b f k t => some (12#4 ++ e ++ d ++ a ++ b ++ f ++ 6#5 ++ k ++ t)
  | .vand e d a b f k t => some (12#4 ++ e ++ d ++ a ++ b ++ f ++ 7#5 ++ k ++ t)
  | .vor e d a b f k t => some (12#4 ++ e ++ d ++ a ++ b ++ f ++ 8#5 ++ k ++ t)
  | .vxor e d a b f k t => some (12#4 ++ e ++ d ++ a ++ b ++ f ++ 9#5 ++ k ++ t)
  | .vsll e d a b f k t => some (12#4 ++ e ++ d ++ a ++ b ++ f ++ 10#5 ++ k ++ t)
  | .vsrl e d a b f k t => some (12#4 ++ e ++ d ++ a ++ b ++ f ++ 11#5 ++ k ++ t)
  | .vsra e d a b f k t => some (12#4 ++ e ++ d ++ a ++ b ++ f ++ 12#5 ++ k ++ t)
  | .vmin e d a b f k t => some (12#4 ++ e ++ d ++ a ++ b ++ f ++ 13#5 ++ k ++ t)
  | .vmax e d a b f k t => some (12#4 ++ e ++ d ++ a ++ b ++ f ++ 14#5 ++ k ++ t)
  | .vminu e d a b f k t => some (12#4 ++ e ++ d ++ a ++ b ++ f ++ 15#5 ++ k ++ t)
  | .vmaxu e d a b f k t => some (12#4 ++ e ++ d ++ a ++ b ++ f ++ 16#5 ++ k ++ t)
  | .vsadd e d a b f k t => some (12#4 ++ e ++ d ++ a ++ b ++ f ++ 17#5 ++ k ++ t)
  | .vsaddu e d a b f k t => some (12#4 ++ e ++ d ++ a ++ b ++ f ++ 18#5 ++ k ++ t)
  | .vssub e d a b f k t => some (12#4 ++ e ++ d ++ a ++ b ++ f ++ 19#5 ++ k ++ t)
  | .vssubu e d a b f k t => some (12#4 ++ e ++ d ++ a ++ b ++ f ++ 20#5 ++ k ++ t)
  | .vabs e d a k t => some (12#4 ++ e ++ d ++ a ++ 21#12 ++ k ++ t)
  | .vceq e d a b f k t => some (12#4 ++ e ++ 0#2 ++ d ++ a ++ b ++ f ++ 22#5 ++ k ++ t)
  | .vcne e d a b f k t => some (12#4 ++ e ++ 0#2 ++ d ++ a ++ b ++ f ++ 23#5 ++ k ++ t)
  | .vclt e d a b f k t => some (12#4 ++ e ++ 0#2 ++ d ++ a ++ b ++ f ++ 24#5 ++ k ++ t)
  | .vcle e d a b f k t => some (12#4 ++ e ++ 0#2 ++ d ++ a ++ b ++ f ++ 25#5 ++ k ++ t)
  | .vcltu e d a b f k t => some (12#4 ++ e ++ 0#2 ++ d ++ a ++ b ++ f ++ 26#5 ++ k ++ t)
  | .vcleu e d a b f k t => some (12#4 ++ e ++ 0#2 ++ d ++ a ++ b ++ f ++ 27#5 ++ k ++ t)
  | .vmv e d b f k t => some (12#4 ++ e ++ d ++ 0#5 ++ b ++ f ++ 28#5 ++ k ++ t)
  | .vnarrow e d a b f k t => some (12#4 ++ e ++ d ++ a ++ b ++ f ++ 29#5 ++ k ++ t)
  | .vwiden e d a k t => some (12#4 ++ e ++ d ++ a ++ 30#12 ++ k ++ t)
  | .vfadd e d a b f k t => some (13#4 ++ e ++ d ++ a ++ b ++ f ++ 0#5 ++ k ++ t)
  | .vfsub e d a b f k t => some (13#4 ++ e ++ d ++ a ++ b ++ f ++ 1#5 ++ k ++ t)
  | .vfmul e d a b f k t => some (13#4 ++ e ++ d ++ a ++ b ++ f ++ 2#5 ++ k ++ t)
  | .vfdiv e d a b f k t => some (13#4 ++ e ++ d ++ a ++ b ++ f ++ 3#5 ++ k ++ t)
  | .vfsqrt e d a k t => some (13#4 ++ e ++ d ++ a ++ 4#12 ++ k ++ t)
  | .vfma e d a b f k t => some (13#4 ++ e ++ d ++ a ++ b ++ f ++ 5#5 ++ k ++ t)
  | .vfms e d a b f k t => some (13#4 ++ e ++ d ++ a ++ b ++ f ++ 6#5 ++ k ++ t)
  | .vfnma e d a b f k t => some (13#4 ++ e ++ d ++ a ++ b ++ f ++ 7#5 ++ k ++ t)
  | .vfmin e d a b f k t => some (13#4 ++ e ++ d ++ a ++ b ++ f ++ 8#5 ++ k ++ t)
  | .vfmax e d a b f k t => some (13#4 ++ e ++ d ++ a ++ b ++ f ++ 9#5 ++ k ++ t)
  | .vfceq e d a b f k t => some (13#4 ++ e ++ 0#2 ++ d ++ a ++ b ++ f ++ 10#5 ++ k ++ t)
  | .vfclt e d a b f k t => some (13#4 ++ e ++ 0#2 ++ d ++ a ++ b ++ f ++ 11#5 ++ k ++ t)
  | .vfcle e d a b f k t => some (13#4 ++ e ++ 0#2 ++ d ++ a ++ b ++ f ++ 12#5 ++ k ++ t)
  | .vfabs e d a k t => some (13#4 ++ e ++ d ++ a ++ 13#12 ++ k ++ t)
  | .vfneg e d a k t => some (13#4 ++ e ++ d ++ a ++ 14#12 ++ k ++ t)
  | .vfclass e d a k t => some (13#4 ++ e ++ d ++ a ++ 15#12 ++ k ++ t)
  | .vfexp2 e d a k t => some (13#4 ++ e ++ d ++ a ++ 16#12 ++ k ++ t)
  | .vfrcp e d a k t => some (13#4 ++ e ++ d ++ a ++ 17#12 ++ k ++ t)
  | .vfrsq e d a k t => some (13#4 ++ e ++ d ++ a ++ 18#12 ++ k ++ t)
  | .vfmv e d b f k t => some (13#4 ++ e ++ d ++ 0#5 ++ b ++ f ++ 19#5 ++ k ++ t)
  | .vconvSfBf d a k t => some (55#6 ++ d ++ a ++ 0#12 ++ k ++ t)
  | .vconvBfSf d a k t => some (55#6 ++ d ++ a ++ 1#12 ++ k ++ t)
  | .vconvSfHf d a k t => some (55#6 ++ d ++ a ++ 2#12 ++ k ++ t)
  | .vconvHfSf d a k t => some (55#6 ++ d ++ a ++ 3#12 ++ k ++ t)
  | .vconvSfE4 d a k t => some (55#6 ++ d ++ a ++ 4#12 ++ k ++ t)
  | .vconvE4Sf d a k t => some (55#6 ++ d ++ a ++ 5#12 ++ k ++ t)
  | .vconvSfE5 d a k t => some (55#6 ++ d ++ a ++ 6#12 ++ k ++ t)
  | .vconvE5Sf d a k t => some (55#6 ++ d ++ a ++ 7#12 ++ k ++ t)
  | .vconvDfSf d a k t => some (55#6 ++ d ++ a ++ 8#12 ++ k ++ t)
  | .vconvSfDf d a k t => some (55#6 ++ d ++ a ++ 9#12 ++ k ++ t)
  | .vconvSfW d a k t => some (55#6 ++ d ++ a ++ 10#12 ++ k ++ t)
  | .vconvWSf d a k t => some (55#6 ++ d ++ a ++ 11#12 ++ k ++ t)
  | .kq8 d a b t => some (55#6 ++ d ++ a ++ b ++ 48#9 ++ t)
  | .kdq8 d a b k t => some (55#6 ++ d ++ a ++ b ++ 13#7 ++ k ++ t)
  | .t2pack d a e t => some (55#6 ++ d ++ a ++ 0#5 ++ e ++ 56#7 ++ t)
  | .t2unpack d a e k t => some (55#6 ++ d ++ a ++ 0#5 ++ e ++ 15#5 ++ k ++ t)
  | .q4pack d a e t => some (55#6 ++ d ++ a ++ 0#5 ++ e ++ 64#7 ++ t)
  | .q4unpack d a e k t => some (55#6 ++ d ++ a ++ 0#5 ++ e ++ 17#5 ++ k ++ t)
  | .kand d a b => some (224#8 ++ d ++ 0#2 ++ a ++ 0#2 ++ b ++ 0#11)
  | .kor d a b => some (224#8 ++ d ++ 0#2 ++ a ++ 0#2 ++ b ++ 1#11)
  | .kxor d a b => some (224#8 ++ d ++ 0#2 ++ a ++ 0#2 ++ b ++ 2#11)
  | .knot d a => some (224#8 ++ d ++ 0#2 ++ a ++ 3#16)
  | .kmov d a => some (224#8 ++ d ++ 0#2 ++ a ++ 4#16)
  | .kpop d a => some (56#6 ++ d ++ 0#2 ++ a ++ 5#16)
  | .kfirst d a => some (56#6 ++ d ++ 0#2 ++ a ++ 6#16)
  | .kset d a b => some (224#8 ++ d ++ a ++ b ++ 7#11)
  | .kget d a b => some (56#6 ++ d ++ 0#2 ++ a ++ b ++ 8#11)
  | .setvl d a b => some (56#6 ++ d ++ a ++ b ++ 9#11)
  | .vdead => some (3758096394#32)
  | .vld d a e k t => some (57#6 ++ d ++ a ++ 0#5 ++ e ++ 0#5 ++ k ++ t)
  | .vlds d a b e k t => some (57#6 ++ d ++ a ++ b ++ e ++ 1#5 ++ k ++ t)
  | .vldxO d a b e k t => some (57#6 ++ d ++ a ++ b ++ e ++ 2#5 ++ k ++ t)
  | .vldxU d a b e k t => some (57#6 ++ d ++ a ++ b ++ e ++ 3#5 ++ k ++ t)
  | .vst s a e k t => some (57#6 ++ s ++ a ++ 0#5 ++ e ++ 4#5 ++ k ++ t)
  | .vsts s a b e k t => some (57#6 ++ s ++ a ++ b ++ e ++ 5#5 ++ k ++ t)
  | .vstxO s a b e k t => some (57#6 ++ s ++ a ++ b ++ e ++ 6#5 ++ k ++ t)
  | .vstxU s a b e k t => some (57#6 ++ s ++ a ++ b ++ e ++ 7#5 ++ k ++ t)
  | .vscaddI s a b e k t => some (57#6 ++ s ++ a ++ b ++ e ++ 8#5 ++ k ++ t)
  | .vscaddX s a b k t => some (57#6 ++ s ++ a ++ b ++ 73#7 ++ k ++ t)
  | .vscmin s a b e k t => some (57#6 ++ s ++ a ++ b ++ e ++ 10#5 ++ k ++ t)
  | .vscmax s a b e k t => some (57#6 ++ s ++ a ++ b ++ e ++ 11#5 ++ k ++ t)
  | .vscor s a b e k t => some (57#6 ++ s ++ a ++ b ++ e ++ 12#5 ++ k ++ t)
  | .vldb d a e k t => some (57#6 ++ d ++ a ++ 0#5 ++ e ++ 13#5 ++ k ++ t)
  | .vldff d a e k t => some (57#6 ++ d ++ a ++ 0#5 ++ e ++ 14#5 ++ k ++ t)
  | .vscaddF s a b e k t => some (57#6 ++ s ++ a ++ b ++ 1#1 ++ e ++ 15#5 ++ k ++ t)
  | .vredsum d a b e k t => some (58#6 ++ d ++ a ++ b ++ e ++ 0#5 ++ k ++ t)
  | .vredmax d a b e k t => some (58#6 ++ d ++ a ++ b ++ e ++ 1#5 ++ k ++ t)
  | .vredmin d a b e k t => some (58#6 ++ d ++ a ++ b ++ e ++ 2#5 ++ k ++ t)
  | .vredmaxu d a b e k t => some (58#6 ++ d ++ a ++ b ++ e ++ 3#5 ++ k ++ t)
  | .vredminu d a b e k t => some (58#6 ++ d ++ a ++ b ++ e ++ 4#5 ++ k ++ t)
  | .vfredsum d a b e k t => some (58#6 ++ d ++ a ++ b ++ e ++ 5#5 ++ k ++ t)
  | .vfredmax d a b e k t => some (58#6 ++ d ++ a ++ b ++ e ++ 6#5 ++ k ++ t)
  | .vslideup d a b e k t => some (58#6 ++ d ++ a ++ b ++ e ++ 7#5 ++ k ++ t)
  | .vslidedn d a b e k t => some (58#6 ++ d ++ a ++ b ++ e ++ 8#5 ++ k ++ t)
  | .vperm d a b e k t => some (58#6 ++ d ++ a ++ b ++ e ++ 9#5 ++ k ++ t)
  | .vcompress d a b e t => some (58#6 ++ d ++ a ++ 0#2 ++ b ++ e ++ 40#7 ++ t)
  | .vexpand d a b e t => some (58#6 ++ d ++ a ++ 0#2 ++ b ++ e ++ 44#7 ++ t)
  | .vbcast d a b e k t => some (58#6 ++ d ++ a ++ b ++ e ++ 12#5 ++ k ++ t)
  | .vmvxs d a e t => some (58#6 ++ d ++ a ++ 0#5 ++ e ++ 52#7 ++ t)
  | .vmvsx d a e t => some (58#6 ++ d ++ a ++ 0#5 ++ e ++ 56#7 ++ t)
  | .vmerge d a b e k t => some (58#6 ++ d ++ a ++ b ++ e ++ 15#5 ++ k ++ t)
  | .vbin d a b e k t => some (58#6 ++ d ++ a ++ 0#2 ++ b ++ e ++ 16#5 ++ k ++ t)
  | .vmrgs d a b e k t => some (58#6 ++ d ++ a ++ b ++ e ++ 17#5 ++ k ++ t)
  | .viota d a e k t => some (58#6 ++ d ++ 0#2 ++ a ++ 0#5 ++ e ++ 18#5 ++ k ++ t)
  | .vscan d a e k t => some (58#6 ++ d ++ a ++ 0#5 ++ e ++ 19#5 ++ k ++ t)
  | .vid d e k t => some (58#6 ++ d ++ 0#10 ++ e ++ 20#5 ++ k ++ t)
  | .ccopy d a b q l s t => some (59#6 ++ d ++ a ++ 0#2 ++ b ++ 0#5 ++ q ++ l ++ s ++ t)
  | .cgath d a b q l s t => some (59#6 ++ d ++ a ++ 0#2 ++ b ++ 1#5 ++ q ++ l ++ s ++ t)
  | .cscat d a b q l s t => some (59#6 ++ d ++ a ++ 0#2 ++ b ++ 2#5 ++ q ++ l ++ s ++ t)
  | .cfill d a b q l s t => some (59#6 ++ d ++ a ++ 0#2 ++ b ++ 3#5 ++ q ++ l ++ s ++ t)
  | .cwait d b t => some (59#6 ++ d ++ 0#7 ++ b ++ 64#9 ++ t)
  | .cquery d a b t => some (59#6 ++ d ++ a ++ 0#2 ++ b ++ 80#9 ++ t)
  | .cresume d a b t => some (59#6 ++ d ++ a ++ 0#2 ++ b ++ 96#9 ++ t)
  | .cabort d a b t => some (59#6 ++ d ++ a ++ 0#2 ++ b ++ 112#9 ++ t)
  | .mclaim d t => some (60#6 ++ d ++ 0#19 ++ t)
  | .mfmt a t => some (1920#11 ++ a ++ 16#14 ++ t)
  | .mzero t => some (1006632992#30 ++ t)
  | .mstep a t => some (1920#11 ++ a ++ 48#14 ++ t)
  | .mdrain d a t => some (60#6 ++ d ++ a ++ 64#14 ++ t)
  | .mdrainl a t => some (1920#11 ++ a ++ 80#14 ++ t)
  | .mrel t => some (1006633056#30 ++ t)
  | .mstat d t => some (60#6 ++ d ++ 112#19 ++ t)
  | .mspill d t => some (60#6 ++ d ++ 128#19 ++ t)
  | .lcfg d a t => some (61#6 ++ d ++ a ++ 0#14 ++ t)
  | .lpred d a t => some (61#6 ++ d ++ a ++ 16#14 ++ t)
  | .lproof d a t => some (61#6 ++ d ++ a ++ 32#14 ++ t)
  | .lstat d a t => some (61#6 ++ d ++ a ++ 48#14 ++ t)
  | .sregR d s => some (62#6 ++ d ++ 0#5 ++ s ++ 0#6)
  | .sregW a s => some (1984#11 ++ a ++ s ++ 1#6)
  | .sregX d a s => some (62#6 ++ d ++ a ++ s ++ 2#6)
  | .scall n => some (63488#16 ++ n ++ 3#6)
  | .tret => some (4160749572#32)
  | .brk n => some (63488#16 ++ n ++ 5#6)
  | .sgld n a => some (248#8 ++ n ++ a ++ 6#16)
  | .sgst n a => some (248#8 ++ n ++ a ++ 7#16)
  | .pflush a => some (1984#11 ++ a ++ 8#16)
  | .cflush l a => some (62#6 ++ l ++ a ++ 9#16)
  | .cinv l a => some (62#6 ++ l ++ a ++ 10#16)
  | .idle d => some (62#6 ++ d ++ 11#21)
  | .halt a => some (1984#11 ++ a ++ 12#16)
  | .ssync => some (4160749581#32)
  | .statWrite _ => none
  | .fflagsWrite _ => none
  | .tmcmpWrite _ => none
  | .mbaseWrite _ => none
  | .asidWrite _ => none
  | .pgrootWrite _ => none
  | .timerPending => none
  | .interruptEntry => none
  | .chunkCreate => none
  | .stitchValueArrival => none
  | .storeNoticeArrival => none
  | .chunkRestart => none
  | .chunkCommit => none
  | .loadResultReturn => none
  | .longOpResult => none
  | .trkReadMiss _ _ => none
  | .trkOwnershipRequest _ _ => none
  | .trkPurge _ => none
  | .purgeAck _ => none
  | .ringCacheEviction _ _ => none
  | .pageWalkStart _ _ => none
  | .pageWalkComplete _ => none
  | .shootdownAck _ => none
  | .messageDelivery _ _ _ _ _ _ _ => none
  | .parkedMessageDelivery _ _ _ => none
  | .waitwReread => none
  | .waitwTimeout => none
  | .gbarComplete _ => none
  | .gbarTimeout => none
  | .cwaitTimeout => none
  | .copyCommandActivate _ => none
  | .copyElementGroup _ _ => none
  | .enlargerLease => none
  | .enlargerGroupApply => none
  | .lpredCompletion => none
  | .placeThread => none
  | .sliceExpiry => none
  | .wparkExpiry => none
  | .preempt => none
  | .resume _ _ => none
  | .dependenceReread _ => none
  | .waitevReread _ => none
  | .queueTailWrite _ _ => none
  | .qctlWrite _ _ => none
  | .eqheadWrite _ => none
  | .eqctlWrite _ => none
  | .registerWrite _ _ _ => none
  | .launch _ => none
  | .signal _ => none
  | .waitev _ => none
  | .map _ => none
  | .unmap _ => none
  | .migrate _ => none
  | .copy _ => none
  | .query _ => none
  | .resetLaunch _ => none
  | .resetWarm _ _ => none
  | .resetCold _ _ => none
  | .attest _ => none
  | .loadimg _ => none
  | .hostRead _ _ => none
  | .hostWrite _ _ _ => none
  | .hostSnoop _ _ => none
  | .peerRequest _ _ _ _ _ => none
  | .powerEvaluation _ _ _ => none
  | .dieJunctionHot _ => none
  | .dieJunctionTrip _ => none
  | .inputOutOfRange _ => none
  | .hbmRetrain _ _ => none
  | .hbmRetrainEnd _ _ => none
  | .stackCriticalTemp _ => none
  | .selfRefreshExit _ => none
  | .tsrMaxExpiry _ => none
  | .patrolScrub _ => none
  | .memerr _ _ _ => none
  | .powerOn _ => none
  | .startcmdWarm _ => none
  | .startcmdCold _ => none
  | .startStepTimeout _ _ => none
  | .firmwareStagingWrite _ _ => none
  | .getVersion _ _ => none
  | .getCapabilities _ _ => none
  | .negotiateAlgorithms _ _ => none
  | .getDigests _ _ => none
  | .getCertificate _ _ => none
  | .challenge _ _ => none
  | .getMeasurements _ _ => none
  | .unsupportedRequest _ _ => none
  | .illop _ => none
  | .writeBackAcknowledgement => none
  | .criticalTemperatureCleared _ => none
  | .dieReset _ => none
  | .diePowerGating _ => none
  | .hostLinkDown => none

end Sys2Proof
end

