-- ==== Sys2Proof/Config.lean ====
section
/-! DEFINITION. What the spec leaves open, as constants with no body: free values, of which Lean can prove nothing.
Each is applied to the model's counter of steps (State.tick), or to the operands it depends on, and each has its
entry in the assumption log. The fixed figures of the package follow them.
-/

namespace Sys2Proof.Config

/-- Cycles that pass in one step beyond the first (log entry 4): the spec gives no cycle count that every step meets. -/
opaque stepCycles : Nat → Nat

/-- R153, R154: how many cycles after its producer's issue a fixed-latency result is written, where that is less than 2 × L (log entry
9). -/
opaque resultDelay : Nat → Nat

/-- R45: the contents of a private LS window when a chunk is created: the window's tag, then the LS address (log entry 6). -/
opaque freshLs : Nat → Nat → Byte

/-- R96: whether a fetch returns the new word before it must (log entry 18). -/
opaque fetchNew : Nat → Bool

/-- R335: which of a register's current and older values a fetch uses; the second argument names the register (log entry 18). -/
opaque fetchPick : Nat → Nat → Nat

/-- R118: whether a core's L1 still holds an orphaned line when a load meets it (log entry 23). -/
opaque orphanHeld : Nat → Bool

/-- R93, R404: whether the LLC still holds a line that passed through it (log entry 26). -/
opaque llcKept : Nat → Nat → Bool

/-- R404: whether a fill finds every line of its LLC set dirty for a stack in self-refresh (log entry 26). -/
opaque llcSetFull : Nat → Bool

/-- R8: the byte that an address space reads after it has broken an obligation which nothing checks (log entry 25). -/
opaque breachByte : Nat → Nat → Byte

/-- R36: whether a speculative fill or store finds its L1 set full of speculative versions (log entry 27). -/
opaque l1Full : Nat → Bool

/-- R93: which line a full ring cache, L1, I-cache or LLC slice gives up (log entry 8). -/
opaque cacheVictim : Nat → Nat

/-- R402: whether an uncorrectable error at a line that a ring's cache holds modified is one of the cached copy, which is then lost,
and not one of the HBM below it (log entry 38). -/
opaque softError : Nat → Bool

/-- R108: the byte that a page mapped with two COH values holds (log entry 25). -/
opaque clashByte : Nat → Nat → Byte

/-- R100: which entry a full TLB structure gives up (log entry 8). -/
opaque tlbVictim : Nat → Nat

/-- R378: which entry a full snoop filter gives up (log entry 8). -/
opaque snoopVictim : Nat → Nat

/-- R358: a byte that COPY leaves in an overlapping destination (log entry 19). -/
opaque copyOverlap : Nat → Nat → Byte

/-- R198, R381: the byte of a peer package's memory that a read returns (log entry 14). -/
opaque peerByte : Nat → Nat → Byte

/-- R228, R229: INFO of an abandoned message whose destination's VA this package does not know (log entry 75). -/
opaque messageVa : Nat → Nat

/-- R411: the SHA-256 digest of bytes (log entry 15). -/
opaque digest : List Byte → List Byte

/-- R411: the bytes of Pronor's ROM (log entry 15). -/
opaque romImage : List Byte

/-- R410: the device identity key, derived from the fused secret, as its public part (log entry 15). -/
opaque identityKey : List Byte

/-- R410: the certificate chain of the identity key (log entry 15). -/
opaque certChain : List Byte → List Byte

/-- R410: the alias key derived from the identity key and the measurements, as its public part (log entry 15). -/
opaque aliasKey : List Byte → List Byte → List Byte

/-- R411: the bytes of the SPDM response to a request that the device supports: on a connection with what it has negotiated, from the
certificate chain, the alias key and the measurements (log entry 15). -/
opaque spdmResponse : Bool → List Nat → List Byte → List Byte → List Byte → List Byte → List Byte

/-- R409: whether the image's signature verifies under a key whose hash matches the fuses (log entry 16). -/
opaque signatureValid : List Byte → Bool

/-- R358: the bytes of a QUERY report, whose contents the spec names and does not lay out: a function of the contents (log entry
20). -/
opaque queryByte : List Nat → Nat → Byte

/-- R359: whether a MIGRATE that could start comes before the end of one under way (log entry 34). -/
opaque migrateStarts : Nat → Bool

/-- R232, R358: the launch id that the scheduler gives a launch (log entry 35). -/
opaque launchId : Nat → Nat

/-- R358: the handle that LOADIMG gives an image (log entry 35). -/
opaque imageHandle : Nat → Nat

/-- R366: which of the rings that a placement prefers equally it takes (log entry 36). -/
opaque ringChoice : Nat → Nat

/-- R348: which free save block the scheduler assigns (log entry 36). -/
opaque saveBlock : Nat → Nat

/-- R402: which of the modified SIV copies of a codeword a soft error strikes (log entry 38). -/
opaque softCopy : Nat → Nat

/-- R402: whether the patrol scrubber finds a bad symbol to correct (log entry 38). -/
opaque badSymbol : Nat → Bool

/-- R299: the place in the order in which the array spills, of a Tray entry of this rank and cell (log entry 41). -/
opaque spillKey : Nat → Nat → Nat

/-- R10: rings of the package. -/
def rings : Nat := 256

/-- R10: compute dies. -/
def dies : Nat := 32

/-- R368: the reserved region's first physical address. -/
def rsvBase : Nat := 0x00FC00000000

/-- R368: the reserved region's size. -/
def rsvSize : Nat := 0x000400000000

/-- R124: the flit payloads that netcap reports: AEL 6, UAL 6, D2D 5, MESH 6. -/
def netcap : Dword := 0x6656

end Sys2Proof.Config
end

