-- ==== Sys2Proof/Machine/State.lean ====
section
/-! DEFINITION. The state of the package: the chunk whose turn it is (`cpu`), the older and younger chunks of its ring,
the ring's thread, the other rings, the threads without a ring, memory and its caches, the translation structures, the
host interface and the platform. State is plain data; State.reset is the package after a successful cold start (R406).
-/

namespace Sys2Proof.Machine

/-! ## Registers between chunks -/

/-- A member of a create mask (R28, R29): the registers a chunk receives, sends, and writes late. -/
inductive RegName where
  | x (n : Reg)
  | v (n : Reg)
  | k (n : KIdx)
  | vl | vew | vstart | seed | sbase | fxs | frm | vrm
  deriving DecidableEq, Repr

/-- The value of a member of a create mask. -/
inductive RegVal where
  | scalar (v : Dword)
  | vector (v : VReg) (dead : Bool)
  | mask (v : KReg)
  deriving DecidableEq, Repr

/-- A fixed-latency result (R153-R155): the slot's consumers read `old` before turn `due`, as long as the cycle at which it is
written has not come. -/
structure Pend where
  reg : RegName
  old : RegVal
  due : Nat
  /-- The cycle at which the result is written, at most 2 × L after its producer's (log entry 9). -/
  written : Nat
  pc  : Dword
  deriving DecidableEq, Repr

/-- Why a result is interlocked (R16, R153, R175). -/
inductive FlightKind where
  /-- A memory instruction is outstanding; at most 8 in a slot. -/
  | memory
  /-- A divide, remainder, fdiv or fsqrt: the slot is not ready until it is written. -/
  | long
  deriving DecidableEq, Repr

/-- An interlocked result that has not arrived: a consumer parks until it does (R16). -/
structure Flight where
  kind : FlightKind
  regs : List RegName
  deriving DecidableEq, Repr

/-- A recorded fault, trap or condition of a chunk (R44): cause, location, information. -/
structure Trap where
  cause : Byte
  loc   : Dword
  info  : Dword
  deriving DecidableEq, Repr

/-- The progress of a running repeat frame (R207, R208): its words, and what executes next. -/
structure Frame where
  words : List Word
  run   : Nat
  index : Nat
  deriving DecidableEq, Repr

/-- The kinds of instruction that park a slot for longer than a turn (R16, R331). -/
inductive ParkKind where
  | waitw | gbar | cwait | fence | mclaim | menl | lcfg | idle | mstep | lpred | pflush | cflush
  deriving DecidableEq, Repr

/-- The parked instruction: its kind, the cycle of its issue (R216, R221, R287), and the operands its completion uses:
the destination, an address, group or count, a comparison value or time-out, a condition, size or barrier code, and the ST
field (R152). -/
structure Park where
  kind  : ParkKind
  since : Nat
  d     : Reg
  a     : Dword
  b     : Dword
  c     : Nat
  st    : BitVec 2
  deriving DecidableEq, Repr

/-! ## Memory between chunks, and coherence -/

/-- R104: how a page's lines are kept coherent. -/
inductive Coh where
  | trk | siv | nc
  deriving DecidableEq, Repr

/-- A leaf of the page tables (R98, R111): its level, its own physical address, the entry as the port saw it, and the
replica PPN of the port's die for a REP leaf. `root` is the ROOT of its walk, which no tag holds and which shows a breach of R92. -/
structure Leaf where
  level : Nat
  addr  : Nat
  entry : Dword
  rep   : Option Nat
  root  : Dword
  deriving DecidableEq, Repr

/-- What translation gives an access: its physical address, the page's attribute, and the leaf (R97, R98). -/
structure Mapped where
  pa   : Nat
  coh  : Coh
  page : Leaf
  deriving DecidableEq, Repr

/-- R388: bytes that an access has reached: their physical and their virtual address, and how many. -/
structure Extent where
  pa : Nat
  va : Nat
  n  : Nat
  deriving DecidableEq, Repr

/-- R126: a byte that a speculative chunk's load has observed, by virtual address: its value, and the number of the older chunk whose
version supplied it, 0 where none did. -/
structure SeenByte where
  va  : Nat
  val : Byte
  src : Nat
  deriving DecidableEq, Repr

/-- One byte of a chunk's L1 version (R34), by virtual address. -/
structure VerByte where
  va  : Nat
  val : Byte
  deriving DecidableEq, Repr

/-- R34, R39: one store of a chunk that is not committed: at commit it is one request (R108). -/
structure SpecStore where
  va   : Nat
  dest : Mapped
  data : List Byte
  deriving DecidableEq, Repr

/-- R9, R99, R114: a page that a speculative chunk has used: its leaf, its virtual number, and whether the chunk writes to
it. A and D are set when the chunk becomes head (log entry 65). -/
structure Touch where
  page   : Leaf
  vpn    : Nat
  writes : Bool
  deriving DecidableEq, Repr

/-- The operation of a scatter-reduce update, a collect tag or an atomic (R109, R195). -/
inductive RmwOp where
  | swap | add | and | or | xor | min | max | minu | maxu
  /-- FP add at FP32 or FP64, rounded by the instruction (R273). -/
  | fadd
  deriving DecidableEq, Repr

/-- One element of a speculative scatter-reduce, applied at commit in element order (R37). -/
structure Update where
  va    : Nat
  dest  : Mapped
  op    : RmwOp
  bytes : Nat
  val   : Nat
  /-- The rounding mode, key and seed of an FP add (R273). -/
  mode  : Nat
  key   : Dword
  seed  : Dword
  deriving DecidableEq, Repr

/-- One cached instruction line of a core's I-cache (R93, R96). -/
structure ILine where
  ring : Nat
  core : Nat
  asid : BitVec 12
  va   : Nat
  /-- The line's physical address, and the page that the fetch went through. -/
  pa   : Nat
  page : Leaf
  data : List Byte
  deriving DecidableEq, Repr

/-- R105, R109: the state of a chain member. -/
inductive LineSt where
  | shared | owned | collect
  deriving DecidableEq, Repr

/-- A ring's copy of a TRK line in its chain (R105), with the virtual line it is cached under (R117) and the page through
which it was filled. The bytes of an S or M copy are those that the package's memory lists for the line (log entry 64). -/
structure Member where
  ring : Nat
  asid : BitVec 12
  va   : Nat
  page : Leaf
  st   : LineSt
  /-- R109: the tag of a C copy: operation and element width in bytes. -/
  tag  : Option (RmwOp × Nat)
  /-- R109: the partial aggregate of a C copy, byte by byte. -/
  part : List Byte
  deriving DecidableEq, Repr

/-- R105, R106: a ring's request at the home of a TRK line: to join its chain, or to own the line. -/
structure LineReq where
  ring : Nat
  asid : BitVec 12
  va   : Nat
  page : Leaf
  own  : Bool
  deriving DecidableEq, Repr

/-- A purge in progress (R105): the request that caused it, the members it has still to invalidate, and when it began. -/
structure Purge where
  req  : LineReq
  left : List Nat
  since : Nat
  deriving DecidableEq, Repr

/-- The directory entry of one TRK line, by physical line number (R105, R106): its chain, a purge in progress, and the
requests that wait for it in order of arrival. -/
structure DirLine where
  line    : Nat
  chain   : List Member
  purge   : Option Purge
  waiting : List LineReq
  deriving DecidableEq, Repr

/-- A line a ring holds of an SIV page (R107): the ring's bytes, and which of them are dirty. -/
structure SivLine where
  ring  : Nat
  asid  : BitVec 12
  va    : Nat
  page  : Leaf
  line  : Nat
  data  : List Byte
  dirty : BitVec 64
  deriving DecidableEq, Repr

/-- A line of a core's L1, filled from its ring's TRK line (R93): the bytes at its fill with the core's own later stores. Once
it is orphaned (R118) they are what a load through that alias returns. -/
structure L1Line where
  ring   : Nat
  core   : Nat
  asid   : BitVec 12
  va     : Nat
  page   : Leaf
  data   : List Byte
  orphan : Bool
  deriving DecidableEq, Repr

/-- Where a port keeps a translation (R100). -/
inductive TlbPlace where
  | unit (ring : Nat)
  | gather (bank : Nat)
  | large
  | second
  deriving DecidableEq, Repr

/-- A cached translation (R100, R101): `leaf` is the leaf it came from, with A and D as they were. -/
structure TlbEntry where
  die   : Nat
  place : TlbPlace
  asid  : BitVec 12
  vpn   : Nat
  leaf  : Leaf
  deriving DecidableEq, Repr

/-- A walk that a miss has asked for (R101). -/
structure Walk where
  die  : Nat
  asid : BitVec 12
  root : Dword
  va   : Nat
  deriving DecidableEq, Repr

/-- A shootdown in progress (R114, R340): the ring whose pflush waits for it, what it covers, and the dies that have still
to acknowledge. -/
structure Shootdown where
  client : Nat
  /-- The step that asked for it, which names the pflush that waits (the model's own field). -/
  id     : Nat
  asid   : BitVec 12
  all    : Bool
  vpn    : Nat
  /-- R358: the shootdown covers all that a level-2 entry maps, whether as a leaf or through a table. -/
  wide   : Bool
  left   : List Nat
  deriving DecidableEq, Repr

/-! ## Units -/

/-- R298: one Tray entry of a bank. -/
structure TrayEntry where
  row : Nat
  col : Nat
  cnt : Int
  deriving DecidableEq, Repr

/-- R293, R294: an Enlarger bank while a slot claims it. Absent parts of a bank nobody claims hold nothing (R294). -/
structure Bank where
  /-- 128 × 128 cells by row. -/
  cells  : List (List (BitVec 16))
  /-- R296: the installed format context. -/
  fmt    : Option (List Byte)
  fifoA  : List Byte
  fifoB  : List Byte
  /-- Stream offset of the first byte that FIFO-A holds. -/
  baseA  : Nat
  /-- Stream offset of the first byte that FIFO-B holds. -/
  baseB  : Nat
  /-- ARD: the A stream offset of the next group to apply (R348). -/
  readA  : Nat
  readB  : Nat
  /-- Bytes of the commands accepted into each FIFO since the claim (R348). -/
  accA   : Nat
  accB   : Nat
  steps  : Nat
  mstart : Nat
  amark  : Nat
  arepleft : Nat
  /-- Block position (R292). -/
  blk    : Nat
  tray   : List TrayEntry
  ascale : List Byte
  bscale : List Byte
  /-- R295: what is left of the bank's lease, in commands and in K-steps. -/
  lease  : Option (Nat × Nat)
  deriving DecidableEq, Repr

/-- R307: the Loupe binding of a ring thread. -/
structure LoupeBind where
  cfg  : List Byte
  /-- Bytes of DKIND 3 commands accepted since the last lcfg. -/
  pos  : Nat
  /-- Offset of the first byte no completed lpred has consumed (LPOS, R348). -/
  base : Nat
  buf  : List Byte
  /-- Bytes that the parked lpred has consumed from the buffer (R313). -/
  taken : List Byte
  /-- Bytes of `pos` that aborted commands never append (R290, log entry 52). -/
  gone : Nat
  /-- The prediction record: B, SC and the overflow bits. -/
  pred : Option (Nat × Nat × BitVec 3)
  deriving DecidableEq, Repr

/-- R41: an entry of the snap-range table: the issuing chunk and the range of virtual addresses. -/
structure Snap where
  chunk : Nat
  lo    : Nat
  hi    : Nat
  deriving DecidableEq, Repr

/-- R285: the fault record of a copy command. -/
structure CopyFault where
  cause : Byte
  info  : Dword
  /-- Visiting index of the first element of the faulting group. -/
  index : Nat
  deriving DecidableEq, Repr

/-- R275-R291, R349: a copy command from acceptance to completion. -/
structure CopyCmd where
  quad    : Nat
  entry   : Nat
  core    : Nat
  /-- The issuing chunk's number, noChunk once that chunk is gone. -/
  chunk   : Nat
  /-- R43: whether the issuing chunk is the head or has committed. -/
  committed : Bool
  /-- The mode under which it was issued (log entry 32). -/
  smode   : Bool
  fn      : Nat
  acq     : Bool
  rel     : Bool
  scope   : Nat
  barrier : Nat
  record  : List Byte
  /-- R275: at most 8 commands of a quad are active. -/
  active  : Bool
  /-- Visiting index of the first element not performed; a scale record precedes its element. -/
  pos     : Nat
  /-- Whether the scale record of the group at `pos` was written (R281). -/
  scaled  : Bool
  /-- First elements and lengths of groups performed beyond `pos` (R279: any order for DKIND 0). -/
  ahead   : List (Nat × Nat)
  /-- Pending bytes still counted (R283). -/
  left    : Nat
  /-- R291: of a FIFO command whose last group is performed, what its barrier counts until the array has consumed its last byte. -/
  kept    : Nat
  fault   : Option CopyFault
  /-- Stream offset of its first byte, for DKIND 1-3 (R349). -/
  soff    : Nat
  /-- Stream offset of the next byte it appends. -/
  next    : Nat
  /-- Destination bits of the elements performed. -/
  bits    : Nat
  /-- Bits of the next stream byte, when bits is no multiple of 8. -/
  part    : Nat
  /-- R289: elements beyond pos that were performed before a cresume: performed again, their bytes already subtracted. -/
  counted : List (Nat × Nat)
  /-- R400, R404: the group's request that waits in a controller's queue: its address, and when it arrived. -/
  asked   : Option (Nat × Nat)
  /-- R115: the translations of the group's waiting request, each with its page's number. -/
  held    : List (Nat × Leaf)
  /-- R8, R387: groups (first element, length) that an earlier performance of the command has performed. -/
  once    : List (Nat × Nat)
  /-- R291, R387: its own thread has changed a byte that it reads, or one that it writes, since its acceptance. -/
  dirty   : Bool
  /-- Every group and the completion word performed: a FIFO command counts as outstanding until consumed (R291). -/
  done    : Bool
  deriving DecidableEq, Repr

/-! ## Chunks and ring threads -/

/-- A chunk: the context of a slot (R16, R28, R147, R149). -/
structure Chunk where
  /-- Chunk number in the region (R23, R27). -/
  num    : Nat
  core   : Nat
  pc     : Dword
  x      : Vector Dword 32
  v      : Vector VReg 32
  /-- R243: dead vector registers. -/
  vdead  : BitVec 32
  k      : Vector KReg 8
  stat   : Dword
  /-- R79: the chunk's own accumulation. -/
  fflags : BitVec 7
  vl     : BitVec 10
  vew    : BitVec 2
  vstart : BitVec 10
  seed   : Dword
  sbase  : Dword
  fxs    : Byte
  /-- R209. -/
  rptst  : Dword
  /-- R45: bytes written to the private LS window; the rest are Config.freshLs of `lsTag`. -/
  ls     : List Host.Cell
  lsTag  : Nat
  /-- R153-R155. -/
  pend   : List Pend
  flight : List Flight
  /-- Turns passed, counted as R153 sums them. -/
  turn   : Nat
  frame  : Option Frame
  park   : Option Park
  /-- R44: recorded fault. -/
  trap   : Option Trap
  /-- Reached its end; waits for commit. -/
  ended  : Bool
  /-- R25: the label of this chunk's own fcut, and its successor's create mask. -/
  cut    : Option (Dword × Dword)
  /-- The chunk's own create mask (R25, R28). -/
  mask   : Dword
  /-- Back-edges left in the chunk's grain (R21, R23). -/
  left   : Nat
  /-- R24: has left the loop (the final chunk). -/
  final  : Bool
  /-- R26, R29: squashed after its fcut, which it has not executed again: `cut` is the end that its successor was created for. -/
  recut  : Bool
  /-- R28: mask registers not yet received. -/
  wait   : List RegName
  /-- R32: predicted values in use. -/
  pred   : List (Reg × Dword)
  /-- R30: registers sent since their last write. -/
  sent   : List RegName
  /-- R26: registers outside the create mask written since the chunk began (create-mask bits). -/
  wrote  : Dword
  /-- R30: registers whose value from the predecessor, or a prediction of it, the chunk has consumed. -/
  used   : List RegName
  /-- R30: registers written since the chunk began: a value that arrives no longer reaches the chunk's own reads. -/
  made   : List RegName
  /-- R31: values on the stitch ring toward the successor, oldest first. -/
  outbox : List (RegName × RegVal)
  /-- R28: where the chunk begins, for a restart. -/
  start  : Dword
  /-- R34: the chunk's L1 versions, newest first. -/
  ver    : List VerByte
  /-- R34, R39: the stores behind them, in program order. -/
  stores : List SpecStore
  /-- R127: the chunk has executed a load. -/
  loaded : Bool
  /-- R99, R114: the pages that the chunk has used while it is speculative. -/
  touches : List Touch
  /-- R34: aligned 8-byte words (by number) with a read bit. -/
  reads  : List Nat
  /-- R126: what the chunk's loads have observed that it has not written itself (log entry 98). -/
  seen   : List SeenByte
  /-- R388: what its loads have reached. -/
  loads  : List Extent
  /-- R37: held update records, in order. -/
  upds   : List Update
  /-- R35: store notices on their way to this chunk: word numbers, and whether it is a reduce record. -/
  inbox  : List Nat
  /-- R38: squashed, waiting to restart. -/
  squashed : Bool
  /-- R48: squashes in a row. -/
  streak : Nat
  /-- R38, R48: restarted only after it becomes head. -/
  guarded : Bool
  /-- R36: stopped by a capacity stall until head. -/
  capped : Bool
  /-- R293: the claimed bank. -/
  bank   : Option Bank
  /-- R307: the Loupe binding. -/
  loupe  : Option LoupeBind
  /-- R319: uncommitted contributions to the Loupe counters. -/
  lcnt   : List Nat
  /-- The word being executed (tinfo of ILLOP and PRIV, R324); the model's own field (log entry 11). -/
  ir     : Word
  /-- R332: the next fetch is that of a handler's first instruction; the model's own field. -/
  entering : Bool
  /-- R400, R404: the request with which the slot waits in a controller's queue: its address, and when it arrived. -/
  asked : Option (Nat × Nat)
  /-- R115: the translations of the accesses with which the slot waits at a home, each with its page's number. -/
  held : List (Nat × Leaf)
  /-- R331: the slot waits at a home with a fetch, before any instruction has begun; the model's own field. -/
  fetching : Bool
  deriving DecidableEq, Repr

/-- R21: the kind of a region. -/
inductive RegionKind where
  | loop | cut
  deriving DecidableEq, Repr

/-- R21: the region descriptor; HEAD and LEFT are the head chunk's number and count. -/
structure Region where
  kind  : RegionKind
  first : Dword
  last  : Dword
  mask  : Dword
  grain : Nat
  /-- R27: the core that held the head when the region opened. -/
  home  : Nat
  /-- R388: what its committed chunks and its head have stored, and what they have read. -/
  wrote : List Extent
  read  : List Extent
  deriving DecidableEq, Repr

/-- R32: the induction predictor's entry: the actual values known, with their chunks' numbers, the newest chunk first. -/
structure PredEntry where
  reg  : Reg
  vals : List (Nat × Dword)
  deriving DecidableEq, Repr

/-- R335: the values that fetch may still use beside the current ones: what each register held before a change of it. -/
structure FetchOld where
  asid : List (BitVec 12)
  root : List Dword
  sg   : List (BitVec 3 × (Dword × Dword))
  deriving DecidableEq, Repr

/-- R335: fetch uses the current registers. -/
def FetchOld.empty : FetchOld where
  asid := []
  root := []
  sg := []

/-- R365: the scheduling state of a thread that is not ENDED. -/
inductive ThreadSt where
  | new | ready | running | halted
  deriving DecidableEq, Repr

/-- The ring thread (R14): its registers outside the chunk contexts and its scheduling record. -/
structure Thread where
  st     : ThreadSt
  lid    : Nat
  tix    : Nat
  /-- R13: C. -/
  cores  : Nat
  tsave  : Dword
  tloc   : Dword
  tcause : Dword
  tinfo  : Dword
  tvec   : Dword
  tscr   : Dword
  fflags : BitVec 7
  wtime  : Dword
  tmcmp  : Dword
  /-- R329: HOSTIRQ and the value it carries. -/
  hostirq : Option Dword
  asid   : BitVec 12
  pgroot : Dword
  sg     : Vector (Dword × Dword) 8
  mbase  : Dword
  parkr  : Dword
  /-- R46: the core-shared LS window; unlisted bytes are zero (R363). -/
  shared : List Host.Cell
  region : Option Region
  /-- R327: whether the descriptor is suspended. -/
  susp   : Bool
  /-- R51: spcommit, spsquash, spmisp, spcap, sphint, spguard, spsnap. -/
  spec   : Vector Dword 7
  /-- R319: the Loupe counters. -/
  lcnt   : Vector Dword 7
  cmds   : List CopyCmd
  /-- R295: the core that held each quad's array lease last: (quad, core). -/
  leases : List (Nat × Nat)
  snaps  : List Snap
  preds  : List PredEntry
  /-- R232: committed spawns. -/
  spawns : Nat
  /-- R341, R346: stores and write-backs that their homes have still to acknowledge. -/
  unacked : Nat
  /-- R335. -/
  fetchOld : FetchOld
  /-- R38: cores whose slots are being freed, with the cycle at which they are empty. -/
  freeing : List (Nat × Nat)
  /-- R367: the cycle at which the slice began. -/
  slice  : Nat
  /-- R346, R366: the ring it left last. -/
  lastRing : Option Nat
  /-- R234: a yield has completed at its chunk's end: the thread is pre-empted once that chunk has committed. -/
  leaving : Bool
  deriving DecidableEq, Repr

/-- A ring that is not focused: its thread and its chunks, oldest first (R15). -/
structure RingCtx where
  ring   : Nat
  thr    : Thread
  chunks : List Chunk
  deriving DecidableEq, Repr

/-- A thread without a ring: NEW, READY or HALTED (R365), with its save block (R348) if it was saved. -/
structure Saved where
  thr   : Thread
  head  : Chunk
  block : Option Nat
  deriving DecidableEq, Repr

/-! ## Package -/

/-- R105-R118: caches and translation structures of the package. -/
structure Coherence where
  dir     : List DirLine
  siv     : List SivLine
  l1      : List L1Line
  icache  : List ILine
  /-- R93, R404: lines that the LLC may hold, and whether the line is dirty in a stack that does not serve, so that it stays
  (log entry 26). -/
  llc     : List (Nat × Bool)
  tlb     : List TlbEntry
  /-- R101: the misses of a die in order of arrival; the first 64 have a walker. -/
  walks   : List Walk
  shoots  : List Shootdown
  /-- R378: host lines in the snoop filter: the line and the dies that hold it. -/
  snoop   : List (Nat × List Nat)
  /-- R8: address spaces that have broken an obligation which nothing checks: what they read is free (log entry 25). -/
  breach  : List (BitVec 12)
  /-- R108: physical pages (64 KiB page numbers) that are mapped with two COH values: what they hold is free (log entry 25). -/
  clash   : List Nat
  deriving DecidableEq, Repr

/-- R219: a group with members. Members are (lid, tix). -/
structure Group where
  id      : Nat
  asid    : BitVec 12
  members : List (Nat × Nat)
  arrived : List (Nat × Nat)
  /-- R221: the last cycle of the time limit of a member that has arrived with one. -/
  limits  : List ((Nat × Nat) × Nat)
  /-- R221: members of completed instances whose gbar has still to return. -/
  release : List (Nat × Nat)
  deriving DecidableEq, Repr

/-- R223: an endpoint binding. -/
structure Endpoint where
  ep   : Nat
  lid  : Nat
  tix  : Nat
  asid : BitVec 12
  root : Dword
  base : Dword
  deriving DecidableEq, Repr

/-- R229: a message unit's record of a sender with parked entries, kept after the sender ends. -/
structure Sender where
  lid  : Nat
  tix  : Nat
  asid : BitVec 12
  root : Dword
  base : Dword
  sep  : Nat
  deriving DecidableEq, Repr

/-- R226, R229: an entry parked at STATE 1: its sender, its number, and where the message goes. The message unit holds
these in the order of parking. -/
structure Parked where
  lid   : Nat
  tix   : Nat
  entry : Nat
  pkg   : Nat
  ep    : Nat
  mbox  : Nat
  ch    : Nat
  deriving DecidableEq, Repr

/-- R355, R356: a queue block and the commands fetched from it that have not completed. -/
structure Queue where
  id     : Nat
  qbase  : Dword
  qctl   : Dword
  qtaila : Dword
  qhead  : Dword
  qstat  : Dword
  qroot  : Dword
  qtvec  : Dword
  qsegs  : Dword
  /-- R356: the fetched command that has not started. -/
  held   : Option (List Byte)
  /-- Started commands that have not completed: a WAITEV (R358), or a MIGRATE under way (R359). -/
  waits  : List (List Byte)
  /-- R356, R404: a read of the queue has met a stack that does not serve: it is tried again. -/
  stalled : Bool
  deriving DecidableEq, Repr

/-- R172: a loaded image: its patch table with kept addends, and its launch table. -/
structure Image where
  handle : Nat
  asid   : BitVec 12
  root   : Dword
  sg0    : Dword
  /-- (EA in sg0, name offset, kept addend). -/
  patches : List (Nat × Nat × Dword)
  /-- (ENTRY, ARGS). -/
  entries : List (Nat × Nat)
  /-- R168: contents of the core-shared window. -/
  shared  : List Host.Cell
  deriving DecidableEq, Repr

/-- R360-R372: an admitted launch. -/
structure Launch where
  lid    : Nat
  image  : Nat
  prio   : Nat
  weight : Nat
  cores  : Nat
  nthr   : Nat
  asid   : BitVec 12
  /-- R384: the ASID field of the LAUNCH, or the ASID of the thread that spawned it: under it errors of Pronor's accesses are logged. -/
  cmd    : BitVec 12
  root   : Dword
  sg     : Vector (Dword × Dword) 8
  aff    : Dword
  /-- R371: the producer of an EARLY launch. -/
  early  : Option Nat
  caddr  : Dword
  cval   : Dword
  /-- Queue and TAG of the LAUNCH, for events (R373). -/
  queue  : Nat
  tag    : Dword
  /-- R232: (parent lid, tix, n). -/
  parent : Option (Nat × Nat × Nat)
  /-- R364: dependences not yet met. -/
  deps   : List (Dword × Dword)
  /-- R364: (name, address). -/
  binds  : List (Nat × Dword)
  /-- Threads ENDED, and of the ended and halted those that count in CODE of KIND 5 (R373). -/
  ended  : Nat
  bad    : Nat
  /-- R372: the launch has ended and its event is posted. -/
  closed : Bool
  deriving DecidableEq, Repr

/-- R367: registers of the scheduler block. -/
structure SchedRegs where
  tslice : Dword
  wpark  : Dword
  eqbase : Dword
  eqctl  : Dword
  eqtail : Dword
  eqhead : Dword
  evlost : Dword
  errcnt : Dword
  deriving DecidableEq, Repr

/-- R359: a migration under way: its queue and command, and the leaf of the page, which is held. -/
structure Migration where
  queue : Nat
  cmd   : List Byte
  leaf  : Leaf
  deriving DecidableEq, Repr

/-- R354-R373, R384: the host interface and the scheduler. -/
structure HostIf where
  queues   : List Queue
  regs     : SchedRegs
  /-- R373: events waiting in Pronor's memory, oldest first. -/
  events   : List (List Byte)
  /-- R384: the 16 entries of the error log. -/
  errlog   : Vector (List Byte) 16
  images   : List Image
  launches : List Launch
  groups   : List Group
  endpoints : List Endpoint
  senders  : List Sender
  parked   : List Parked
  /-- R359: the migrations under way, oldest first. -/
  moves    : List Migration
  /-- R377, R198: the last data returned to a host agent or peer, at most a line, none for an error response. -/
  reply    : Option (BitVec 512)
  /-- R411, R358: the last SPDM response on the I3C connection. -/
  spdmOut  : List Byte
  /-- R411: what the two connections have negotiated (request codes seen): I3C, ATTEST. -/
  spdmI3c  : List Nat
  spdmAttest : List Nat
  deriving DecidableEq, Repr

/-- R401: management registers. -/
structure MgmtRegs where
  step    : Nat
  reason  : Nat
  fails   : Nat
  recov   : Bool
  rti     : Dword
  tsrmax  : Dword
  pkglim  : Dword
  dielim  : Dword
  stklim  : Dword
  pkid    : Dword
  cecnt   : Dword
  deriving DecidableEq, Repr

/-- R375, R379: a compute die's power level, its evaluations below 90 % of every limit, and whether it is in service. -/
structure Die where
  level : Nat
  calm  : Nat
  inService : Bool
  deriving DecidableEq, Repr

/-- R400, R404, R405: an HBM stack. -/
structure Stack where
  critical : Bool
  refresh  : Bool
  expired  : Bool
  training : List Nat
  /-- R405: the cycle at which self-refresh began, and the cycles of it that passed before the last start. -/
  since    : Nat
  spent    : Nat
  /-- R405: the cycle at which the critical-temperature signal fell. -/
  cool     : Nat
  /-- R400: channels with the cycle of their last burst; 0 for a channel not listed. -/
  trained  : List (Nat × Nat)
  deriving DecidableEq, Repr

/-- R400: a stack that serves every request. -/
def Stack.serving : Stack where
  critical := false
  refresh := false
  expired := false
  training := []
  since := 0
  spent := 0
  cool := 0
  trained := []

/-- R403, R404: a write on its way to its home: the bytes and which of them are written (bit i for byte i), the operation with
which a collected partial merges instead (R110), the address space charged for an uncorrectable error, SRC of R384, and when it
arrived, once it has had to wait. -/
structure HomeWrite where
  pa   : Nat
  data : List Byte
  mask : Nat
  op   : Option (RmwOp × Nat)
  asid : Option (BitVec 12)
  src  : Nat
  since : Nat
  deriving DecidableEq, Repr

/-- R398-R413: the platform. -/
structure Platform where
  mgmt    : MgmtRegs
  dies    : Vector Die 32
  stk     : Vector Stack 16
  /-- R403: retired pages (64 KiB page numbers). -/
  retired : List Nat
  /-- R403: poisoned codewords (PA div 32). -/
  poison  : List Nat
  /-- R402: codewords (PA div 32) whose modified bytes a soft error in an on-die memory has destroyed. -/
  soft    : List Nat
  /-- R400, R404: writes that wait in the controllers' queues, in order of arrival. -/
  queued  : List HomeWrite
  /-- R400, R404: the waiting request that the present step performs; none between steps (the model's own field, log entry 26). -/
  serves  : Option (Nat × Nat)
  /-- R403: uncorrectable errors that a write-back has met and that are still to be charged. -/
  due     : List (Option (BitVec 12) × Nat)
  /-- R406: whether the package runs (start sequence succeeded, stages on). -/
  power   : Bool
  started : Bool
  /-- R409: firmware version, its image, and the fused minimum; no image stands for the one that the start which State.reset
  follows has accepted, whose bytes the spec does not give (log entry 24). -/
  fwVersion : Nat
  fwImage : Option (List Byte)
  fwMin   : Nat
  /-- R410: identity keys derived. -/
  keys    : Bool
  /-- R410: the alias key that the identity key certifies, as its public part; the identity key itself never changes. -/
  aliasKey : List Byte
  /-- R413: the input voltage. -/
  volts   : Nat
  /-- R381: package id (taken at cold-start step 6), the pod's peers with their memory sizes. -/
  pkid    : BitVec 10
  pod     : List (Nat × Nat)
  hostLink : Bool
  /-- R383: host memory the host reports as absent: (first, past last). -/
  hostAbsent : List (Nat × Nat)
  deriving DecidableEq, Repr

/-- Which agent takes the next step (log entry 3): a ring's chunk issues, or an event happens while that ring and
chunk are focused. The environment writes this list; an empty list lets the machine go on by itself. -/
inductive Turn where
  | issue (ring chunk : Nat)
  | event (ring chunk : Nat) (i : Instr)
  deriving DecidableEq, Repr

/-- The package. `cpu` is the focused chunk; it is the head exactly when no chunk is older (R20). -/
structure State where
  cpu     : Chunk
  older   : List Chunk
  younger : List Chunk
  thr     : Thread
  /-- Whether a thread runs on the focused ring; when not, cpu and thr are the blank context (log entry 1). -/
  live    : Bool
  /-- R12: the focused ring. -/
  ring    : Nat
  others  : List RingCtx
  saved   : List Saved
  mem     : List Host.Cell
  coh     : Coherence
  host    : HostIf
  plat    : Platform
  /-- R149: cycles since the last start. -/
  cyc     : Nat
  /-- The free-value counter (the model's own field, log entry 4). -/
  tick    : Nat
  agenda  : List Turn
  deriving DecidableEq, Repr

/-- The reasons a step stops. -/
inductive Fault where
  /-- Raised by step when the agenda names an encoded instruction as if it were an event: an environment the spec does
  not describe. Safe: the machine stops where no machine exists. -/
  | agenda
  deriving DecidableEq, Repr

/-- The reasons a meaning is refused. -/
inductive Refusal where
  /-- Raised by an arm of exec that has no meaning. Safe. -/
  | notModelled (mnemonic : String)
  deriving DecidableEq, Repr

/-! ## Reset -/

/-- The blank chunk context (R149, R363; log entry 1). -/
def Chunk.blank : Chunk where
  num := 0
  core := 0
  pc := 0
  x := Vector.replicate 32 0
  v := Vector.replicate 32 0
  vdead := BitVec.allOnes 32
  k := Vector.replicate 8 0
  stat := 0
  fflags := 0
  vl := 0
  vew := 0
  vstart := 0
  seed := 0
  sbase := 0
  fxs := 0
  rptst := 0
  ls := []
  lsTag := 0
  pend := []
  flight := []
  turn := 0
  frame := none
  park := none
  trap := none
  ended := false
  cut := none
  mask := 0
  left := 0
  final := false
  recut := false
  wait := []
  pred := []
  sent := []
  wrote := 0
  used := []
  made := []
  outbox := []
  start := 0
  ver := []
  stores := []
  loaded := false
  touches := []
  reads := []
  seen := []
  loads := []
  upds := []
  inbox := []
  squashed := false
  streak := 0
  guarded := false
  capped := false
  bank := none
  loupe := none
  lcnt := [0, 0, 0, 0, 0, 0, 0]
  ir := 0
  entering := false
  asked := none
  held := []
  fetching := false

/-- The blank thread context (R149, R323, R363; log entry 1). -/
def Thread.blank : Thread where
  st := .new
  lid := 0
  tix := 0
  cores := 1
  tsave := 0
  tloc := 0
  tcause := 0
  tinfo := 0
  tvec := 0
  tscr := 0
  fflags := 0
  wtime := 0
  tmcmp := 0
  hostirq := none
  asid := 0
  pgroot := 0
  sg := Vector.replicate 8 (0, 0)
  mbase := 0
  parkr := 0
  shared := []
  region := none
  susp := false
  spec := Vector.replicate 7 0
  lcnt := Vector.replicate 7 0
  cmds := []
  leases := []
  snaps := []
  preds := []
  spawns := 0
  unacked := 0
  fetchOld := FetchOld.empty
  freeing := []
  slice := 0
  lastRing := none
  leaving := false

/-- R93, R100: nothing cached. -/
def Coherence.empty : Coherence where
  dir := []
  siv := []
  l1 := []
  icache := []
  llc := []
  tlb := []
  walks := []
  shoots := []
  snoop := []
  breach := []
  clash := []

/-- R355, R367: the scheduler block after a start. R406 says that every aperture register reads as zero after a start, and refers to
R355, which says so of the queue blocks; R367 gives TSLICE and WPARK other reset values: that they take those of R367 is the model's
choice (log entry 79). -/
def SchedRegs.reset : SchedRegs where
  tslice := 1880000
  wpark := 94000
  eqbase := 0
  eqctl := 0
  eqtail := 0
  eqhead := 0
  evlost := 0
  errcnt := 0

/-- The host interface after a start (R355, R406). -/
def HostIf.reset : HostIf where
  queues := []
  regs := SchedRegs.reset
  events := []
  errlog := Vector.replicate 16 (List.replicate 32 0)
  images := []
  launches := []
  groups := []
  endpoints := []
  senders := []
  parked := []
  moves := []
  reply := none
  spdmOut := []
  spdmI3c := []
  spdmAttest := []

/-- R401: the management registers after a successful cold start (R406: STEP 8, REASON and FAILS 0). -/
def MgmtRegs.reset : MgmtRegs where
  step := 8
  reason := 0
  fails := 0
  recov := false
  rti := 100000
  tsrmax := 50000
  pkglim := 6600
  dielim := 300
  stklim := 60
  pkid := 0
  cecnt := 0

/-- The platform after a successful cold start (R406, log entry 24). -/
def Platform.reset : Platform where
  mgmt := MgmtRegs.reset
  dies := Vector.replicate 32 { level := 0, calm := 0, inService := true }
  stk := Vector.replicate 16 Stack.serving
  retired := []
  poison := []
  soft := []
  queued := []
  serves := none
  due := []
  power := true
  started := true
  fwVersion := 0
  fwImage := none
  fwMin := 0
  keys := true
  aliasKey := Config.aliasKey Config.identityKey (Config.digest Config.romImage ++ Config.digest [] ++ Config.digest (List.replicate 16 0))
  volts := 48
  pkid := 0
  pod := []
  hostLink := true
  hostAbsent := []

/-- The package right after a successful cold start (R406): no launch, no thread, memory zero. -/
def State.reset : State where
  cpu := Chunk.blank
  older := []
  younger := []
  thr := Thread.blank
  live := false
  ring := 0
  others := []
  saved := []
  mem := []
  coh := Coherence.empty
  host := HostIf.reset
  plat := Platform.reset
  cyc := 0
  tick := 0
  agenda := []

end Sys2Proof.Machine
end

