-- ==== Sys2Proof/Machine/Mem.lean ====
section
/-! DEFINITION. Physical memory, the coherence schemes and translation (R93-R118), below the instructions: where a
physical address leads, what a ring's cached access of each attribute does, and how a port translates.
-/

namespace Sys2Proof.Machine

/-! ## Physical addresses -/

/-- Where a physical address leads (R102, R383). -/
inductive Place where
  /-- This package's HBM. -/
  | hbm (a : Nat)
  /-- Host memory. -/
  | host (a : Nat)
  /-- Another package's memory. -/
  | peer (pkg a : Nat)
  /-- An error response, with the CODE of R384. -/
  | error (code : Nat)
  deriving DecidableEq, Repr

/-- R102, R383: where an access by a ring, an engine or the system die leads. -/
def State.place (s : State) (pa : Nat) : Place :=
  match bitsOf pa 50 2 with
  | 0 => if bitsOf pa 40 10 = 0 then .hbm pa else .error 1
  | 1 => .error 2
  | 2 =>
    if s.plat.hostLink && !(s.plat.hostAbsent.any (fun r => r.1 ≤ bitsOf pa 0 50 && bitsOf pa 0 50 < r.2)) then .host pa
    else .error 3
  | _ =>
    let pkg := bitsOf pa 40 10
    let a := bitsOf pa 0 40
    if pkg = s.plat.pkid.toNat then .hbm a
    else match s.plat.pod.find? (fun p => p.1 == pkg) with
      | some p => if a < p.2 then .peer pkg a else .error 4
      | none => .error 4

/-- The key under which memory holds a physical byte; none where no memory of this package or its host answers. -/
def State.key (s : State) (pa : Nat) : Option Nat :=
  match s.place pa with
  | .hbm a => some a
  | .host a => some a
  | .peer _ _ => none
  | .error _ => none

/-- R102: a physical address as the package's own memory knows it: an own-package peer address is that of its low bits. -/
def State.homeAddr (s : State) (pa : Nat) : Nat := (s.key pa).getD pa

/-- R103: the quadrant, 0-63, of a local HBM address. -/
def quadrantOf (pa : Nat) : Nat :=
  bitsOf pa 16 6 ^^^ bitsOf pa 22 6 ^^^ bitsOf pa 28 6 ^^^ bitsOf pa 34 6

/-- R103: the stack of a local HBM address. -/
def stackOf (pa : Nat) : Nat := quadrantOf pa / 4

/-- R103, R398: the channel, 0-31, of the stack. -/
def channelOf (pa : Nat) : Nat := 8 * (quadrantOf pa % 4) + bitsOf pa 10 3

/-- R103, R399: the pseudo-channel, 0-1, of the channel. -/
def pseudoOf (pa : Nat) : Nat := bitsOf pa 13 1

/-- R103: the home die of a local HBM address. -/
def homeDie (pa : Nat) : Nat := 4 * (stackOf pa % 8) + quadrantOf pa % 4

/-- R103: the LLC slice of the home die. -/
def homeSlice (pa : Nat) : Nat := bitsOf pa 6 4 ^^^ bitsOf pa 10 4

/-- R10: the die of a ring. -/
def dieOf (ring : Nat) : Nat := ring / 8

/-- R368: whether an address lies in the reserved region of this package's HBM. -/
def inReserved (pa : Nat) : Bool := Config.rsvBase ≤ pa && pa < Config.rsvBase + Config.rsvSize

/-! ## The error log and events -/

/-- R384: who asked, in bits [31:0] of SRC: the kind, the ASID, and the ring id or port. -/
def srcCode (kind : Nat) (asid : BitVec 12) (id : Nat) : Nat := kind * 2 ^ 30 + asid.toNat * 2 ^ 18 + id % 256

/-- R384: logs an error response. -/
def State.logError (s : State) (pa src code : Nat) : State :=
  let n := s.host.regs.errcnt.toNat
  let entry := leBytes 8 pa ++ leBytes 4 src ++ leBytes 4 code ++ leBytes 8 s.cyc ++ List.replicate 8 0
  { s with host :=
    { s.host with
      errlog := s.host.errlog.setIfInBounds (n % 16) entry
      regs := { s.host.regs with errcnt := s.host.regs.errcnt + 1 } } }

/-! ## Stops below an instruction -/

/-- What an access that has to wait waits for, where the order of arrival counts. -/
inductive Ask where
  /-- R101: a walker of its die. -/
  | walk (w : Walk)
  /-- R106: the end of a purge of its line. -/
  | line (r : LineReq) (line : Nat)
  /-- R400, R404: the controller of an address; with the translation through which the access came, if it has one (R115). -/
  | home (a : Nat) (held : Option (Nat × Leaf))
  /-- R107, R404: the write-backs of a ring's dirty SIV lines, by ASID and virtual line, on which a release or a flush waits. -/
  | flush (ring : Nat) (lines : List (BitVec 12 × Nat))
  deriving DecidableEq, Repr

/-- Why an access does not complete. -/
inductive Stop where
  /-- A check fails: cause and tinfo. -/
  | trap (cause : Byte) (info : Dword)
  /-- An uncorrectable error met at this physical address (R403). -/
  | memerr (pa : Nat)
  /-- The access is made again later: a page that a migration holds, a stack that does not serve the system die (R359, R404). -/
  | wait
  /-- The request takes its place in a queue (R101, R106, R400, R404). -/
  | queue (q : Ask)
  /-- R36: a capacity stall of a speculative chunk. -/
  | capacity
  /-- The address got an error response with this CODE (R383). -/
  | noMemory (pa code : Nat)
  /-- R102: an error response that faults: the trap, and the address and CODE to log (R384). -/
  | logged (cause : Byte) (info : Dword) (pa code : Nat)
  deriving DecidableEq, Repr

/-! ## Collect state and chains -/

/-- One atomic update of an n-byte number (R109, R195), old value first. -/
def rmwInt (op : RmwOp) (n : Nat) (old new : Nat) : Nat :=
  let w := 8 * n
  match op with
  | .swap => new % 2 ^ w
  | .add => (old + new) % 2 ^ w
  | .and => (old &&& new) % 2 ^ w
  | .or => (old ||| new) % 2 ^ w
  | .xor => (old ^^^ new) % 2 ^ w
  | .min => if signed w new < signed w old then new % 2 ^ w else old % 2 ^ w
  | .max => if signed w old < signed w new then new % 2 ^ w else old % 2 ^ w
  | .minu => if new % 2 ^ w < old % 2 ^ w then new % 2 ^ w else old % 2 ^ w
  | .maxu => if old % 2 ^ w < new % 2 ^ w then new % 2 ^ w else old % 2 ^ w
  | .fadd => old % 2 ^ w

/-- R109: the identity of an operation on n-byte elements. -/
def rmwIdentity (op : RmwOp) (n : Nat) : Nat :=
  match op with
  | .min => 2 ^ (8 * n - 1) - 1
  | .max => 2 ^ (8 * n - 1)
  | .minu => 2 ^ (8 * n) - 1
  | .and => 2 ^ (8 * n) - 1
  | _ => 0

/-- Combines two byte strings element by element, n bytes each; the fuel is the number of elements. -/
def combineParts (op : RmwOp) (n : Nat) : Nat → List Byte → List Byte → List Byte
  | 0, _, _ => []
  | k + 1, a, b =>
    leBytes n (rmwInt op n (leNat (a.take n)) (leNat (b.take n))) ++ combineParts op n k (a.drop n) (b.drop n)

/-- The chain of a line; empty when the directory holds none (R105). -/
def chainOf (dir : List DirLine) (line : Nat) : List Member :=
  match dir.find? (fun d => d.line == line) with
  | some d => d.chain
  | none => []

/-- Whether a purge of the line is in progress (R106). -/
def purging (dir : List DirLine) (line : Nat) : Bool :=
  dir.any (fun d => d.line == line && d.purge.isSome)

/-- R106: whether a request of this time arrives during a purge of the line. -/
def purgingAt (dir : List DirLine) (line since : Nat) : Bool :=
  dir.any (fun d => d.line == line && d.purge.any (fun p => decide (p.since ≤ since)))

/-- The directory with the chain of a line replaced; a line with no chain and no purge has no entry. -/
def setChain (dir : List DirLine) (line : Nat) (chain : List Member) : List DirLine :=
  match dir with
  | [] => if chain.isEmpty then [] else [{ line := line, chain := chain, purge := none, waiting := [] }]
  | d :: r =>
    if d.line = line then
      (if chain.isEmpty && d.purge.isNone then r else { d with chain := chain } :: r)
    else d :: setChain r line chain

/-- The directory with the entry of a line changed; a line with none gets one first. -/
def mapLine (line : Nat) (f : DirLine → DirLine) (dir : List DirLine) : List DirLine :=
  match dir with
  | [] => [f { line := line, chain := [], purge := none, waiting := [] }]
  | d :: r => if d.line = line then f d :: r else d :: mapLine line f r

/-- Changes the directory entry of a line. -/
def State.mapLine (s : State) (line : Nat) (f : DirLine → DirLine) : State :=
  { s with coh := { s.coh with dir := Machine.mapLine line f s.coh.dir } }

/-- R106: a request that arrives during a purge waits, behind those that came before it; one that waits already keeps its place. -/
def State.waitLine (s : State) (r : LineReq) (line : Nat) : State :=
  s.mapLine line (fun d => if d.waiting.contains r then d else { d with waiting := d.waiting ++ [r] })

/-- R101: a miss waits for a walk, behind those of its die that came before it; one walk serves the misses of a page. -/
def State.waitWalk (s : State) (w : Walk) : State :=
  if s.coh.walks.any (fun x => x.die == w.die && x.asid == w.asid && x.va / 2 ^ 16 == w.va / 2 ^ 16) then s
  else { s with coh := { s.coh with walks := s.coh.walks ++ [w] } }

/-! ## Memory devices and the LLC (R93, R400-R405) -/

/-- R402: whether one of the n bytes lies in a codeword whose modified bytes a soft error has destroyed. -/
def State.lost (s : State) (a n : Nat) : Bool := s.plat.soft.any (fun c => a < 32 * c + 32 && 32 * c < a + n)

/-- R402: whether one of the n bytes at a home lies in a poisoned codeword. -/
def State.poisoned (s : State) (a n : Nat) : Bool :=
  s.plat.poison.any (fun c => c < 2 ^ 35 && a < 32 * c + 32 && 32 * c < a + n) || s.lost a n

/-- R402, R403: a codeword that is fully written again is no longer poisoned. -/
def unpoison (poison : List Nat) (a n : Nat) : List Nat :=
  poison.filter (fun c => !(decide (a ≤ 32 * c) && decide (32 * c + 32 ≤ a + n)))

/-- Whether a write leaves part of a poisoned codeword unwritten, which needs its old bytes (R403). -/
def State.partialPoison (s : State) (a n : Nat) : Bool :=
  (s.plat.poison ++ s.plat.soft).any (fun c => a < 32 * c + 32 && 32 * c < a + n && !(decide (a ≤ 32 * c) && decide (32 * c + 32 ≤ a + n)))

/-- The stack that holds a local HBM address. -/
def State.stackAt (s : State) (a : Nat) : Stack :=
  s.plat.stk.toList.getD (stackOf a) Stack.serving

/-- R404, R405: whether the LLC holds a line. A line that is dirty in a stack in self-refresh stays; whether another one is
still there is free, since no rule says when the LLC replaces a line (log entry 26). -/
def State.llcHolds (s : State) (line : Nat) : Bool :=
  match s.coh.llc.find? (fun l => l.1 == line) with
  | some l => l.2 || Config.llcKept s.tick line
  | none => false

/-- R10, R93: how many lines an LLC slice of 8 MiB holds. -/
def sliceLines : Nat := 131072

/-- R103: whether a line of local HBM lies in the LLC slice of another one. -/
def sameSlice (line other : Nat) : Bool := homeDie (64 * line) == homeDie (64 * other) && homeSlice (64 * line) == homeSlice (64 * other)

/-- R93, R404: the LLC's lines with room for one more in its slice: a full slice gives up a line that need not stay, and which is free (log
entry 8); none when all of them stay. -/
def llcRoom (tick : Nat) (llc : List (Nat × Bool)) (line : Nat) : Option (List (Nat × Bool)) :=
  if llc.length < sliceLines || (llc.filter (fun x => sameSlice x.1 line)).length < sliceLines then some llc
  else
    let loose := llc.filter (fun x => sameSlice x.1 line && !x.2)
    (loose[Config.cacheVictim tick % loose.length]?).map (fun v => llc.filter (fun x => x != v))

/-- R93: one line enters the LLC, or is written again there. -/
def llcPut (tick : Nat) (pin : Bool) (llc : List (Nat × Bool)) (line : Nat) : List (Nat × Bool) :=
  if llc.any (fun x => x.1 == line) then llc.map (fun x => if x.1 = line then (line, x.2 || pin) else x)
  else match llcRoom tick llc line with
    | some l => (line, pin) :: l
    | none => llc

/-- R93: the LLC takes the lines of n bytes of local HBM; those written while their stack is in self-refresh stay dirty. -/
def State.llcAdd (s : State) (a n : Nat) (written : Bool) : State :=
  if bitsOf a 50 2 ≠ 0 then s
  else
    let pin := written && (s.stackAt a).refresh
    let lines := (List.range ((a + n - 1) / 64 - a / 64 + 1)).map (fun i => a / 64 + i)
    { s with coh := { s.coh with llc := lines.foldl (llcPut s.tick pin) s.coh.llc } }

/-- R404: whether a fill of the line of a local address would have to evict a line that stays dirty for its stack: every line of its slice
stays, or every line of its set, which is free since the spec gives no sets (log entry 26). -/
def State.fillBlocked (s : State) (a : Nat) : Bool :=
  s.coh.llc.any (fun x => x.2 && sameSlice x.1 (a / 64)) && !s.coh.llc.any (fun x => x.1 == a / 64)
    && ((llcRoom s.tick s.coh.llc (a / 64)).isNone || Config.llcSetFull s.tick)

/-- Whether a stack and channel serve a local address now (R400, R404). -/
def State.serving (s : State) (a : Nat) : Bool := !(s.stackAt a).refresh && !(s.stackAt a).training.contains (channelOf a)

/-- R399, R400, R404: whether a request to an address of local HBM must come before a later one to another address: both are of one
quadrant, whose controller's queue keeps the order of arrival. Past a channel in a retraining burst, requests to other channels go on. -/
def State.sameQueue (s : State) (b a : Nat) : Bool :=
  bitsOf a 50 2 == 0 && bitsOf b 50 2 == 0 && quadrantOf a == quadrantOf b && (channelOf a == channelOf b || s.serving b)

/-- R400, R404: the requests of slots and copy commands that wait in the controllers' queues: address and time of arrival. Of a thread that
is about to leave its ring only the head's and the commands' are left, since its other chunks go no further (R234). -/
def State.asks (s : State) : List (Nat × Nat) :=
  let ofRing (t : Thread) (cs : List Chunk) : List (Nat × Nat) :=
    (if t.leaving then cs.take 1 else cs).filterMap (fun c => c.asked) ++ t.cmds.filterMap (fun c => c.asked)
  ofRing s.thr (s.older ++ s.cpu :: s.younger) ++ s.others.flatMap (fun r => ofRing r.thr r.chunks)

/-- R400, R404, R405: requests to one controller are served in order of arrival: whether one that arrived earlier still waits. -/
def State.behind (s : State) (a since : Nat) : Bool :=
  s.asks.any (fun q => s.sameQueue q.1 a && decide (q.2 < since)) || s.plat.queued.any (fun w => s.sameQueue w.pa a && decide (w.since < since))

/-- When the request of an access arrived: that of a request which has waited, else now, behind all that wait. -/
def State.arrived (s : State) (a : Nat) : Nat :=
  match s.plat.serves with
  | some (b, n) => if a / 64 = b / 64 then n else s.tick + 1
  | none => s.tick + 1

/-- R400, R404: a request for an address in the controllers' queue: one that is presented again keeps its time of arrival. -/
def State.request (s : State) (a : Nat) : Nat × Nat :=
  match s.plat.serves with
  | some (b, n) => (a, if a / 64 = b / 64 then n else s.tick)
  | none => (a, s.tick)

/-- R400, R404, R405: whether a request waits, or fails, at its home. A request to a line with a write in the controller's queue that
arrived no later waits behind it; a line that the LLC holds is served from there; else a request waits behind all earlier ones of its
controller, and for a place in the LLC. -/
def State.deviceStop (s : State) (a : Nat) : Option Stop :=
  if s.plat.queued.any (fun w => w.pa / 64 == a / 64 && decide (w.since ≤ s.arrived a)) then some (.queue (.home a none))
  else if bitsOf a 50 2 ≠ 0 then none
  else if s.serving a && !s.behind a (s.arrived a) && !s.fillBlocked a then none
  else if s.llcHolds (a / 64) then none
  else if s.serving a then some (.queue (.home a none))
  else if (s.stackAt a).refresh && (s.stackAt a).expired then some (.memerr a)
  else some (.queue (.home a none))

/-! ## Writes on their way to a home (R107, R110, R403, R404) -/

/-- R384: whether a ring's cache has sent the write: a write-back or a merge. -/
def HomeWrite.ofRing (w : HomeWrite) : Bool := w.src / 2 ^ 30 == 0

/-- Whether a write touches a codeword, by its line's byte 0 and the codeword's number. -/
def HomeWrite.touches (w : HomeWrite) (a c : Nat) : Bool :=
  (List.range w.data.length).any (fun i => w.mask.testBit i && (a + i) / 32 == c)

/-- Whether a write replaces every byte of a codeword. -/
def HomeWrite.covers (w : HomeWrite) (a c : Nat) : Bool :=
  w.op.isNone && (List.range 32).all (fun i => a ≤ 32 * c + i && w.mask.testBit (32 * c + i - a) && 32 * c + i - a < w.data.length)

/-- The write performed: masked bytes, or a merge of aggregates (R110). -/
def HomeWrite.into (w : HomeWrite) (mem : List Host.Cell) (a : Nat) : List Host.Cell :=
  match w.op with
  | none => Memory.setMasked mem a w.mask w.data
  | some (op, n) => Memory.setBytes mem a (combineParts op n (64 / n) (Memory.getBytes mem a 64) w.data)

/-- R402, R403: the state with the codewords that a write replaces whole no longer bad. -/
def State.renewed (s : State) (whole : Nat → Bool) : State :=
  { s with plat := { s.plat with
      poison := s.plat.poison.filter (fun c => !whole c)
      soft := s.plat.soft.filter (fun c => !whole c) } }

/-- One write performed at its home (R104, R403); a write to a peer leaves the package (log entry 14). What the rings' caches give up
belongs to the purge itself, and does not wait for it (R105, R110); nor does a write that arrived before the purge. -/
def State.homePutNow (s : State) (w : HomeWrite) : Except Stop State :=
  match s.place w.pa with
  | .error c => .error (.noMemory w.pa c)
  | .peer _ _ => .ok s
  | .host a =>
    if s.plat.soft.any (fun c => w.touches a c && !w.covers a c) then .error (.memerr a)
    else .ok (State.renewed { s with mem := w.into s.mem a } (w.covers a))
  | .hbm a =>
    match (if purgingAt s.coh.dir (a / 64) w.since && !w.ofRing then some Stop.wait else s.deviceStop a) with
    | some e => .error e
    | none =>
      if (s.plat.poison ++ s.plat.soft).any (fun c => w.touches a c && !w.covers a c) then .error (.memerr a)
      else .ok ((State.renewed { s with mem := w.into s.mem a } (w.covers a)).llcAdd a w.data.length true)

/-- R399, R404: whether a write that waits must come before another one: of the same requester, to the same line, or in the
same controller's queue. -/
def State.writesFirst (s : State) (q w : HomeWrite) : Bool :=
  q.src == w.src || q.pa / 64 == w.pa / 64 || s.sameQueue q.pa w.pa

/-- A write at its home: performed, or left in the controller's queue until its stack serves (R400, R404); one that meets
an uncorrectable error is discarded and charged (R403, R405), and one that meets an error response is logged (R384). -/
def State.homeSend (s : State) (w : HomeWrite) : State :=
  let wait : State := { s with plat := { s.plat with queued := s.plat.queued ++ [{ w with pa := s.homeAddr w.pa }] } }
  if s.plat.queued.any (fun q => s.writesFirst q w) then wait
  else match State.homePutNow { s with plat := { s.plat with serves := some (w.pa, w.since) } } w with
  | .ok t => { t with plat := { t.plat with serves := s.plat.serves } }
  | .error (.memerr a) => { s with plat := { s.plat with due := s.plat.due ++ [(w.asid, a)] } }
  | .error (.noMemory pa c) => s.logError pa w.src c
  | .error .wait => wait
  | .error (.queue _) => wait
  | .error _ => s

/-- The waiting requests for a line that a ring has made, those of every ring for none given: when they arrived. -/
def State.asksOf (s : State) (line : Nat) (ring : Option Nat) : List Nat :=
  let here (r : Nat) (cs : List Chunk) (t : Thread) : List Nat :=
    if ring.all (fun k => k == r) then
      ((cs.filterMap (fun c => c.asked) ++ t.cmds.filterMap (fun c => c.asked)).filter (fun q => q.1 / 64 == line)).map (fun q => q.2)
    else []
  (match s.plat.serves with
    | some (b, n) => if b / 64 = line ∧ ring.all (fun k => k == s.ring) then [n] else []
    | none => [])
    ++ here s.ring (s.older ++ s.cpu :: s.younger) s.thr ++ s.others.flatMap (fun r => here r.ring r.chunks r.thr)

/-- R126, R139: when a write arrives at its home: now, but a ring's write-back no later than that ring's waiting requests for the line, and
the merge of a collected partial no later than any ring's, so that none of them is served before it. -/
def State.arrival (s : State) (w : HomeWrite) : Nat :=
  if w.op.isSome then (s.asksOf (w.pa / 64) none).foldl min s.tick
  else if w.ofRing then (s.asksOf (w.pa / 64) (some (w.src % 256))).foldl min s.tick
  else s.tick

/-- A write sent to its home now. -/
def State.homePut (s : State) (w : HomeWrite) : State := s.homeSend { w with since := s.arrival w }

/-- R404, R405: the controllers' queues are tried again, in order of arrival. -/
def State.serveQueued (s : State) : State :=
  s.plat.queued.foldl State.homeSend { s with plat := { s.plat with queued := [] } }

/-- A write of whole bytes for an agent that does not wait for it: its completion or event comes when the stack serves. -/
def plainWrite (pa : Nat) (bs : List Byte) (asid : Option (BitVec 12)) (src : Nat) : HomeWrite :=
  { pa := pa, data := bs, mask := 2 ^ bs.length - 1, op := none, asid := asid, src := src, since := 0 }

/-! ## Events (R373) -/

/-- R373: writes the waiting events, oldest first, at most the given number, unless the event queue is full: EQTAIL - EQHEAD =
2^LSIZE; a write that gets an error response is logged (R384). -/
def State.drainEvents (s : State) : Nat → State
  | 0 => s
  | fuel + 1 =>
    let r := s.host.regs
    let ls := bitsOf r.eqctl.toNat 0 5
    match s.host.events with
    | [] => s
    | e :: rest =>
      if r.eqctl.getLsbD 63 && 4 ≤ ls && ls ≤ 16 && (r.eqtail - r.eqhead).toNat ≠ 2 ^ ls then
        let pa := r.eqbase.toNat + 64 * (r.eqtail.toNat % 2 ^ ls)
        let t := s.homePut (plainWrite pa e none (srcCode 1 0 0xFF))
        State.drainEvents
          { t with host := { t.host with events := rest, regs := { t.host.regs with eqtail := r.eqtail + 1 } } } fuel
      else s

/-- R373: an event record. -/
def eventRecord (s : State) (kind queue lid tix code : Nat) (tloc tcause info tag : Dword) : List Byte :=
  leBytes 2 kind ++ leBytes 2 queue ++ leBytes 4 lid ++ leBytes 4 tix ++ leBytes 4 code ++ leBytes 8 tloc.toNat
    ++ leBytes 8 tcause.toNat ++ leBytes 8 info.toNat ++ leBytes 8 tag.toNat ++ leBytes 8 s.cyc ++ List.replicate 8 0

/-- R373: posts an event: to the event queue, or to the events that wait, or lost beyond 4,096. -/
def State.post (s : State) (e : List Byte) : State :=
  let s := s.drainEvents s.host.events.length
  if s.host.events.length < 4096 then
    State.drainEvents { s with host := { s.host with events := s.host.events ++ [e] } } 1
  else { s with host := { s.host with regs := { s.host.regs with evlost := s.host.regs.evlost + 1 } } }

/-- The queue and TAG of a launch, for its events (R373). -/
def State.launchTag (s : State) (lid : Nat) : Nat × Dword :=
  match s.host.launches.find? (fun l => l.lid == lid) with
  | some l => (l.queue, l.tag)
  | none => (0, 0)

/-! ## Chains (R105, R106, R109, R110) -/

/-- Whether a line belongs to this package's HBM. -/
def hbmLine (line : Nat) : Bool := bitsOf (64 * line) 50 2 == 0

/-- R105, R404: an owned line is written back whole, into the LLC, which needs nothing of the stack but room; without room it waits in the
controller's queue. What a soft error has destroyed in it stays lost (R402). -/
def State.writeBackOwned (s : State) (line : Nat) (m : Member) : State :=
  let t : State := { s with plat := { s.plat with poison := unpoison s.plat.poison (64 * line) 64 } }
  if hbmLine line && s.fillBlocked (64 * line) then
    t.homePut { pa := 64 * line, data := Memory.getBytes s.mem (64 * line) 64, mask := 2 ^ 64 - 1, op := none, asid := some m.asid
                src := srcCode 0 m.asid m.ring, since := 0 }
  else t.llcAdd (64 * line) 64 true

/-- R105, R110: what leaves with a member that gives up its copy: an owned line's bytes, or a partial for the home to merge. -/
def State.dropMember (s : State) (line : Nat) (m : Member) : State :=
  match m.st, m.tag with
  | .collect, some (op, n) =>
    s.homePut { pa := 64 * line, data := m.part, mask := 2 ^ 64 - 1, op := some (op, n), asid := some m.asid, src := srcCode 0 m.asid m.ring,
                since := 0 }
  | .owned, _ => s.writeBackOwned line m
  | _, _ => s

/-- R105: takes the members that p selects out of a chain; their rings' L1 copies go with them, orphaned ones apart. -/
def State.dropFrom (s : State) (line : Nat) (p : Member → Bool) : State :=
  let gone := (chainOf s.coh.dir line).filter p
  if gone.isEmpty then s
  else
    let s := gone.foldl (fun s m => s.dropMember line m) s
    { s with coh := { s.coh with
        dir := setChain s.coh.dir line ((chainOf s.coh.dir line).filter (fun m => !p m))
        l1 := s.coh.l1.filter (fun l => l.orphan || !gone.any (fun m => l.ring == m.ring && l.asid == m.asid && l.va == m.va)) } }

/-- R110: the home recalls every C copy of a line and merges it. -/
def State.recall (s : State) (line : Nat) : State := s.dropFrom line (fun m => m.st == .collect)

/-- R105: a member that holds the line in M writes it back and becomes S. -/
def State.cleanLine (s : State) (line : Nat) : State :=
  let chain := chainOf s.coh.dir line
  match chain.find? (fun m => m.st == .owned) with
  | some m =>
    let s := s.writeBackOwned line m
    { s with coh := { s.coh with dir := setChain s.coh.dir line (chain.map (fun m => if m.st == .owned then { m with st := .shared } else m)) } }
  | none => s

/-- R107: a dirty SIV line's way to its home: its dirty bytes, charged to its address space. -/
def SivLine.write (x : SivLine) : HomeWrite :=
  { pa := 64 * x.line, data := x.data, mask := x.dirty.toNat, op := none, asid := some x.asid, src := srcCode 0 x.asid x.ring,
    since := 0 }

/-- R107: the SIV lines that p selects go home; keep says whether they stay as clean copies. -/
def State.sivPut (s : State) (keep : Bool) (p : SivLine → Bool) : State :=
  let t := (s.coh.siv.filter (fun x => p x && x.dirty != 0)).foldl (fun s x => s.homePut x.write) s
  let siv := if keep then t.coh.siv.map (fun x => if p x then { x with dirty := 0 } else x) else t.coh.siv.filter (fun x => !p x)
  { t with coh := { t.coh with siv := siv } }

/-- Whether a line belongs to host memory. -/
def hostLine (line : Nat) : Bool := bitsOf (64 * line) 50 2 == 2

/-- Whether a ring cache of a compute die holds a line. -/
def State.dieHolds (s : State) (line die : Nat) : Bool :=
  (chainOf s.coh.dir line).any (fun m => dieOf m.ring == die) || s.coh.siv.any (fun x => x.line == line && dieOf x.ring == die)

/-- R378: the snoop filter: the host lines that ring caches hold, and the dies that hold them. -/
def State.snoopFilter (s : State) : List (Nat × List Nat) :=
  (s.coh.snoop.map (fun e => (e.1, e.2.filter (fun d => s.dieHolds e.1 d)))).filter (fun e => !e.2.isEmpty)

/-- R378: how many lines the snoop filter names. -/
def snoopSize : Nat := 1048576

/-- R378: a host line is recalled from the rings: M lines and dirty bytes are written back, and all copies are invalidated. -/
def State.recallHost (s : State) (line : Nat) : State := (s.dropFrom line (fun _ => true)).sivPut false (fun x => x.line == line)

/-- R378: room in the filter for a line: a full filter gives up an entry, whose line is recalled; which one is free (log entry 8). -/
def State.snoopRoom (s : State) (line : Nat) : State :=
  let f := s.snoopFilter
  if f.any (fun e => e.1 == line) || f.length < snoopSize then { s with coh := { s.coh with snoop := f } }
  else match f[Config.snoopVictim s.tick % snoopSize]? with
    | some e =>
      let t := s.recallHost e.1
      { t with coh := { t.coh with snoop := f.filter (fun x => x.1 != e.1) } }
    | none => s

/-- R378: notes that a die holds a host line. -/
def snoopAdd (f : List (Nat × List Nat)) (line die : Nat) : List (Nat × List Nat) :=
  match f with
  | [] => [(line, [die])]
  | (l, ds) :: r => if l = line then (l, addNew die ds) :: r else (l, ds) :: snoopAdd r line die

/-- R378: the filter learns of a host line that a ring caches; the link agent is no ring. -/
def State.noteHost (s : State) (line ring : Nat) : State :=
  if hostLine line && decide (ring < Config.rings) then
    let t := s.snoopRoom line
    { t with coh := { t.coh with snoop := snoopAdd t.coh.snoop line (dieOf ring) } }
  else s

/-- R117, R118: when the ring holds the line under another virtual line, that alias is evicted, and the ring's L1 copies of it
stay as orphaned lines. -/
def State.evictAlias (s : State) (r : LineReq) (line : Nat) : State :=
  match (chainOf s.coh.dir line).find? (fun m => m.ring == r.ring) with
  | none => s
  | some m =>
    if m.va = r.va && m.asid = r.asid then s
    else
      let orphaned (l : L1Line) : L1Line :=
        if l.ring = m.ring && l.asid = m.asid && l.va = m.va then { l with orphan := true } else l
      State.dropFrom { s with coh := { s.coh with l1 := s.coh.l1.map orphaned } } line (fun n => n.ring == r.ring)

/-- R93: how many lines a ring cache of 16 MiB holds. -/
def ringLines : Nat := 262144

/-- The lines that a ring's cache holds. -/
def State.ringHolds (s : State) (ring : Nat) : List Nat :=
  (s.coh.dir.filter (fun d => d.chain.any (fun m => m.ring == ring))).map (fun d => d.line)
    ++ (s.coh.siv.filter (fun x => x.ring == ring)).map (fun x => x.line)

/-- R106, R107: a line leaves a ring's cache: an S or M copy leaves its chain with the ring's L1 copies, a C partial is merged, dirty
SIV bytes are written back. -/
def State.evictLine (s : State) (ring line : Nat) : State :=
  (s.dropFrom line (fun m => m.ring == ring)).sivPut false (fun l => l.ring == ring && l.line == line)

/-- R93: room in a ring's cache for one more line: a full cache gives up one, and which is free (log entry 8). -/
def State.ringRoom (s : State) (ring : Nat) : State :=
  let held := s.ringHolds ring
  if ring < Config.rings && ringLines ≤ held.length then
    match held[Config.cacheVictim s.tick % held.length]? with
    | some line => s.evictLine ring line
    | none => s
  else s

/-- The request's ring as a member. -/
def LineReq.member (r : LineReq) (st : LineSt) : Member :=
  { ring := r.ring, asid := r.asid, va := r.va, page := r.page, st := st, tag := none, part := [] }

/-- R105: a ring's read of a TRK line: C copies are recalled, a member in M becomes S, and the ring joins the chain. -/
def State.trkJoin (s : State) (r : LineReq) (line : Nat) : State :=
  let s := ((s.recall line).evictAlias r line).cleanLine line
  if (chainOf s.coh.dir line).any (fun m => m.ring == r.ring) then
    let chain := (chainOf s.coh.dir line).map (fun m => if m.ring = r.ring then { m with page := r.page } else m)
    { s with coh := { s.coh with dir := setChain s.coh.dir line chain } }
  else
    let s := s.ringRoom r.ring
    State.noteHost { s with coh := { s.coh with dir := setChain s.coh.dir line (r.member .shared :: chainOf s.coh.dir line) } } line r.ring

/-- R105: a ring takes a TRK line in M: every other member is purged. -/
def State.trkOwn (s : State) (r : LineReq) (line : Nat) : State :=
  let s := ((s.recall line).evictAlias r line).dropFrom line (fun m => m.ring != r.ring)
  let s := if (chainOf s.coh.dir line).isEmpty then s.ringRoom r.ring else s
  State.noteHost { s with coh := { s.coh with dir := setChain s.coh.dir line [r.member .owned] } } line r.ring

/-- R109: a ring takes a TRK line of this package's HBM into state C under a tag: S and M copies are purged, and a C
copy of its own under another tag or alias is merged first. -/
def State.trkCollect (s : State) (r : LineReq) (line : Nat) (op : RmwOp) (n : Nat) : State :=
  let s := (s.evictAlias r line).dropFrom line (fun m => m.st != .collect || (m.ring == r.ring && m.tag != some (op, n)))
  if (chainOf s.coh.dir line).any (fun m => m.ring == r.ring) then s
  else
    let s := s.ringRoom r.ring
    let me : Member :=
      { r.member .collect with tag := some (op, n), part := ((List.replicate (64 / n) (leBytes n (rmwIdentity op n))).flatten) }
    { s with coh := { s.coh with dir := setChain s.coh.dir line (me :: chainOf s.coh.dir line) } }

/-- R109: combines an update into the ring's partial of a line. -/
def State.collectUpdate (s : State) (ring line off n : Nat) (op : RmwOp) (v : Nat) : State :=
  let chain := (chainOf s.coh.dir line).map (fun m =>
    if m.ring = ring then
      { m with part := putBytes m.part off (leBytes n (rmwInt op n (field m.part off n) v)) }
    else m)
  { s with coh := { s.coh with dir := setChain s.coh.dir line chain } }

/-- Invalidates every ring's copy of the TRK line, C copies merged (R105, R110). -/
def State.purgeLine (s : State) (line : Nat) : State := s.dropFrom line (fun _ => true)

/-! ## Home accesses -/

/-- R402: a read that finds a bad symbol corrects it and counts it; whether it finds one is free (log entry 38). -/
def State.corrected (s : State) (a : Nat) : State :=
  if bitsOf a 50 2 ≠ 0 then s
  else
    let n : Dword := if !s.llcHolds (a / 64) && Config.badSymbol s.tick then 1 else 0
    { s with plat := { s.plat with mgmt := { s.plat.mgmt with cecnt := s.plat.mgmt.cecnt + n } } }

/-- R105, R106, R110: what the home of the two lines of an access does before it: owned lines are written back, and collect copies
are recalled and merged. -/
def State.settleHome (s : State) (l h : Nat) : State := (((s.cleanLine l).cleanLine h).recall l).recall h

/-- R108: bytes at an address as the package holds them: free in a page that is mapped with two COH values (log entry 25). -/
def State.held (s : State) (a : Nat) (bs : List Byte) : List Byte :=
  if s.coh.clash.contains (a / 2 ^ 16) then bs.mapIdx (fun i _ => Config.clashByte s.tick (a + i)) else bs

/-- Reads n bytes of this package's or the host's memory at their home, its lines settled first. A merge that has to wait in the
controller's queue makes the read wait behind it. -/
def State.homeReadAt (s : State) (a n : Nat) : Except Stop (List Byte × State) :=
  if purging s.coh.dir (a / 64) then .error .wait
  else
    let s := s.settleHome (a / 64) ((a + n - 1) / 64)
    match s.deviceStop a with
    | some e => .error e
    | none =>
      if s.poisoned a n then .error (.memerr a) else .ok (s.held a (Memory.getBytes s.mem a n), (s.corrected a).llcAdd a n false)

/-- Reads n bytes at their home: local HBM, host or peer memory. -/
def State.homeRead (s : State) (pa n : Nat) : Except Stop (List Byte × State) :=
  match s.place pa with
  | .error c => .error (.noMemory pa c)
  | .peer pkg a => .ok ((List.range n).map (fun i => Config.peerByte s.tick (pkg * 2 ^ 40 + a + i)), s)
  | .host a => s.homeReadAt a n
  | .hbm a => s.homeReadAt a n

/-- Writes bytes of this package's or the host's memory at their home (R104-R106, R110). -/
def State.homeWriteAt (s : State) (a : Nat) (bs : List Byte) : Except Stop State :=
  if purging s.coh.dir (a / 64) then .error .wait
  else
    let s := s.settleHome (a / 64) ((a + bs.length - 1) / 64)
    match s.deviceStop a with
    | some e => .error e
    | none =>
      if s.partialPoison a bs.length then .error (.memerr a)
      else
        .ok (State.llcAdd { s with
          mem := Memory.setBytes s.mem a bs
          plat := { s.plat with poison := unpoison s.plat.poison a bs.length, soft := unpoison s.plat.soft a bs.length } } a bs.length true)

/-- Writes bytes at their home. Peer writes leave the package (log entry 14). -/
def State.homeWrite (s : State) (pa : Nat) (bs : List Byte) : Except Stop State :=
  match s.place pa with
  | .error c => .error (.noMemory pa c)
  | .peer _ _ => .ok s
  | .host a => s.homeWriteAt a bs
  | .hbm a => s.homeWriteAt a bs

/-! ## SIV lines (R107) -/

/-- The ring's SIV copy of a virtual line. -/
def sivFind (l : List SivLine) (ring : Nat) (asid : BitVec 12) (va : Nat) : Option SivLine :=
  l.find? (fun x => x.ring == ring && x.asid == asid && x.va == va)

/-- A line's bytes with the dirty bytes of a ring's copy laid over them. -/
def SivLine.over (data : List Byte) (x : SivLine) : List Byte :=
  data.mapIdx (fun i b => if x.dirty.getLsbD i then x.data.getD i 0 else b)

/-- R107, R126: fills the ring's SIV line, when it does not hold it; bytes that the ring has stored through another alias are
the thread's own latest and come with it, and its copies under other aliases take the bytes of the fill, so that none reads back in
the coherence order (log entry 66). -/
def State.sivFill (s : State) (r : LineReq) (line : Nat) : State :=
  match sivFind s.coh.siv r.ring r.asid r.va with
  | some _ =>
    let fresh (x : SivLine) : SivLine := if x.ring = r.ring && x.asid = r.asid && x.va = r.va then { x with page := r.page } else x
    { s with coh := { s.coh with siv := s.coh.siv.map fresh } }
  | none =>
    let data := (s.coh.siv.filter (fun x => x.ring == r.ring && x.line == line)).foldl SivLine.over (Memory.getBytes s.mem (64 * line) 64)
    let x : SivLine := { ring := r.ring, asid := r.asid, va := r.va, page := r.page, line := line, data := data, dirty := 0 }
    let s := s.ringRoom r.ring
    let same (y : SivLine) : SivLine := if y.ring = r.ring && y.line = line then { y with data := data } else y
    State.noteHost { s with coh := { s.coh with siv := x :: s.coh.siv.map same } } line r.ring

/-- R107, R126: the ring's stores into its SIV line; its copies under other aliases take the bytes, which are dirty in one copy
alone (log entry 66). -/
def State.sivStore (s : State) (r : LineReq) (line off : Nat) (bs : List Byte) : State :=
  let mask : BitVec 64 := BitVec.ofNat 64 ((2 ^ bs.length - 1) * 2 ^ off)
  let put (x : SivLine) : SivLine :=
    if x.ring = r.ring && x.line = line then
      { x with
        data := putBytes x.data off bs
        dirty := if x.asid = r.asid && x.va = r.va then x.dirty ||| mask else x.dirty &&& ~~~mask }
    else x
  { s with coh := { s.coh with siv := s.coh.siv.map put } }

/-- R404: a write-back or merge of a ring still waits in a controller's queue. -/
def State.ringWaits (s : State) (ring : Nat) : Bool :=
  s.plat.queued.any (fun w => w.ofRing && w.src % 256 == ring)

/-- R107, R404: the dirty SIV lines of a ring that p selects, by ASID and virtual line. -/
def State.dirtyLines (s : State) (ring : Nat) (p : SivLine → Bool) : List (BitVec 12 × Nat) :=
  (s.coh.siv.filter (fun x => x.ring == ring && p x && x.dirty != 0)).map (fun x => (x.asid, x.va))

/-- R107, R404: these lines of a ring go home, and stay as clean copies. -/
def State.flushLines (s : State) (ring : Nat) (lines : List (BitVec 12 × Nat)) : State :=
  s.sivPut true (fun x => x.ring == ring && lines.contains (x.asid, x.va))

/-- R107, R404: the SIV lines of a ring that p selects go home, for an agent that waits for them, and waits too while an earlier
write-back of the ring waits. Write-backs that have to wait take their places in the controllers' queues (Ask.flush). One that meets
an uncorrectable error is discarded and charged (R403, R405). -/
def State.sivFlush (s : State) (ring : Nat) (p : SivLine → Bool) : Except Stop State :=
  let t := s.sivPut true (fun x => x.ring == ring && p x)
  if t.ringWaits ring then .error (.queue (.flush ring (s.dirtyLines ring p))) else .ok t

/-- R107: a release at scope DIE or wider writes back the ring's dirty SIV bytes. -/
def State.sivRelease (s : State) (ring scope : Nat) : Except Stop State :=
  if scope = 0 then .ok s else s.sivFlush ring (fun _ => true)

/-- R118: an acquire of any scope ends the ring's orphaned lines. -/
def State.dropOrphans (s : State) (ring : Nat) : State :=
  { s with coh := { s.coh with l1 := s.coh.l1.filter (fun l => !(l.orphan && l.ring == ring)) } }

/-- R107, R118: an acquire: at scope DIE or wider the ring's SIV lines are written back and invalidated; at any scope
every orphaned line of the ring goes. -/
def State.sivAcquire (s : State) (ring scope : Nat) : Except Stop State :=
  let s := s.dropOrphans ring
  if scope = 0 then .ok s
  else match s.sivFlush ring (fun _ => true) with
    | .error e => .error e
    | .ok t => .ok { t with coh := { t.coh with siv := t.coh.siv.filter (fun x => x.ring != ring) } }

/-! ## Translation -/

/-- What an access needs of a page (R98). -/
inductive Need where
  | load | store | rmw | scatter | fetch
  deriving DecidableEq, Repr

/-- Whether the access writes (R89). -/
def Need.writes : Need → Bool
  | .store => true
  | .rmw => true
  | .scatter => true
  | _ => false

/-- R89: the memory-fault format. -/
def faultInfo (rep mal : Bool) (need : Need) (lvl va : Nat) : Dword :=
  BitVec.ofNat 64 (rep.toNat * 2 ^ 63 + mal.toNat * 2 ^ 62 + (need == .fetch).toNat * 2 ^ 61 + need.writes.toNat * 2 ^ 60
    + lvl * 2 ^ 57 + va % 2 ^ 57)

/-- R89: the PFAULT cause. -/
def causePfault : Byte := 0x06
/-- R89: the PROT cause. -/
def causeProt : Byte := 0x07

/-- R98: fields of an entry: V. -/
def pteV (e : Dword) : Bool := e.getLsbD 0
/-- R98: whether R, W or X is set. -/
def pteRights (e : Dword) : Bool := e.getLsbD 1 || e.getLsbD 2 || e.getLsbD 3
/-- R98: PPN, as a physical address. -/
def pteBase (e : Dword) : Nat := bitsOf e.toNat 16 36 * 2 ^ 16
/-- R98: REP. -/
def pteRep (e : Dword) : Bool := e.getLsbD 10
/-- R98: COH, NC for every code that is no other (a malformed entry never reaches here). -/
def pteCoh (e : Dword) : Coh :=
  match bitsOf e.toNat 8 2 with
  | 0 => .trk
  | 1 => .siv
  | _ => .nc

/-- R98: the low address bit of the page that a leaf at this level maps. -/
def pageBits (level : Nat) : Nat := if level = 2 then 29 else 16

/-- R98: whether an entry with V = 1 is malformed at its level. -/
def pteBad (s : State) (level : Nat) (e : Dword) : Bool :=
  let v := e.toNat
  let z := bitsOf v 52 12 != 0 || bitsOf v 11 1 != 0
  let mid := bitsOf v 12 4 != 0
  if pteRights e then
    let peer := bitsOf (pteBase e) 50 2 == 3
    z || (mid && !pteRep e) || bitsOf v 8 2 == 3 || level < 2
      || (level == 2 && (bitsOf v 16 13 != 0 || pteRep e))
      || (peer && !pteRep e && pteCoh e != .nc)
      || (!pteRep e && (match s.place (pteBase e) with
          | .hbm a => inReserved a || (level == 2 && a < Config.rsvBase + Config.rsvSize && Config.rsvBase < a + 2 ^ 29)
          | _ => false))
  else z || mid || level == 3 || bitsOf v 4 7 != 0

/-- R97: the index of a VA at a level. -/
def vaIndex (level va : Nat) : Nat :=
  match level with
  | 0 => bitsOf va 55 2
  | 1 => bitsOf va 42 13
  | 2 => bitsOf va 29 13
  | _ => bitsOf va 16 13

/-- R102: an error response to the walker's read counts as a malformed entry, and is logged (R384); other stops stand. -/
def walkStop (rep : Bool) (need : Need) (level va : Nat) (e : Stop) : Stop :=
  match e with
  | .noMemory pa c => .logged causePfault (faultInfo rep true need level va) pa c
  | e => e

/-- R98, R111: whether an entry of a replica record is one: valid, no other bit set, and naming a page that a leaf of this
attribute may map. -/
def replicaBad (s : State) (coh : Coh) (r : Nat) : Bool :=
  let base := bitsOf r 16 36 * 2 ^ 16
  bitsOf r 0 16 != 1 || bitsOf r 52 12 != 0 || (bitsOf base 50 2 == 3 && coh != .nc)
    || (match s.place base with | .hbm a => inReserved a | _ => false)

/-- R97, R98, R111: the walk from a table, at most the given number of levels more. REP of a fault is that of a well-formed
replicated leaf: a malformed entry is no replicated page, whatever its bit 10 holds (log entry 67). -/
def State.walkFrom (s : State) (die : Nat) (need : Need) (root : Dword) (va : Nat) : Nat → Nat → Nat → Except Stop (Leaf × State)
  | 0, _, _ => .error (.trap causePfault (faultInfo false true need 3 va))
  | fuel + 1, level, table =>
    let addr := table + 8 * vaIndex level va
    match s.homeRead addr 8 with
    | .error e => .error (walkStop false need level va e)
    | .ok (bs, s) =>
      let e : Dword := BitVec.ofNat 64 (leNat bs)
      if !pteV e then .error (.trap causePfault (faultInfo false false need level va))
      else if pteBad s level e then .error (.trap causePfault (faultInfo false true need level va))
      else if pteRights e then
        if pteRep e then
          match s.homeRead (bitsOf e.toNat 12 40 * 2 ^ 12 + 8 * die) 8 with
          | .error e => .error (walkStop true need level va e)
          | .ok (rb, s) =>
            let r := leNat rb
            if replicaBad s (pteCoh e) r then .error (.trap causePfault (faultInfo true true need level va))
            else .ok ({ level := level, addr := addr, entry := e, rep := some (bitsOf r 16 36), root := root }, s)
        else .ok ({ level := level, addr := addr, entry := e, rep := none, root := root }, s)
      else State.walkFrom s die need root va fuel (level + 1) (pteBase e)

/-- R97: the walk of a VA from a ROOT. -/
def State.walk (s : State) (die : Nat) (need : Need) (root : Dword) (va : Nat) : Except Stop (Leaf × State) :=
  s.walkFrom die need root va 4 0 (bitsOf root.toNat 16 36 * 2 ^ 16)

/-- R98, R111, R112: whether a leaf refuses the access, and with which fault. -/
def leafProt (f : Leaf) (smode : Bool) (need : Need) (va : Nat) : Option Stop :=
  let e := f.entry
  let right := match need with
    | .load => e.getLsbD 1
    | .store => e.getLsbD 2
    | .rmw => e.getLsbD 1 && e.getLsbD 2
    | .scatter => e.getLsbD 2
    | .fetch => e.getLsbD 3
  if pteRep e && need.writes then some (.trap causeProt (faultInfo true false need f.level va))
  else if right && (smode || e.getLsbD 4) then none
  else some (.trap causeProt (faultInfo (pteRep e) false need f.level va))

/-- R99: A of a leaf. -/
def Leaf.accessed (f : Leaf) : Bool := f.entry.getLsbD 6
/-- R99: D of a leaf. -/
def Leaf.dirty (f : Leaf) : Bool := f.entry.getLsbD 7
/-- R98: G of a leaf: its translations serve every ASID. -/
def Leaf.global (f : Leaf) : Bool := f.entry.getLsbD 5
/-- R97: the number of the page that a leaf maps a VA in. -/
def Leaf.vpn (f : Leaf) (va : Nat) : Nat := va / 2 ^ pageBits f.level

/-- R99: whether the leaf already carries what an access sets. -/
def Leaf.marked (f : Leaf) (need : Need) : Bool := f.accessed && (f.dirty || !need.writes)

/-- What a leaf gives a VA (R97, R111). -/
def Leaf.mapped (f : Leaf) (va : Nat) : Mapped :=
  let base := match f.rep with
    | some p => p * 2 ^ 16
    | none => pteBase f.entry
  { pa := base + va % 2 ^ pageBits f.level, coh := pteCoh f.entry, page := f }

/-- The walk of a VA on a die as memory holds the entries now, with no effect and no wait; none where it faults. -/
def State.peekFrom (s : State) (die : Nat) (root : Dword) (va : Nat) : Nat → Nat → Nat → Option Leaf
  | 0, _, _ => none
  | fuel + 1, level, table =>
    match s.key (table + 8 * vaIndex level va) with
    | none => none
    | some a =>
      let e : Dword := BitVec.ofNat 64 (leNat (Memory.getBytes s.mem a 8))
      let leaf (rep : Option Nat) : Leaf := { level := level, addr := table + 8 * vaIndex level va, entry := e, rep := rep, root := root }
      if !pteV e || pteBad s level e then none
      else if pteRights e then
        if pteRep e then
          match s.key (bitsOf e.toNat 12 40 * 2 ^ 12 + 8 * die) with
          | none => none
          | some b =>
            let r := leNat (Memory.getBytes s.mem b 8)
            if replicaBad s (pteCoh e) r then none else some (leaf (some (bitsOf r 16 36)))
        else some (leaf none)
      else State.peekFrom s die root va fuel (level + 1) (pteBase e)

/-- n bytes of one page of an address space as memory holds them now, with no effect and no wait; none where no memory answers. -/
def State.peek (s : State) (root : Dword) (va n : Nat) : Option (List Byte) :=
  (s.peekFrom 0 root va 4 0 (bitsOf root.toNat 16 36 * 2 ^ 16)).bind (fun f =>
    (s.key (f.mapped va).pa).map (fun a => Memory.getBytes s.mem a n))

/-- R100: whether a cached translation serves an address space and a VA. -/
def TlbEntry.serves (t : TlbEntry) (die : Nat) (asid : BitVec 12) (va : Nat) : Bool :=
  t.die == die && (t.asid == asid || t.leaf.global) && t.vpn == t.leaf.vpn va

/-- R100: a translation's home structure: its gather bank, or the large-page array. -/
def tlbHome (level va : Nat) : TlbPlace := if level = 2 then .large else .gather (bitsOf va 16 4)

/-- R100: how many translations a structure holds. -/
def tlbSize : TlbPlace → Nat
  | .unit _ => 1
  | .gather _ => 512
  | .large => 64
  | .second => 8192

/-- Installs a translation in one structure; a full structure gives up an entry of its choice (log entry 8). -/
def tlbInstall (tick : Nat) (l : List TlbEntry) (t : TlbEntry) : List TlbEntry :=
  let l := l.filter (fun u =>
    !(u.die == t.die && u.place == t.place && u.asid == t.asid && u.leaf.level == t.leaf.level && u.vpn == t.vpn))
  let same := l.filter (fun u => u.die == t.die && u.place == t.place)
  if same.length < tlbSize t.place then t :: l
  else match same[Config.tlbVictim tick % tlbSize t.place]? with
    | some v => t :: l.filter (fun u => u != v)
    | none => t :: l

/-- R100: how an access looks for its translation. -/
inductive Stream where
  /-- Unit-stride and copy-engine streams use the ring's unit-stride register. -/
  | unit
  /-- Everything else. -/
  | gather
  deriving DecidableEq, Repr

/-- R100: records a translation where a stream's lookups find it. -/
def State.tlbAdd (s : State) (ring : Nat) (asid : BitVec 12) (stream : Stream) (va : Nat) (f : Leaf) : State :=
  let t (p : TlbPlace) : TlbEntry := { die := dieOf ring, place := p, asid := asid, vpn := f.vpn va, leaf := f }
  let l := tlbInstall s.tick (tlbInstall s.tick s.coh.tlb (t (tlbHome f.level va))) (t .second)
  let l := match stream with
    | .unit => tlbInstall s.tick (l.filter (fun u => !(u.die == dieOf ring && u.place == .unit ring))) (t (.unit ring))
    | .gather => l
  { s with coh := { s.coh with tlb := l } }

/-- R100: the search order of a request: the ring's unit-stride register, the gather bank or large-page array, the
second level. -/
def tlbFind (l : List TlbEntry) (ring : Nat) (asid : BitVec 12) (va : Nat) : Option TlbEntry :=
  let ok (p : TlbEntry → Bool) := l.find? (fun t => p t && t.serves (dieOf ring) asid va)
  match ok (fun t => t.place == .unit ring) with
  | some t => some t
  | none =>
    match ok (fun t => match t.place with | .gather _ => true | .large => true | _ => false) with
    | some t => some t
    | none => ok (fun t => t.place == .second)

/-- R99: the walker sets A, and D at a write, by an atomic read-modify-write at the entry's home; an entry that is no longer
valid is left alone. -/
def State.setAD (s : State) (need : Need) (addr : Nat) : Except Stop (Dword × State) :=
  match s.homeRead addr 8 with
  | .error e => .error e
  | .ok (bs, s) =>
    let e := leNat bs
    let e' := e ||| (if need.writes then 0xC0 else 0x40)
    if e' = e || e % 2 = 0 then .ok (BitVec.ofNat 64 e, s)
    else match s.homeWrite addr (leBytes 8 e') with
      | .error e => .error e
      | .ok s => .ok (BitVec.ofNat 64 e', s)

/-- R101: whether a miss has a walker: it is one of the first 64 of its die, in order of arrival, or none waits before it. -/
def walkerFree (walks : List Walk) (die : Nat) (mine : Walk → Bool) : Bool :=
  let q := walks.filter (fun w => w.die == die)
  match q.findIdx? mine with
  | some i => decide (i < 64)
  | none => decide (q.length < 64)

/-- R359: whether a leaf maps a page that a migration holds. -/
def State.heldPage (s : State) (f : Leaf) : Bool :=
  s.host.moves.any (fun m => m.leaf.level == f.level && pteBase m.leaf.entry == pteBase f.entry)

/-- R8: the address space has broken an obligation that nothing checks. -/
def State.breach (s : State) (asid : BitVec 12) : State := { s with coh := { s.coh with breach := addNew asid s.coh.breach } }

/-- R98-R101, R359: translates a VA for a ring: what the leaf gives, and the state with A and D set and the translation cached. For a
speculative chunk (spec) A and D stay for its commit (R9, log entry 65). A miss that finds no walker waits in order of arrival. -/
def State.translate (s : State) (ring : Nat) (asid : BitVec 12) (root : Dword) (smode spec : Bool) (stream : Stream)
    (need : Need) (va : Nat) : Except Stop (Mapped × State) :=
  let hit := match tlbFind s.coh.tlb ring asid va with
    | some t => if spec || t.leaf.marked need || (leafProt t.leaf smode need va).isSome then some t else none
    | none => none
  match hit with
  | some t =>
    match leafProt t.leaf smode need va with
    | some e => .error e
    | none =>
      if s.heldPage t.leaf then .error .wait
      else .ok (t.leaf.mapped va, s.tlbAdd ring asid stream va t.leaf)
  | none =>
    let mine (w : Walk) : Bool := w.die == dieOf ring && w.asid == asid && w.va / 2 ^ 16 == va / 2 ^ 16
    if !walkerFree s.coh.walks (dieOf ring) mine then
      .error (.queue (.walk { die := dieOf ring, asid := asid, root := root, va := va }))
    else
      let s := { s with coh := { s.coh with walks := s.coh.walks.filter (fun w => !mine w) } }
      match s.walk (dieOf ring) need root va with
      | .error e => .error e
      | .ok (f, s) =>
        match leafProt f smode need va with
        | some e => .error e
        | none =>
          if s.heldPage f then .error .wait
          else if spec then .ok (f.mapped va, s.tlbAdd ring asid stream va f)
          else match s.setAD need f.addr with
            | .error e => .error e
            | .ok (e, s) => .ok ({ f with entry := e }.mapped va, s.tlbAdd ring asid stream va { f with entry := e })

/-! ## A ring's accesses by attribute -/

/-- The ring whose access this is: the ring, its address space, and the core whose L1 it passes; an engine passes none. -/
structure Who where
  ring  : Nat
  asid  : BitVec 12
  core  : Option Nat
  deriving DecidableEq, Repr

/-- The request of an access for its line. -/
def Who.req (w : Who) (va : Nat) (page : Leaf) (own : Bool) : LineReq := { ring := w.ring, asid := w.asid, va := va / 64, page := page, own := own }

/-- R93: the TRK line that the ring's cache holds under a virtual address, with its physical line number. -/
def State.heldLine (s : State) (w : Who) (va : Nat) : Option (Nat × Member) :=
  s.coh.dir.findSome? (fun d =>
    (d.chain.find? (fun m => m.ring == w.ring && m.asid == w.asid && m.va == va / 64)).map (fun m => (d.line, m)))

/-- R99, R100: an access that its ring's cache serves with no translation: a TRK or SIV line held in a state that allows it,
whose page grants the right and, outside speculation, already carries A and, for a write, D. -/
def State.lineHit (s : State) (w : Who) (smode spec : Bool) (need : Need) (va : Nat) : Option Mapped :=
  let ok (f : Leaf) : Bool := (leafProt f smode need va).isNone && (spec || f.marked need)
  match s.heldLine w va with
  | some (line, m) =>
    let fits := match need with
      | .load => m.st != .collect
      | .store => m.st == .owned
      | .rmw => m.st == .owned
      | .scatter => m.st == .collect
      | .fetch => false
    if fits && ok m.page then some { pa := 64 * line + va % 64, coh := .trk, page := m.page } else none
  | none =>
    match sivFind s.coh.siv w.ring w.asid (va / 64) with
    | some x =>
      if (need == .load || need == .store) && ok x.page then some { pa := 64 * x.line + va % 64, coh := .siv, page := x.page } else none
    | none => none

/-- The bytes of a line that the ring's cache holds. -/
def State.lineBytes (s : State) (pa n : Nat) : List Byte :=
  let a := s.homeAddr pa
  s.held a (Memory.getBytes s.mem a n)

/-- R402: an access to n bytes that the ring's cache holds meets a soft error there. -/
def State.lineLost (s : State) (pa n : Nat) : Bool := s.lost (s.homeAddr pa) n

/-- R402: whether a store into a line that the ring's cache holds leaves part of a destroyed codeword as it is. -/
def State.linePartial (s : State) (pa n : Nat) : Bool :=
  let a := s.homeAddr pa
  s.plat.soft.any (fun c => a < 32 * c + 32 && 32 * c < a + n && !(decide (a ≤ 32 * c) && decide (32 * c + 32 ≤ a + n)))

/-- A store of bytes into a line that the ring's cache owns. -/
def State.lineStore (s : State) (pa : Nat) (bs : List Byte) : State :=
  let a := s.homeAddr pa
  { s with
    mem := Memory.setBytes s.mem a bs
    plat := { s.plat with soft := unpoison s.plat.soft a bs.length } }

/-- R105: the ring's cache holds the TRK line of an access in M afterwards: it owns it already, or the home grants it, a line
that the cache does not hold being filled first. -/
def State.trkTake (s : State) (w : Who) (va : Nat) (m : Mapped) : Except Stop State :=
  let line := m.pa / 64
  let own (s : State) : State := s.trkOwn (w.req va m.page true) line
  match (chainOf s.coh.dir line).find? (fun x => x.ring == w.ring && x.asid == w.asid && x.va == va / 64 && x.st != .collect) with
  | some x =>
    if x.st == .owned then .ok (s.trkOwn (w.req va m.page true) line)
    else if purging s.coh.dir line then .error (.queue (.line (w.req va m.page true) line))
    else .ok (own s)
  | none =>
    if purging s.coh.dir line then .error (.queue (.line (w.req va m.page true) line))
    else match s.homeRead (64 * line) 64 with
    | .error e => .error e
    | .ok (_, s) => .ok (own s)

/-- R118: a core's store updates that core's L1 line of the alias, orphaned or not; the other cores' lines of the alias are
invalidated, orphaned ones apart. -/
def State.l1Store (s : State) (w : Who) (va : Nat) (bs : List Byte) : State :=
  let here (l : L1Line) : Bool := l.ring == w.ring && l.asid == w.asid && l.va == va / 64
  let put (l : L1Line) : L1Line := if here l && w.core == some l.core then { l with data := putBytes l.data (va % 64) bs } else l
  { s with coh := { s.coh with l1 := (s.coh.l1.filter (fun l => !here l || l.orphan || w.core == some l.core)).map put } }

/-- R93: how many lines a core's L1 of 256 KiB holds. -/
def l1Lines : Nat := 4096

/-- R93: room in a core's L1 for one more line: a full one gives up one, and which is free (log entry 8). -/
def l1Room (tick : Nat) (l : List L1Line) (ring core : Nat) : List L1Line :=
  let mine := l.filter (fun x => x.ring == ring && x.core == core)
  if mine.length < l1Lines then l
  else match mine[Config.cacheVictim tick % mine.length]? with
    | some x => l.filter (fun y => y != x)
    | none => l

/-- R93: a core's load fills its L1 from the ring's TRK line. -/
def State.l1Fill (s : State) (w : Who) (va : Nat) (m : Mapped) : State :=
  match w.core with
  | none => s
  | some core =>
    if s.coh.l1.any (fun l => l.ring == w.ring && l.core == core && l.asid == w.asid && l.va == va / 64) then s
    else
      let x : L1Line :=
        { ring := w.ring, core := core, asid := w.asid, va := va / 64, page := m.page
          data := s.lineBytes (64 * (m.pa / 64)) 64, orphan := false }
      { s with coh := { s.coh with l1 := x :: l1Room s.tick s.coh.l1 w.ring core } }

/-- R118: the orphaned line of this core's L1 that a load meets. -/
def orphanFind (l : List L1Line) (w : Who) (va : Nat) : Option L1Line :=
  l.find? (fun o => o.orphan && o.ring == w.ring && w.core == some o.core && o.asid == w.asid && o.va == va / 64)

/-- A ring's read within one aligned line below its L1s, by attribute (R93, R104-R108): from the ring's cache where it holds
the line, else filled from the home. -/
def State.cachedRead (s : State) (w : Who) (va : Nat) (m : Mapped) (n : Nat) : Except Stop (List Byte × State) :=
  let base := 64 * (m.pa / 64)
  match s.place m.pa with
  | .error c => .error (.noMemory m.pa c)
  | .peer _ _ => s.homeRead m.pa n
  | _ =>
    match m.coh with
    | .nc => s.homeRead m.pa n
    | .trk =>
      if (chainOf s.coh.dir (m.pa / 64)).any (fun x => x.ring == w.ring && x.asid == w.asid && x.va == va / 64 && x.st != .collect) then
        (if s.lineLost m.pa n then .error (.memerr m.pa) else .ok (s.lineBytes m.pa n, s))
      else if purging s.coh.dir (m.pa / 64) then .error (.queue (.line (w.req va m.page false) (m.pa / 64)))
      else match s.homeRead base 64 with
        | .error e => .error e
        | .ok (bs, s) => .ok ((bs.drop (m.pa % 64)).take n, s.trkJoin (w.req va m.page false) (m.pa / 64))
    | .siv =>
      match sivFind s.coh.siv w.ring w.asid (va / 64) with
      | some x => .ok (s.held (s.homeAddr m.pa) ((x.data.drop (va % 64)).take n), s)
      | none =>
        match s.homeRead base 64 with
        | .error e => .error e
        | .ok (bs, s) =>
          let t := s.sivFill (w.req va m.page false) (m.pa / 64)
          let data := match sivFind t.coh.siv w.ring w.asid (va / 64) with
            | some x => x.data
            | none => bs
          .ok (t.held (s.homeAddr m.pa) ((data.drop (va % 64)).take n), t)

/-- A ring's store within one aligned line, by attribute (R104-R108). -/
def State.cachedWrite (s : State) (w : Who) (va : Nat) (m : Mapped) (bs : List Byte) : Except Stop State :=
  match s.place m.pa with
  | .error c => .error (.noMemory m.pa c)
  | .peer _ _ => s.homeWrite m.pa bs
  | _ =>
    match m.coh with
    | .nc => s.homeWrite m.pa bs
    | .trk =>
      match s.trkTake w va m with
      | .error e => .error e
      | .ok s => if s.linePartial m.pa bs.length then .error (.memerr m.pa) else .ok ((s.lineStore m.pa bs).l1Store w va bs)
    | .siv =>
      let r := w.req va m.page true
      match sivFind s.coh.siv w.ring w.asid (va / 64) with
      | some _ => .ok ((s.sivFill r (m.pa / 64)).sivStore r (m.pa / 64) (va % 64) bs)
      | none =>
        match s.homeRead (64 * (m.pa / 64)) 64 with
        | .error e => .error e
        | .ok (_, s) => .ok ((s.sivFill r (m.pa / 64)).sivStore r (m.pa / 64) (va % 64) bs)

/-- R198: before an RMW at the home slice, the ring's dirty bytes of that line, under every alias, are written back; its copies
go with them, so that the thread's later loads see the new value (R126, log entry 28). -/
def State.sivDrainLine (s : State) (w : Who) (line : Nat) : State :=
  s.sivPut false (fun x => x.ring == w.ring && x.line == line)

/-- R125, R198: one read-modify-write of n bytes at a translated address: f gives the new value, or none to write nothing.
The old value is returned. A TRK line is held in M by the ring's cache, from which both parts are made. -/
def State.rmwAt (s : State) (w : Who) (va : Nat) (m : Mapped) (n : Nat) (f : Nat → Option Nat) : Except Stop (Nat × State) :=
  let atHome (s : State) : Except Stop (Nat × State) :=
    match s.homeRead m.pa n with
    | .error e => .error e
    | .ok (bs, s) =>
      match f (leNat bs) with
      | none => .ok (leNat bs, s)
      | some v =>
        match s.homeWrite m.pa (leBytes n v) with
        | .error e => .error e
        | .ok s => .ok (leNat bs, s)
  match s.place m.pa, m.coh with
  | .error c, _ => .error (.noMemory m.pa c)
  | .peer _ _, _ => atHome s
  | _, .trk =>
    match s.trkTake w va m with
    | .error e => .error e
    | .ok s =>
      let bs := s.lineBytes m.pa n
      if s.lineLost m.pa n then .error (.memerr m.pa)
      else match f (leNat bs) with
      | none => .ok (leNat bs, s)
      | some v => .ok (leNat bs, (s.lineStore m.pa (leBytes n v)).l1Store w va (leBytes n v))
  | _, .siv => atHome (s.sivDrainLine w (m.pa / 64))
  | _, .nc => atHome s

end Sys2Proof.Machine
end

