-- ==== Sys2Proof/Machine/Threads.lean ====
section
/-! DEFINITION. The operations on ring threads as the scheduler sees them: focusing a ring and a chunk, leaving a ring,
groups (R219, R220), endpoint bindings (R223), and the end of a thread and of a launch (R365, R372, R403).
-/

namespace Sys2Proof.Machine

/-! ## Focus -/

/-- Every chunk of the focused ring, oldest first. -/
def State.chunks (s : State) : List Chunk := s.older ++ s.cpu :: s.younger

/-- The focused ring as a context. -/
def State.ctx (s : State) : RingCtx := { ring := s.ring, thr := s.thr, chunks := s.chunks }

/-- Focuses the chunk at an index of the focused ring's chunks; the last one when the index passes them. -/
def State.focusChunk (s : State) (i : Nat) : State :=
  let cs := s.chunks
  let i := min i (cs.length - 1)
  match cs.drop i with
  | c :: rest => { s with older := cs.take i, cpu := c, younger := rest }
  | [] => s

/-- Focuses a ring and one of its chunks. A ring without a thread has the blank context. -/
def State.focus (s : State) (ring chunk : Nat) : State :=
  if ring = s.ring then s.focusChunk chunk
  else
    let others := if s.live then s.ctx :: s.others else s.others
    match others.find? (fun r => r.ring == ring) with
    | some r =>
      match r.chunks with
      | c :: rest =>
        State.focusChunk
          { s with ring := ring, live := true, thr := r.thr, cpu := c, older := [], younger := rest
                   others := others.filter (fun q => q.ring != ring) } chunk
      | [] => s
    | none =>
      { s with ring := ring, live := false, thr := Thread.blank, cpu := Chunk.blank, older := [], younger := [], others := others }

/-- The focused ring holds no thread any more. -/
def State.vacate (s : State) : State :=
  { s with live := false, thr := Thread.blank, cpu := Chunk.blank, older := [], younger := [] }

/-- Every thread the package holds: on the focused ring, on the others, and without a ring. -/
def State.threads (s : State) : List Thread :=
  (if s.live then [s.thr] else []) ++ s.others.map (fun r => r.thr) ++ s.saved.map (fun v => v.thr)

/-- Changes the thread (lid, tix) wherever it is. -/
def State.mapThread (s : State) (lid tix : Nat) (f : Thread → Thread) : State :=
  let g (t : Thread) : Thread := if t.lid = lid && t.tix = tix then f t else t
  { s with
    thr := if s.live then g s.thr else s.thr
    others := s.others.map (fun r => { r with thr := g r.thr })
    saved := s.saved.map (fun v => { v with thr := g v.thr }) }

/-! ## Groups (R219-R222) -/

/-- The group's entry, if it has members. -/
def groupFind (l : List Group) (id : Nat) : Option Group := l.find? (fun g => g.id == id)

/-- R221: a member whose limit has passed has withdrawn. -/
def Group.expire (cyc : Nat) (g : Group) : Group :=
  { g with arrived := g.arrived.filter (fun m => !g.limits.any (fun l => l.1 == m && decide (l.2 < cyc))) }

/-- R221: when every member has arrived, none of them past its limit, the instance completes: the arrived set is cleared and its
members wait for their return. -/
def Group.settle (cyc : Nat) (g : Group) : Group :=
  let h := g.expire cyc
  if !h.members.isEmpty && h.members.all (fun m => h.arrived.contains m) then
    { h with arrived := [], limits := [], release := h.release ++ h.members }
  else h

/-- R220: a thread leaves a group; an empty group loses its owner. -/
def groupLeave (cyc : Nat) (l : List Group) (id : Nat) (m : Nat × Nat) : List Group :=
  (l.map (fun g =>
    if g.id = id then
      Group.settle cyc { g with members := g.members.filter (fun x => x != m), arrived := g.arrived.filter (fun x => x != m) }
    else g)).filter (fun g => !(g.members.isEmpty && g.release.isEmpty))

/-- R220: a thread joins a group. -/
def groupJoin (l : List Group) (id : Nat) (asid : BitVec 12) (m : Nat × Nat) : List Group :=
  match groupFind l id with
  | some g =>
    if g.members.isEmpty then l.map (fun x => if x.id = id then { x with asid := asid, members := [m] } else x)
    else l.map (fun x => if x.id = id then { x with members := x.members ++ [m] } else x)
  | none => l ++ [{ id := id, asid := asid, members := [m], arrived := [], limits := [], release := [] }]

/-- R220: the status that a join would return. -/
def groupJoinStatus (l : List Group) (id : Nat) (asid : BitVec 12) (m : Nat × Nat) : Nat :=
  if 64 ≤ id then 2
  else match groupFind l id with
    | none => 0
    | some g =>
      if g.members.contains m then 1
      else if g.members.isEmpty || g.asid = asid then 0
      else 3

/-- R233, R365: a thread leaves every group it belongs to. -/
def State.leaveGroups (s : State) (lid tix : Nat) : State :=
  let gs := (List.range 64).foldl (fun l id => groupLeave s.cyc l id (lid, tix)) s.host.groups
  let gs := gs.map (fun g => { g with release := g.release.filter (fun m => m != (lid, tix)) })
  { s with host := { s.host with groups := gs.filter (fun g => !(g.members.isEmpty && g.release.isEmpty)) } }

/-! ## Endpoints (R223) -/

/-- R223, R233: releases the endpoint binding of a thread. -/
def State.releaseEndpoint (s : State) (lid tix : Nat) : State :=
  { s with host := { s.host with endpoints := s.host.endpoints.filter (fun e => !(e.lid == lid && e.tix == tix)) } }

/-- R223: EN of mbase. -/
def mbaseEn (v : Dword) : Bool := v.getLsbD 63

/-- R223: binds an endpoint; the thread that held it reads EN as 0 from then on. R228 delivers through the ASID bound: that the page-table
root is the thread's pgroot at this write is the model's choice (log entry 89). -/
def State.bindEndpoint (s : State) (t : Thread) (v : Dword) : State :=
  let ep := bitsOf v.toNat 0 8
  let s := match s.host.endpoints.find? (fun e => e.ep == ep && !(e.lid == t.lid && e.tix == t.tix)) with
    | some e => s.mapThread e.lid e.tix (fun u => { u with mbase := u.mbase &&& BitVec.ofNat 64 (2 ^ 63 - 1) })
    | none => s
  let keep := s.host.endpoints.filter (fun e => e.ep != ep && !(e.lid == t.lid && e.tix == t.tix))
  { s with host := { s.host with endpoints :=
      { ep := ep, lid := t.lid, tix := t.tix, asid := t.asid, root := t.pgroot,
        base := BitVec.ofNat 64 (bitsOf v.toNat 8 49 * 256) : Endpoint } :: keep } }

/-! ## Walks by the system die -/

/-- A stop as an agent sees it that keeps its own requests in order and tries them again: a request that would be queued waits (log
entry 26). -/
def Stop.plain : Stop → Stop
  | .queue _ => .wait
  | e => e

/-- A read at the home by an agent of the system die. -/
def State.agentRead (s : State) (pa n : Nat) : Except Stop (List Byte × State) :=
  match s.homeRead pa n with
  | .error e => .error e.plain
  | .ok r => .ok r

/-- A write at the home by an agent of the system die. -/
def State.agentWrite (s : State) (pa : Nat) (bs : List Byte) : Except Stop State :=
  match s.homeWrite pa bs with
  | .error e => .error e.plain
  | .ok t => .ok t

/-- Translates a VA for the system die or the message unit, with no TLB: the walk, the rights of an S-mode access, A and D
(R98, R99, R228, R364, R372). R111 gives an entry of a replica record to each compute die and none to the system die: that the
system die uses entry 0 is the model's choice (log entry 68). -/
def State.sysTranslate (s : State) (root : Dword) (need : Need) (va : Nat) : Except Stop (Mapped × State) :=
  match s.walk 0 need root va with
  | .error e => .error e.plain
  | .ok (f, s) =>
    match leafProt f true need va with
    | some e => .error e
    | none =>
      if s.heldPage f then .error .wait
      else match s.setAD need f.addr with
      | .error e => .error e.plain
      | .ok (e, s) => .ok ({ f with entry := e }.mapped va, s)

/-- Reads n bytes at a VA of an address space, at their home. -/
def State.sysRead (s : State) (root : Dword) (va n : Nat) : Except Stop (List Byte × State) :=
  match s.sysTranslate root .load va with
  | .error e => .error e
  | .ok (m, s) => s.agentRead m.pa n

/-- Writes bytes at a VA of an address space, at their home; TRK copies are purged (R105). -/
def State.sysWrite (s : State) (root : Dword) (va : Nat) (bs : List Byte) : Except Stop State :=
  match s.sysTranslate root .store va with
  | .error e => .error e
  | .ok (m, s) =>
    match s.agentWrite m.pa bs with
    | .error e => .error e
    | .ok s => .ok (s.purgeLine (m.pa / 64))

/-! ## The end of threads and launches (R365, R372, R373) -/

/-- R372: whether no thread of the launch is NEW, READY or RUNNING. -/
def State.launchIdle (s : State) (lid : Nat) : Bool :=
  !((s.threads).any (fun t => t.lid == lid && t.st != .halted))

/-- R372: how the write of a completion word ends. -/
inductive EndWrite where
  /-- Written, or none asked for. -/
  | done (s : State)
  /-- It fails a check of R89, meets an error response or an uncorrectable error, and is dropped. -/
  | dropped (s : State)
  /-- Its stack or line does not serve yet (R404): the launch has not ended until it does. -/
  | wait

/-- R372: the completion word of a launch. -/
def State.endWord (s : State) (l : Launch) : EndWrite :=
  if l.caddr = 0 then .done s
  else if bitsOf l.caddr.toNat 0 3 ≠ 0 then .dropped s
  else match s.sysWrite l.root l.caddr.toNat (leBytes 8 l.cval.toNat) with
    | .ok t => .done t
    | .error .wait => .wait
    | .error (.queue _) => .wait
    | .error .capacity => .wait
    | .error (.trap _ _) => .dropped s
    | .error (.noMemory pa c) => .dropped (s.logError pa (srcCode 1 l.cmd 0xFF) c)
    | .error (.logged _ _ pa c) => .dropped (s.logError pa (srcCode 1 l.cmd 0xFF) c)
    | .error (.memerr a) => .dropped { s with plat := { s.plat with due := s.plat.due ++ [(some l.asid, a)] } }

/-- R371, R372: a launch whose threads have all ended leaves the table; quota and boost of its early consumer end with it. -/
def State.freeLaunch (s : State) (lid : Nat) : State :=
  let f (k : Launch) : Launch := if k.early = some lid then { k with early := none, deps := [] } else k
  { s with host := { s.host with launches := (s.host.launches.filter (fun (k : Launch) => k.lid != lid)).map f } }

/-- R372: the launch-ended event. -/
def State.closeLaunch (s : State) (l : Launch) (info : Dword) : State :=
  let s := { s with host := { s.host with launches := s.host.launches.map (fun (k : Launch) => if k.lid = l.lid then { k with closed := true } else k) } }
  s.post (eventRecord s 5 l.queue l.lid 0 l.bad 0 0 info l.tag)

/-- R372: the launch ends when its threads are all ENDED or HALTED: completion word, event, and its entry is freed once
no thread remains HALTED. -/
def State.launchSettle (s : State) (lid : Nat) : State :=
  match s.host.launches.find? (fun l => l.lid == lid) with
  | none => s
  | some l =>
    if !s.launchIdle lid then s
    else
      let s :=
        if l.closed then s
        else match s.endWord l with
          | .done t => t.closeLaunch l 0
          | .dropped t => t.closeLaunch l l.caddr
          | .wait => s
      if (s.threads).any (fun t => t.lid == lid)
          || s.host.launches.any (fun (k : Launch) => k.lid == lid && !k.closed) then s
      else s.freeLaunch lid

/-- R372, R404: launches whose completion word has had to wait are tried again. -/
def State.retryEnds (s : State) : State :=
  (s.host.launches.filter (fun (l : Launch) => !l.closed && s.launchIdle l.lid)).foldl (fun s l => s.launchSettle l.lid) s

/-- Counts an ended or halted thread in its launch (R373, CODE of KIND 5). -/
def State.countEnd (s : State) (lid : Nat) (ended : Bool) (bad : Bool) : State :=
  { s with host := { s.host with launches := s.host.launches.map (fun l =>
      if l.lid = lid then { l with ended := l.ended + ended.toNat, bad := l.bad + bad.toNat } else l) } }

/-- R229: a sender with parked entries is kept for the message unit when it ends; that SEP of such an entry is the endpoint number held at
the end is the model's choice (log entry 92). -/
def State.keepSender (s : State) (t : Thread) : State :=
  if s.host.parked.any (fun p => p.lid == t.lid && p.tix == t.tix) && !(s.host.senders.any (fun x => x.lid == t.lid && x.tix == t.tix)) then
    let sep := if mbaseEn t.mbase then bitsOf t.mbase.toNat 0 8 else 255
    { s with host := { s.host with senders := s.host.senders ++
        [{ lid := t.lid, tix := t.tix, asid := t.asid, root := t.pgroot, base := BitVec.ofNat 64 (bitsOf t.parkr.toNat 6 51 * 64), sep := sep }] } }
  else s

/-- R233, R365: what every end of a thread does before its launch is told: groups left, endpoint released, counted; a thread
that has halted is counted already (R373). The caller has already taken the thread off its ring or list. -/
def State.dropThread (s : State) (t : Thread) (code : Nat) : State :=
  (((s.leaveGroups t.lid t.tix).releaseEndpoint t.lid t.tix).keepSender t).countEnd t.lid true (code != 0 && t.st != .halted)

/-- R233, R373: a thread ends with an exit code; one that is not zero posts an exit event (KIND 1). -/
def State.endThread (s : State) (t : Thread) (code : Nat) : State :=
  let s := s.dropThread t code
  let (q, tag) := s.launchTag t.lid
  let s := if code = 0 then s else s.post (eventRecord s 1 q t.lid t.tix code 0 0 0 tag)
  s.launchSettle t.lid

/-- Takes every thread that p selects off its ring or list, without a save. -/
def State.removeThreads (s : State) (p : Thread → Bool) : State :=
  let s := { s with others := s.others.filter (fun r => !p r.thr), saved := s.saved.filter (fun v => !p v.thr) }
  if s.live && p s.thr then s.vacate else s

/-- R365, R403: ends threads with a code, posting no exit event; then their launches are told. -/
def State.endThreads (s : State) (ts : List Thread) (code : Nat) : State :=
  let s := ts.foldl (fun s t => s.dropThread t code) s
  (ts.foldl (fun l t => addNew t.lid l) []).foldl (fun s lid => s.launchSettle lid) s

/-- R403: an uncorrectable error charged to an address space: its ring threads end with 0xFFFF_FF13, and one KIND 4 event
is posted for each launch affected; charged to none, one event names no launch. The page is retired. -/
def State.chargeMemerr (s : State) (asid : Option (BitVec 12)) (pa : Nat) : State :=
  let page := pa / 2 ^ 16
  let s := if (bitsOf pa 50 2 = 0 || bitsOf pa 50 2 = 2) && s.plat.retired.length < 1024 then
      { s with plat := { s.plat with retired := addNew page s.plat.retired } } else s
  match asid with
  | none => s.post (eventRecord s 4 0 0xFFFFFFFF 0xFFFFFFFF 0 0 0 (BitVec.ofNat 64 (page * 2 ^ 16)) 0)
  | some a =>
    let ts := (s.threads).filter (fun t => t.asid == a)
    let lids := ts.foldl (fun l t => addNew t.lid l) []
    let s := s.removeThreads (fun t => t.asid == a)
    let s := lids.foldl (fun s lid =>
      let (q, tag) := s.launchTag lid
      let n := (ts.filter (fun t => t.lid == lid)).length
      s.post (eventRecord s 4 q lid 0xFFFFFFFF n 0 0 (BitVec.ofNat 64 (page * 2 ^ 16)) tag)) s
    s.endThreads ts 0xFFFFFF13

/-- R403, R405: the uncorrectable errors that write-backs have met are charged. -/
def State.chargeDue (s : State) : State :=
  s.plat.due.foldl (fun s d => s.chargeMemerr d.1 d.2) { s with plat := { s.plat with due := [] } }

/-- R371, R372, R403, R404: what the package does by itself before the next step: the controllers' queues are served as far as
their stacks allow, errors are charged, and completion words that waited are written. -/
def State.housekeep (s : State) : State := s.serveQueued.chargeDue.retryEnds

end Sys2Proof.Machine
end

