-- ==== Sys2Proof/Machine/Ops.lean ====
section
/-! DEFINITION. The named operations over registers, traps and memory that the meanings share: reading and writing
registers, squashes (R38), taking a trap (R326) and returning (R338), issuing an instruction (R16, R158), segments (R87),
and the loads, stores and atomics of a ring thread (R34-R37, R89, R102, R195).
-/

namespace Sys2Proof.Machine

/-! ## Registers -/

/-- R20: the focused chunk is the head. -/
def State.isHead (s : State) : Bool := s.older.isEmpty

/-- R322: the focused chunk is in S mode. -/
def State.smode (s : State) : Bool := s.cpu.stat.getLsbD 0

/-- R21, R327: the descriptor in force. -/
def State.openRegion (s : State) : Option Region := if s.thr.susp then none else s.thr.region

/-- R153, R154: whether a fixed-latency result is still to be written (log entry 9). -/
def State.late (s : State) (p : Pend) : Bool := decide (s.cpu.turn < p.due) && decide (s.cyc < p.written)

/-- The newest fixed-latency result of a register that is not yet written (R153-R155). -/
def State.lateProducer (s : State) (r : RegName) : Option Pend :=
  if r = .x 0 then none
  else match s.cpu.pend.find? (fun p => p.reg == r) with
  | some p => if s.late p then some p else none
  | none => none

/-- R154: the value from before the producers that are still to write the register. -/
def State.lateValue (s : State) (r : RegName) : Option RegVal :=
  match s.lateProducer r with
  | none => none
  | some _ =>
    match (s.cpu.pend.filter (fun p => p.reg == r && s.late p)).getLast? with
    | some p => some p.old
    | none => none

/-- X[n] as an instruction reads it (R147, R154). -/
def State.rx (s : State) (n : Reg) : Dword :=
  if n = 0 then 0
  else match s.lateValue (.x n) with
    | some (.scalar v) => v
    | _ => s.cpu.x.get n.toFin

/-- V[n] as an instruction reads it (R147, R154); a dead register reads as zero (R243). -/
def State.rv (s : State) (n : Reg) : VReg :=
  match s.lateValue (.v n) with
  | some (.vector v dead) => if dead then 0 else v
  | _ => if s.cpu.vdead.getLsbD n.toNat then 0 else s.cpu.v.get n.toFin

/-- K[n] as an instruction reads it (R147, R154). -/
def State.rk (s : State) (n : KIdx) : KReg :=
  match s.lateValue (.k n) with
  | some (.mask v) => v
  | _ => s.cpu.k.get n.toFin

/-- X[n] := v; a write to x0 is discarded (R147). -/
def State.wx (s : State) (n : Reg) (v : Dword) : State :=
  if n = 0 then s else { s with cpu := { s.cpu with x := s.cpu.x.set n.toFin.val v n.toFin.isLt } }

/-- V[n] := v, which is then no longer dead (R243). -/
def State.wv (s : State) (n : Reg) (v : VReg) : State :=
  { s with cpu := { s.cpu with
      v := s.cpu.v.set n.toFin.val v n.toFin.isLt
      vdead := s.cpu.vdead &&& ~~~(1#32 <<< n.toNat) } }

/-- K[n] := v. -/
def State.wk (s : State) (n : KIdx) (v : KReg) : State :=
  { s with cpu := { s.cpu with k := s.cpu.k.set n.toFin.val v n.toFin.isLt } }

/-- pc := a. -/
def State.setPc (s : State) (a : Dword) : State := { s with cpu := { s.cpu with pc := a } }

/-- pc := pc + 4: the next instruction in order. -/
def State.advance (s : State) : State := s.setPc (s.cpu.pc + 4)

/-- R62: stat.FRM. -/
def statFrm (v : Dword) : Nat := bitsOf v.toNat 4 3
/-- R62: stat.VRM. -/
def statVrm (v : Dword) : Nat := bitsOf v.toNat 8 3
/-- R150: stat.DET. -/
def statDet (v : Dword) : Bool := v.getLsbD 3
/-- R150: stat.SCHK. -/
def statSchk (v : Dword) : Bool := v.getLsbD 2
/-- R150: stat.IE. -/
def statIe (v : Dword) : Bool := v.getLsbD 1

/-- The current value of a member of a create mask, with no regard to latency. -/
def Chunk.reg (c : Chunk) : RegName → RegVal
  | .x n => .scalar (if n = 0 then 0 else c.x.get n.toFin)
  | .v n => .vector (c.v.get n.toFin) (c.vdead.getLsbD n.toNat)
  | .k n => .mask (c.k.get n.toFin)
  | .vl => .scalar (c.vl.setWidth 64)
  | .vew => .scalar (c.vew.setWidth 64)
  | .vstart => .scalar (c.vstart.setWidth 64)
  | .seed => .scalar c.seed
  | .sbase => .scalar c.sbase
  | .fxs => .scalar (c.fxs.setWidth 64)
  | .frm => .scalar (BitVec.ofNat 64 (statFrm c.stat))
  | .vrm => .scalar (BitVec.ofNat 64 (statVrm c.stat))

/-- A field of a doubleword replaced. -/
def setField (v : Dword) (lo n x : Nat) : Dword :=
  BitVec.ofNat 64 (v.toNat - bitsOf v.toNat lo n * 2 ^ lo + x % 2 ^ n * 2 ^ lo)

/-- Writes a received member of a create mask (R28). -/
def Chunk.setReg (c : Chunk) (r : RegName) (v : RegVal) : Chunk :=
  match r, v with
  | .x n, .scalar v => if n = 0 then c else { c with x := c.x.set n.toFin.val v n.toFin.isLt }
  | .v n, .vector v dead =>
    { c with
      v := c.v.set n.toFin.val v n.toFin.isLt
      vdead := if dead then c.vdead ||| (1#32 <<< n.toNat) else c.vdead &&& ~~~(1#32 <<< n.toNat) }
  | .k n, .mask v => { c with k := c.k.set n.toFin.val v n.toFin.isLt }
  | .vl, .scalar v => { c with vl := v.setWidth 10 }
  | .vew, .scalar v => { c with vew := v.setWidth 2 }
  | .vstart, .scalar v => { c with vstart := v.setWidth 10 }
  | .seed, .scalar v => { c with seed := v }
  | .sbase, .scalar v => { c with sbase := v }
  | .fxs, .scalar v => { c with fxs := v.setWidth 8 }
  | .frm, .scalar v => { c with stat := setField c.stat 4 3 v.toNat }
  | .vrm, .scalar v => { c with stat := setField c.stat 8 3 v.toNat }
  | _, _ => c

/-- R28, R29: the members every create mask has. -/
def fixedMembers : List RegName :=
  [.vl, .vew, .vstart, .seed, .sbase, .fxs, .frm, .vrm, .k 0, .k 1, .k 2, .k 3, .k 4, .k 5, .k 6, .k 7]

/-- R28: the bit of a create mask that names a register. -/
def maskBit : RegName → Option Nat
  | .x n => if n = 0 then none else some n.toNat
  | .v n => some (32 + n.toNat)
  | _ => none

/-- R28: whether a create mask names a register; the fixed members belong to every mask. -/
def maskHas (mask : Dword) (r : RegName) : Bool :=
  match r with
  | .x n => n != 0 && mask.getLsbD n.toNat
  | .v n => mask.getLsbD (32 + n.toNat)
  | _ => true

/-- R28: the members of a create mask. -/
def maskMembers (mask : Dword) : List RegName :=
  ((List.range 31).map (fun i => RegName.x (BitVec.ofNat 5 (i + 1)))
    ++ (List.range 32).map (fun i => RegName.v (BitVec.ofNat 5 i))).filter (maskHas mask) ++ fixedMembers

/-! ## Squashes (R38) -/

/-- R51: adds to a speculation counter. -/
def State.spec (s : State) (i : Nat) (n : Nat) : State :=
  { s with thr := { s.thr with spec := s.thr.spec.setIfInBounds i ((s.thr.spec.toList.getD i 0) + BitVec.ofNat 64 n) } }

/-- R38: what a squash leaves of a chunk that will be restarted: its number, core, start point and mask, and its end in a cut region
as long as it has a successor there, which it has then to reach by an fcut again (R29). -/
def Chunk.squash (tag : Nat) (cut : Option (Dword × Dword)) (c : Chunk) : Chunk :=
  { Chunk.blank with
    num := c.num, core := c.core, pc := c.start, start := c.start, mask := c.mask, lsTag := tag, squashed := true, cut := cut
    recut := cut.isSome
    streak := c.streak + 1, guarded := c.guarded || 4 ≤ c.streak + 1 }

/-- R38, R41, R43: the commands and snap entries of squashed chunks go with them. -/
def State.dropChunkWork (s : State) (nums : List Nat) : State :=
  { s with thr := { s.thr with
      cmds := s.thr.cmds.filter (fun c => c.committed || !nums.contains c.chunk)
      snaps := s.thr.snaps.filter (fun c => !nums.contains c.chunk) } }

/-- R38: the slots of discarded chunks are empty 12 cycles later. -/
def State.freeSlots (s : State) (gone : List Chunk) : State :=
  { s with thr := { s.thr with freeing := s.thr.freeing ++ gone.map (fun c => (c.core, s.cyc + 12)) } }

/-- R38: a tag for the LS window of a chunk that starts now (R45). -/
def State.newTag (s : State) (num : Nat) : Nat := s.tick * 64 + num % 64

/-- R25, R26, R38: what a squash of these chunks, up to the youngest, leaves: each restarts, and all but the youngest have a successor
and keep the end that their fcut has given them (log entry 29). -/
def State.squashed (s : State) : List Chunk → List Chunk
  | [] => []
  | [c] => [c.squash (s.newTag c.num) none]
  | c :: rest => c.squash (s.newTag c.num) c.cut :: s.squashed rest

/-- The youngest chunk of the focused ring. -/
def State.youngest (s : State) : Chunk := s.younger.getLast?.getD s.cpu

/-- R21, R25: the descriptor of a cut region holds the cut address and the create mask of the youngest chunk: those that its
own fcut has named, or, before one, the label at which it began and the mask with which it was created. -/
def State.cutOfYoungest (s : State) : State :=
  match s.thr.region with
  | none => s
  | some g =>
    let (last, mask) := s.youngest.cut.getD (s.youngest.start, s.youngest.mask)
    if g.kind = RegionKind.cut then { s with thr := { s.thr with region := some { g with last := last, mask := mask } } } else s

/-- R38: squashes and restarts the younger chunks from the given index (of the chunks younger than the focused one) on. -/
def State.squashFrom (s : State) (i : Nat) : State :=
  let gone := s.younger.drop i
  let t := s.dropChunkWork (gone.map (fun c => c.num))
  State.cutOfYoungest { t with younger := s.younger.take i ++ s.squashed gone }

/-- R38: squashes every younger chunk. -/
def State.squashYounger (s : State) : State := if s.younger.isEmpty then s else s.squashFrom 0

/-- R25, R29: a chunk that was squashed and has not executed its fcut again has no end once the chunks beyond that end are gone. -/
def State.uncut (s : State) : State :=
  if s.cpu.recut then { s with cpu := { s.cpu with cut := none, recut := false } } else s

/-- R38: discards every younger chunk. -/
def State.discardYounger (s : State) : State :=
  if s.younger.isEmpty then s
  else State.cutOfYoungest
    (State.uncut { (s.dropChunkWork (s.younger.map (fun c => c.num))).freeSlots s.younger with younger := [] })

/-- R38: squashes the focused speculative chunk and every younger one. -/
def State.squashSelf (s : State) : State :=
  let gone := s.cpu :: s.younger
  let t := s.dropChunkWork (gone.map (fun c => c.num))
  match s.squashed gone with
  | c :: back => State.cutOfYoungest { t with cpu := c, younger := back }
  | [] => s

/-! ## Traps (R323-R338) -/

/-- R324: cause codes. -/
def causeIllop : Byte := 0x01
/-- R324: ILLSTATE. -/
def causeIllstate : Byte := 0x02
/-- R324: PRIV. -/
def causePriv : Byte := 0x03
/-- R324: SEGV. -/
def causeSegv : Byte := 0x04
/-- R324: ALIGN. -/
def causeAlign : Byte := 0x05
/-- R324: FETCH. -/
def causeFetch : Byte := 0x08
/-- R324: STALL. -/
def causeStall : Byte := 0x0A
/-- R324: CMASK. -/
def causeCmask : Byte := 0x0B
/-- R324: FMTCODE. -/
def causeFmtcode : Byte := 0x0C
/-- R324: TRAYFULL. -/
def causeTrayfull : Byte := 0x0D
/-- R324: DEPTH. -/
def causeDepth : Byte := 0x0E
/-- R324: SPAN. -/
def causeSpan : Byte := 0x0F
/-- R324: ENGFAULT. -/
def causeEngfault : Byte := 0x10
/-- R324: MSCALE. -/
def causeMscale : Byte := 0x11
/-- R324: LEASE. -/
def causeLease : Byte := 0x12
/-- R324: SCALL. -/
def causeScall : Byte := 0x14
/-- R324: BRK. -/
def causeBrk : Byte := 0x15
/-- R324: TIMER. -/
def causeTimer : Byte := 0x16
/-- R324: MSGIRQ. -/
def causeMsgirq : Byte := 0x17
/-- R324: HOSTIRQ. -/
def causeHostirq : Byte := 0x18

/-- R326: stat at trap entry: MODE := 1, IE := 0, other fields unchanged. -/
def trapStat (v : Dword) : Dword := (v ||| 1#64) &&& ~~~(2#64)

/-- R326, R327: taking a trap or an interrupt at the head. Younger chunks are squashed, and discarded with an open region,
whose descriptor is suspended; tsave, tloc, tcause and tinfo are written; MODE becomes 1 and IE 0; pc := tvec. Results
under way are written (R154), fetch uses the current address space (R335), and a bank without a command gives up its lease (R295). -/
def takeTrap (t : Trap) (s : State) : State :=
  let s := s.discardYounger
  { s with
    thr := { s.thr with
      tsave := s.cpu.stat
      tloc := t.loc &&& ~~~(3#64)
      tcause := t.cause.setWidth 64
      tinfo := t.info
      susp := s.thr.region.isSome
      fetchOld := FetchOld.empty }
    cpu := { s.cpu with
      stat := trapStat s.cpu.stat
      pc := s.thr.tvec
      trap := none
      park := none
      asked := none
      held := []
      fetching := false
      pend := []
      bank := s.cpu.bank.map (fun (b : Bank) => { b with lease := none })
      entering := true } }

/-- R210: a trap or interrupt inside a repeat frame leaves what executes next in rptst. -/
def State.saveFrame (s : State) : State :=
  match s.cpu.frame with
  | none => s
  | some f =>
    { s with cpu := { s.cpu with
        frame := none
        rptst := BitVec.ofNat 64 (2 ^ 16 + f.run % 256 * 2 ^ 8 + f.index % 16 * 2 ^ 4) } }

/-- R44: a fault at the head is taken; in a speculative chunk it is recorded and stops the chunk. -/
def State.raiseAt (s : State) (cause : Byte) (loc info : Dword) : State :=
  let s := s.saveFrame
  if s.isHead then takeTrap { cause := cause, loc := loc, info := info } s
  else { s with cpu := { s.cpu with trap := some { cause := cause, loc := loc, info := info }, held := [] } }

/-- A fault at the instruction itself. -/
def State.raise (s : State) (cause : Byte) (info : Dword) : State := s.raiseAt cause s.cpu.pc info

/-- R42: the fields of stat that a chunk copies at creation: all but FRM and VRM, which are members of every create mask. -/
def statCopied (v : Dword) : Dword := v &&& ~~~0x770#64

/-- R338: what tret does when its checks pass: stat, pc and a suspended descriptor come back; a change of stat that younger
chunks have copied squashes them (R42). -/
def trapReturn (s : State) : State :=
  let s := if statCopied s.thr.tsave = statCopied s.cpu.stat then s else s.squashYounger
  { s with
    cpu := { s.cpu with stat := s.thr.tsave, pc := s.thr.tloc, pend := [] }
    thr := { s.thr with susp := false, fetchOld := FetchOld.empty } }

/-! ## Issuing an instruction (R16, R29, R158) -/

/-- What an instruction reads and writes, and how it issues. -/
structure Use where
  /-- R40: held until head. -/
  held   : Bool := false
  reads  : List RegName := []
  writes : List RegName := []
  /-- R153: result latency in turns. -/
  lat    : Nat := 1
  /-- R152. -/
  st     : BitVec 2 := 0
  /-- The parked instruction that this one re-executes (R16). -/
  again  : Option ParkKind := none
  /-- R153: the result is interlocked, and why. -/
  flight : Option FlightKind := none

/-- How the body of an instruction ends. -/
inductive Res where
  /-- Completed. -/
  | done (s : State)
  /-- A fault at the instruction, with the state its rule leaves. -/
  | trap (s : State) (cause : Byte) (info : Dword)
  /-- Waits: it executes again at a later turn. -/
  | wait (s : State)
  /-- R403: an uncorrectable error charged to the thread's address space. -/
  | memerr (s : State) (pa : Nat)
  /-- Completed, and the thread has left its ring. -/
  | gone (s : State)

/-- R384: logs the error response behind a stop, if there is one, for the focused thread. -/
def State.logStop (s : State) : Stop → State
  | .noMemory pa c => s.logError pa (srcCode 0 s.thr.asid s.ring) c
  | .logged _ _ pa c => s.logError pa (srcCode 0 s.thr.asid s.ring) c
  | _ => s

/-- R115: a translation that an access which waits has come through, with its page's number. -/
def Leaf.kept (f : Leaf) (va : Nat) : Nat × Leaf := (f.vpn va, f)

/-- R115: the translation of an access that waits at a home; none for the request of a walk, or for a flush. -/
def Ask.leaf : Ask → Option (Nat × Leaf)
  | .walk _ => none
  | .line r _ => some (r.page.kept (64 * r.va))
  | .home _ held => held
  | .flush _ _ => none

/-- R115: a translation joins those that are held. -/
def holdLeaf (held : List (Nat × Leaf)) (q : Ask) : List (Nat × Leaf) :=
  match q.leaf with
  | some f => addNew f held
  | none => held

/-- R101, R106, R107, R400, R404: a request takes its place in the package's queues; one at a controller stays with its agent. -/
def State.enterQueue (s : State) : Ask → State
  | .walk w => s.waitWalk w
  | .line r line => s.waitLine r line
  | .home _ _ => s
  | .flush ring lines => s.flushLines ring lines

/-- R400, R404: the request at a controller that an access waits with, its address and time of arrival; else the one waited with before. -/
def State.askOf (s : State) (asked : Option (Nat × Nat)) : Ask → Option (Nat × Nat)
  | .home a _ => some (s.request a)
  | _ => asked

/-- R101, R106, R115, R400, R404: the focused slot's request takes its place in a queue; the slot presents it again when it executes
the instruction again, and holds the access's translation until then. -/
def State.queueUp (s : State) (q : Ask) : State :=
  let t := s.enterQueue q
  { t with cpu := { t.cpu with asked := s.askOf t.cpu.asked q, held := holdLeaf t.cpu.held q } }

/-- R115: an access that does not wait in a queue gives up the translations it has held. -/
def State.unheld (s : State) : State := { s with cpu := { s.cpu with held := [] } }

/-- R400, R404: the focused slot presents the request with which it waits in a controller's queue. -/
def State.present (s : State) : State :=
  match s.cpu.asked with
  | none => s
  | some q => { s with cpu := { s.cpu with asked := none }, plat := { s.plat with serves := some q } }

/-- The result of an access that did not complete. What the package would log or charge for a speculative chunk waits until
the chunk is head and executes the access again (R9, log entry 65). -/
def Res.ofStop (s : State) : Stop → Res
  | .trap c i => .trap s c i
  | .memerr pa => if s.isHead then .memerr s pa else .wait s.unheld
  | .wait => .wait s.unheld
  | .queue q => .wait (s.queueUp q)
  | .capacity => .wait ({ s with cpu := { s.cpu with capped := true, held := [] } }.spec 3 1)
  | .noMemory pa c => if s.isHead then .trap (s.logStop (.noMemory pa c)) causePfault 0 else .wait s.unheld
  | .logged cause info pa c => if s.isHead then .trap (s.logStop (.logged cause info pa c)) cause info else .wait s.unheld

/-- R16: the slot takes no part in issue: parked, stopped by a recorded fault, at its end, or squashed. -/
def State.notReady (s : State) (again : Option ParkKind) : Bool :=
  s.cpu.trap.isSome || s.cpu.ended || s.cpu.squashed || s.cpu.capped
    || (match s.cpu.park with
        | some p => again != some p.kind
        | none => false)

/-- What an instruction needs of the registers: those that it reads, and the vector and mask registers of which a vector
instruction writes a part and keeps the rest (R237, R250; log entry 69). -/
def Use.needs (u : Use) : List RegName :=
  u.reads ++ (if u.writes.contains .vstart then u.writes.filter (fun r => match r with | .v _ => true | .k _ => true | _ => false) else [])

/-- R185, R238: what the checks before STALL read of the values that a predecessor hands over: the rounding modes and vstart. -/
def Use.checks (u : Use) : List RegName := u.reads.filter (fun r => r == .frm || r == .vrm || r == .vstart)

/-- R16: the instruction parks for a value: a mask register not received, an interlocked result not arrived, a long
operation of the slot, or a ninth memory instruction. -/
def State.mustWait (s : State) (u : Use) : Bool :=
  u.needs.any (fun r => r != .x 0 && (s.cpu.wait.contains r || s.cpu.flight.any (fun f => f.regs.contains r)))
    || s.cpu.flight.any (fun f => f.kind == .long)
    || (u.flight == some .memory && 8 ≤ (s.cpu.flight.filter (fun f => f.kind == .memory)).length)

/-- R155: the producer whose result a consumer would read too early, when stat.SCHK is set; of several late registers that it
reads, the one that comes first in the order in which the meaning lists them (log entry 70). -/
def State.stallOf (s : State) (u : Use) : Option Pend :=
  if statSchk s.cpu.stat then
    u.reads.findSome? (fun r => match r with
      | .x _ => s.lateProducer r
      | .v _ => s.lateProducer r
      | .k _ => s.lateProducer r
      | _ => none)
  else none

/-- The vector registers, v0 first. -/
def allVectors : List RegName := (List.range 32).map (fun i => RegName.v (BitVec.ofNat 5 i))

/-- R29: the create mask that governs the writes of the focused chunk now, if any does. In a cut region it is the one that the chunk's own
fcut has named; a chunk that was squashed after its fcut has to execute it again first. -/
def State.governing (s : State) : Option Dword :=
  match s.openRegion with
  | none => none
  | some g =>
    match g.kind with
    | .loop => if s.cpu.final then none else some g.mask
    | .cut => match s.cpu.cut with
      | some (_, m) => if s.cpu.recut then none else some m
      | none => none

/-- R29, R324: what CMASK reports of an instruction's writes: the first written x or v register outside the governing mask, in
create-mask numbering, and 0x40 where one of all 32 vector registers, which only vdead writes, is outside it. -/
def State.cmaskOf (s : State) (writes : List RegName) : Option Nat :=
  match s.governing with
  | none => none
  | some m =>
    match writes.find? (fun r => !maskHas m r && (maskBit r).isSome) with
    | some r => if writes = allVectors then some 0x40 else maskBit r
    | none => none

/-- R30: what a speculative chunk has consumed of its predecessor's values: what it has read and not written itself. -/
def State.noteReads (s : State) (reads : List RegName) : State :=
  match s.older with
  | [] => s
  | _ :: _ =>
    { s with cpu := { s.cpu with used := s.cpu.used ++ reads.filter (fun r => !s.cpu.used.contains r && !s.cpu.made.contains r) } }

/-- R26, R30: what a region remembers of a chunk's writes. -/
def State.noteWrites (s : State) (writes : List RegName) : State :=
  match s.thr.region with
  | none => s
  | some _ =>
    { s with cpu := { s.cpu with
        made := s.cpu.made ++ writes.filter (fun r => !s.cpu.made.contains r)
        sent := s.cpu.sent.filter (fun r => !writes.contains r)
        wait := s.cpu.wait.filter (fun r => !writes.contains r)
        wrote := writes.foldl (fun m r => match maskBit r with | some b => m ||| (1#64 <<< b) | none => m) s.cpu.wrote } }

/-- R153: the register files whose results have a latency. -/
def RegName.isFile : RegName → Bool
  | .x _ => true
  | .v _ => true
  | .k _ => true
  | _ => false

/-- R155, R207: the address of the instruction that the chunk executes: inside a repeat frame, that of the captured word. -/
def Chunk.slotPc (c : Chunk) : Dword :=
  match c.frame with
  | some f => c.pc + BitVec.ofNat 64 (4 * (f.index + 1))
  | none => c.pc

/-- R153: the cycle at which a result of an instruction that issues now is written: no later than 2 × L cycles from now, and else free (log
entry 9). -/
def State.writtenAt (s : State) (lat : Nat) : Nat := s.cyc + min (2 * lat) (Config.resultDelay s.tick)

/-- R153, R154: the late results of an instruction of latency above one turn; a write to x0 has none (R147). -/
def pendOf (u : Use) (before : State) : List Pend :=
  if u.lat ≤ 1 then []
  else (u.writes.filter (fun r => r.isFile && r != .x 0)).map (fun r =>
    { reg := r, old := before.cpu.reg r, due := before.cpu.turn + u.lat, written := before.writtenAt u.lat, pc := before.cpu.slotPc : Pend })

/-- R154: results are written to each register in program order, so an older late result of a register that the
instruction writes is due, and is written, no later than the instruction's own. -/
def capPend (u : Use) (before : State) (p : Pend) : Pend :=
  if u.writes.contains p.reg then
    { p with due := min p.due (before.cpu.turn + u.lat), written := min p.written (before.writtenAt u.lat) }
  else p

/-- R153, R154: completion: late results are noted, an interlocked result is outstanding (and no older one of the same
register), and 1 + ST turns pass. -/
def State.retire (s : State) (u : Use) (before : State) : State :=
  let turn := s.cpu.turn + 1 + u.st.toNat
  let older := s.cpu.flight.map (fun (f : Flight) => { f with regs := f.regs.filter (fun r => !u.writes.contains r) })
  let flight := match u.flight with
    | some k => { kind := k, regs := u.writes.filter RegName.isFile : Flight } :: older
    | none => older
  let pend := (pendOf u before ++ s.cpu.pend.map (capPend u before)).filter (fun (p : Pend) => decide (turn < p.due))
  { s with cpu := { s.cpu with turn := turn, park := none, flight := flight, pend := pend, held := [] } }

/-- R403: a memory error met by the thread. -/
def State.memoryError (s : State) (pa : Nat) : State := s.chargeMemerr (some s.thr.asid) pa

/-- What a stop leaves when no instruction of the thread can take it: an uncorrectable error is charged, once the chunk is head
(R9), a request takes its place in its queue, anything else waits. -/
def State.orStop (s : State) (e : Stop) : State :=
  match e with
  | .memerr pa => if s.isHead then s.memoryError pa else s
  | .queue q => s.queueUp q
  | _ => s

/-- Issues an instruction of the focused chunk, in the order of R158: privilege and state checks (given as `early`),
STALL, then the instruction's own rule, and last CMASK (R29, log entry 17). A chunk that is not head waits at a held
instruction (R40). An instruction that has begun, and parks, waits or traps, has consumed what it reads, and one that its
first checks stop what they read (R30, log entry 30). -/
def issue (u : Use) (early : State → Option (Byte × Dword)) (body : State → Res) (s : State) :
    Host.Outcome State Fault Refusal :=
  if s.notReady u.again then .next s
  else if u.held && !s.isHead then .next s
  else if s.mustWait u then .next s
  else match early s with
  | some (c, i) => .next ((s.noteReads u.checks).raise c i)
  | none =>
    match s.stallOf u with
    | some p => .next (s.raise causeStall p.pc)
    | none =>
      match body s with
      | .done t =>
        match s.cmaskOf u.writes with
        | some r => .next ((s.noteReads u.needs).raise causeCmask (BitVec.ofNat 64 r))
        | none => .next (((t.noteReads u.needs).noteWrites u.writes).retire u s)
      | .gone t =>
        match s.cmaskOf u.writes with
        | some r => .next ((s.noteReads u.needs).raise causeCmask (BitVec.ofNat 64 r))
        | none => .next t
      | .trap t c i => .next ((t.noteReads u.needs).raise c i)
      | .wait t => .next (t.noteReads u.needs)
      | .memerr t pa => .next (t.memoryError pa)

/-- No check before STALL (R158). -/
def noEarly (_ : State) : Option (Byte × Dword) := none

/-- R322, R324: PRIV in U mode, with the word. -/
def needS (s : State) : Option (Byte × Dword) :=
  if s.smode then none else some (causePriv, s.cpu.ir.setWidth 64)

/-- R324: tinfo of ILLOP: the word. -/
def State.irInfo (s : State) : Dword := s.cpu.ir.setWidth 64

/-- A step that cannot occur in this state changes nothing (log entry 12). -/
def noOccurrence (s : State) : Host.Outcome State Fault Refusal := .next s

/-! ## Segments (R85-R90) -/

/-- Where an effective address leads. -/
inductive Target where
  | global (va : Nat)
  | priv (off : Nat)
  | shared (off : Nat)
  deriving DecidableEq, Repr

/-- R86: the descriptor of an EA's segment. -/
def State.descriptor (s : State) (ea : Dword) : Dword × Dword :=
  s.thr.sg.toList.getD (bitsOf ea.toNat 61 3) (0, 0)

/-- R87: the segment check of n bytes at an EA under a descriptor; a scatter-reduce element is an atomic (R271, log entry
71). -/
def segTarget (d : Dword × Dword) (smode : Bool) (need : Need) (ea : Dword) (n : Nat) : Option Target :=
  let o := bitsOf ea.toNat 0 61
  let right := match need with
    | .load => d.1.getLsbD 58
    | .store => d.1.getLsbD 59
    | .rmw => d.1.getLsbD 58 && d.1.getLsbD 59
    | .scatter => d.1.getLsbD 58 && d.1.getLsbD 59
    | .fetch => d.1.getLsbD 60
  let base := bitsOf d.1.toNat 0 57
  if d.1.getLsbD 63 || d.1.getLsbD 57 || bitsOf d.2.toNat 61 3 ≠ 0 then none
  else if !right || !(d.1.getLsbD 61 || smode) then none
  else if !(o + n ≤ bitsOf d.2.toNat 0 61 + 1) then none
  else if d.1.getLsbD 62 then
    let l := base + o
    if l + n ≤ 0x18000 then some (.priv l)
    else if 0x20000 ≤ l && l + n ≤ 0x40000 then some (.shared l)
    else none
  else if base + o + n ≤ 2 ^ 57 then some (.global (base + o))
  else none

/-- R88, R89: alignment and segment checks of an access of n bytes that must be aligned to al. -/
def State.resolve (s : State) (need : Need) (ea : Dword) (n al : Nat) : Except Stop Target :=
  if ea.toNat % al ≠ 0 then .error (.trap causeAlign ea)
  else match segTarget (s.descriptor ea) s.smode need ea n with
    | some t => .ok t
    | none => .error (.trap causeSegv ea)

/-- R89, R230: a record in LS: alignment, and all its bytes in one window; global memory fails as SEGV. -/
def State.resolveLs (s : State) (need : Need) (ea : Dword) (n al : Nat) : Except Stop Target :=
  match s.resolve need ea n al with
  | .error e => .error e
  | .ok (.global _) => .error (.trap causeSegv ea)
  | .ok t => .ok t

/-! ## Local store (R45, R46) -/

/-- A byte of the slot's private window: what was written last, else a free value (log entry 6). -/
def Chunk.lsByte (c : Chunk) (off : Nat) : Byte :=
  match Written.get c.ls off with
  | some b => b
  | none => Config.freshLs c.lsTag off

/-- n bytes of an LS target. -/
def State.lsRead (s : State) (t : Target) (n : Nat) : List Byte :=
  match t with
  | .priv o => (List.range n).map (fun i => s.cpu.lsByte (o + i))
  | .shared o => Memory.getBytes s.thr.shared o n
  | .global _ => []

/-- Writes bytes at an LS target. -/
def State.lsWrite (s : State) (t : Target) (bs : List Byte) : State :=
  match t with
  | .priv o => { s with cpu := { s.cpu with ls := Written.setBytes s.cpu.ls o bs } }
  | .shared o => { s with thr := { s.thr with shared := Memory.setBytes s.thr.shared o bs } }
  | .global _ => s

/-- R46: inside a region the shared window is read-only. -/
def State.sharedLocked (s : State) (t : Target) : Bool :=
  match t with
  | .shared _ => s.openRegion.isSome
  | _ => false

/-- R8: bytes as the thread reads them: those of the memory system, unless its address space is in breach. -/
def State.seen (s : State) (va : Nat) (bs : List Byte) : List Byte :=
  if s.coh.breach.contains s.thr.asid then bs.mapIdx (fun i _ => Config.breachByte s.tick (va + i)) else bs

/-- R8, R45: n bytes of an LS target as the thread reads them. -/
def State.lsSeen (s : State) (t : Target) (n : Nat) : List Byte :=
  match t with
  | .global _ => []
  | .priv o => s.seen (2 ^ 57 + o) (s.lsRead t n)
  | .shared o => s.seen (2 ^ 57 + o) (s.lsRead t n)

/-- Reads n bytes of a record at an LS EA (R89). -/
def State.readRecord (s : State) (ea : Dword) (n al : Nat) : Except Stop (List Byte) :=
  match s.resolveLs .load ea n al with
  | .error e => .error e
  | .ok t => .ok (s.lsSeen t n)

/-! ## Accesses of a ring thread -/

/-- R93: the pieces of n bytes from an address on that each lie in one line; the fuel bounds their number. An aligned EA under a
segment whose BASE is no multiple of the access's size can cross a line's end (log entry 82). -/
def pieces : Nat → Nat → Nat → List (Nat × Nat)
  | 0, _, _ => []
  | fuel + 1, va, n =>
    if n = 0 then []
    else
      let m := min n (64 - va % 64)
      (va, m) :: pieces fuel (va + m) (n - m)

/-- The focused slot to the memory system. -/
def State.who (s : State) : Who := { ring := s.ring, asid := s.thr.asid, core := some s.cpu.core }

/-- R9, R99, R114: a speculative chunk remembers each page that it uses, and whether it writes to it. -/
def State.touch (s : State) (page : Leaf) (va : Nat) (writes : Bool) : State :=
  let here (t : Touch) : Bool := t.page.addr == page.addr && t.vpn == page.vpn va
  match s.older with
  | [] => s
  | _ :: _ =>
    if s.cpu.touches.any (fun t => here t && (t.writes || !writes)) then s
    else { s with cpu := { s.cpu with touches := s.cpu.touches.filter (fun t => !here t) ++ [{ page := page, vpn := page.vpn va, writes := writes }] } }

/-! ### Obligations that nothing checks (R8, log entry 25) -/

/-- R8: what an access shows of a broken obligation takes effect only for the head: a speculative chunk's access waits until it is
head (R9). -/
def State.shown (s : State) (broken : Bool) (f : State → State) : Except Stop State :=
  if !broken then .ok s else if s.isHead then .ok (f s) else .error .wait

/-- R108: whether the page of an access is in use under another COH value: a line of it is cached under one, or a translation names
one. -/
def State.clashes (s : State) (m : Mapped) : Bool :=
  let a := s.homeAddr m.pa
  (m.coh != .trk && s.coh.dir.any (fun d => d.line / 1024 == a / 2 ^ 16 && !d.chain.isEmpty))
    || (m.coh != .siv && s.coh.siv.any (fun x => x.line / 1024 == a / 2 ^ 16))
    || s.coh.tlb.any (fun t =>
        let base := s.homeAddr (t.leaf.mapped (t.vpn * 2 ^ pageBits t.leaf.level)).pa
        pteCoh t.leaf.entry != m.coh && decide (base ≤ a) && decide (a < base + 2 ^ pageBits t.leaf.level))

/-- R108: the page that an access reaches is mapped with two COH values. -/
def State.clash (s : State) (m : Mapped) : State :=
  { s with coh := { s.coh with clash := addNew (s.homeAddr m.pa / 2 ^ 16) s.coh.clash } }

/-- R92: whether a leaf of this thread's address space came from another ROOT than those in force. -/
def staleRoot (roots : List Dword) (page : Leaf) : Bool := !roots.contains page.root && !page.global

/-- R113: whether a write goes through a leaf of a page that a die still holds as replicated: it was made writable too early. -/
def State.collapsing (s : State) (need : Need) (page : Leaf) : Bool :=
  let old (f : Leaf) : Bool := f.addr == page.addr && f.rep.isSome
  need.writes && page.rep.isNone
    && (s.coh.tlb.any (fun t => old t.leaf) || s.coh.dir.any (fun d => d.chain.any (fun m => old m.page)) || s.coh.siv.any (fun x => old x.page))

/-- What a translated access of the focused thread leaves behind. -/
def State.reached (s : State) (need : Need) (va : Nat) (m : Mapped) : Except Stop State :=
  match (s.touch m.page va need.writes).shown (s.clashes m) (fun t => t.clash m) with
  | .error e => .error e
  | .ok t => t.shown (staleRoot [s.thr.pgroot] m.page || s.collapsing need m.page) (fun t => t.breach s.thr.asid)

/-- R388: the bytes that an access reaches. -/
def State.extent (s : State) (va n : Nat) (m : Mapped) : Extent := { pa := s.homeAddr m.pa, va := va, n := n }

/-- R388: whether two accesses share a physical byte that they reach at different virtual addresses. -/
def Extent.crosses (a b : Extent) : Bool := decide (a.pa < b.pa + b.n) && decide (b.pa < a.pa + a.n) && a.va + b.pa != b.va + a.pa

/-- R388: whether these writes and reads, made in an open region, break its rule among themselves or with what is committed there. -/
def Region.aliased (g : Region) (writes reads : List Extent) : Bool :=
  writes.any (fun w => (writes ++ g.wrote ++ reads ++ g.read).any w.crosses) || reads.any (fun r => g.wrote.any r.crosses)

/-- R388: an open region remembers what its head has stored and read, or its chunks that become head. -/
def Region.note (g : Region) (writes reads : List Extent) : Region :=
  { g with wrote := writes.foldl (fun l w => addNew w l) g.wrote, read := reads.foldl (fun l r => addNew r l) g.read }

/-- R388: writes and reads of the head, or of a chunk that becomes head, looked at for aliases and remembered. -/
def State.unaliased (s : State) (writes reads : List Extent) : State :=
  match s.openRegion with
  | none => s
  | some g =>
    let t : State := { s with thr := { s.thr with region := some (g.note writes reads) } }
    if g.aliased writes reads then t.breach s.thr.asid else t

/-- R388: what the focused chunk has written is looked at, once it is head: a speculative chunk's stores and updates wait for that (R9). -/
def State.noteWrote (s : State) (va n : Nat) (m : Mapped) : State := if s.isHead then s.unaliased [s.extent va n m] [] else s

/-- R388: what the focused chunk has read is looked at now for the head, and when it becomes head for another one (R9). -/
def State.noteLoaded (s : State) (va n : Nat) (m : Mapped) : State :=
  if s.isHead then s.unaliased [] [s.extent va n m]
  else { s with cpu := { s.cpu with loads := addNew (s.extent va n m) s.cpu.loads } }

/-- R224: whether a VA of an address space lies in an SIV page. -/
def State.inSiv (s : State) (root : Dword) (va : Nat) : Bool :=
  (s.peekFrom 0 root va 4 0 (bitsOf root.toNat 16 36 * 2 ^ 16)).any (fun f => pteCoh f.entry == .siv)

/-- A doubleword of an address space as memory holds it, reached without any effect; none where none is reached. -/
def State.peekWord (s : State) (root : Dword) (va : Nat) : Option Nat := (s.peek root va 8).map leNat

/-- R224, R226: whether a program's write of bytes of its address space breaks what the message units rely on: it writes COUNT or TAKEN
of a bound mailbox that is open, changes its SLOTS or SLOTSZ, or changes its CAP while it holds a message or one for it is parked, or it
writes the STATE word of a parked entry (log entry 25). -/
def State.ownedByUnit (s : State) (va : Nat) (bs : List Byte) : Bool :=
  let meets (a k : Nat) : Bool := decide (a < va + bs.length) && decide (va < a + k)
  let word (a : Nat) : Nat := (s.peekWord s.thr.pgroot a).getD 0
  let changes (a k : Nat) : Bool := (List.range k).any (fun i =>
    decide (va ≤ a + i) && decide (a + i < va + bs.length) && some (bs.getD (a + i - va) 0) != (s.peek s.thr.pgroot (a + i) 1).bind List.head?)
  s.host.endpoints.any (fun e => e.asid == s.thr.asid && (List.range 4).any (fun i =>
      let a := e.base.toNat + 64 * i
      word (a + 24) % 2 ^ 16 != 0
        && (meets a 16 || changes (a + 16) 8 || changes (a + 26) 2
          || (changes (a + 24) 2 && (word a != word (a + 8)
            || s.host.parked.any (fun p => p.pkg == s.plat.pkid.toNat && p.ep == e.ep && p.mbox == i))))))
    || s.host.parked.any (fun p => s.threads.any (fun t => t.lid == p.lid && t.tix == p.tix && t.asid == s.thr.asid
        && meets (bitsOf t.parkr.toNat 6 51 * 64 + 64 + 4160 * p.entry) 8))

/-- R299: whether a program's write to n bytes at an offset of the private window meets the spill area of the slot's bank, which the
array alone writes while a context is installed. -/
def State.inSpill (s : State) (off n : Nat) : Bool :=
  match s.cpu.bank.bind (fun b => b.fmt) with
  | none => false
  | some f =>
    let o := bitsOf (s.descriptor (field64 f 16)).1.toNat 0 57 + field f 16 8 % 2 ^ 61
    let size := if field f 24 4 = 0 then 0 else 8 + 4 * field f 24 4
    decide (o < off + n) && decide (off < o + size)

/-- Translates for the focused thread. -/
def State.trans (s : State) (stream : Stream) (need : Need) (va : Nat) : Except Stop (Mapped × State) :=
  match s.translate s.ring s.thr.asid s.thr.pgroot s.smode (!s.isHead) stream need va with
  | .error e => .error e
  | .ok (m, t) =>
    match t.reached need va m with
    | .error e => .error e
    | .ok u => .ok (m, u)

/-- R115: the translation that an access which has waited at a home still holds. -/
def heldLeaf (held : List (Nat × Leaf)) (smode spec : Bool) (need : Need) (va : Nat) : Option Mapped :=
  (held.find? (fun h => h.1 == h.2.vpn va && (leafProt h.2 smode need va).isNone && (spec || h.2.marked need))).map (fun h => h.2.mapped va)

/-- R100: where a VA leads for the focused thread: a line that its ring's cache holds needs no translation, and an access that has
waited keeps its own (R115). -/
def State.reach (s : State) (stream : Stream) (need : Need) (va : Nat) : Except Stop (Mapped × State) :=
  match (s.lineHit s.who s.smode (!s.isHead) need va).or (heldLeaf s.cpu.held s.smode (!s.isHead) need va) with
  | some m =>
    match s.reached need va m with
    | .error e => .error e
    | .ok t => .ok (m, t)
  | none => s.trans stream need va

/-- R89: reaches every piece of an access, in ascending order. -/
def State.reachAll (s : State) (stream : Stream) (need : Need) : List (Nat × Nat) → Except Stop State
  | [] => .ok s
  | (va, _) :: r =>
    match s.reach stream need va with
    | .error e => .error e
    | .ok (_, s) => s.reachAll stream need r

/-- R115: the stop of an access at its home, with the translation that it came through. -/
def Stop.through (page : Leaf) (va : Nat) : Stop → Stop
  | .queue (.home a _) => .queue (.home a (some (page.kept va)))
  | e => e

/-- R89, R102: an error response as an access with this need to a page sees it; a request that waits keeps its translation. -/
def respond (page : Leaf) (need : Need) (va : Nat) : Stop → Stop
  | .noMemory pa c => .logged causePfault (faultInfo (pteRep page.entry) false need 3 va) pa c
  | e => e.through page va

/-- R34: the bytes of a version at a VA, the newest first in the list. -/
def verGet (l : List VerByte) (va : Nat) : Option Byte := (l.find? (fun v => v.va == va)).map (fun v => v.val)

/-- R34: the newest version of a byte that an older chunk holds, with that chunk's number. -/
def State.olderVersion (s : State) (va : Nat) : Option (Byte × Nat) :=
  s.older.reverse.findSome? (fun c => (verGet c.ver va).map (fun b => (b, c.num)))

/-- R34: a byte as a speculative chunk's load sees it: its own version, else the newest of an older chunk, else the
committed byte. -/
def State.specByte (s : State) (va : Nat) (committed : Byte) : Byte :=
  match verGet s.cpu.ver va with
  | some b => b
  | none =>
    match s.olderVersion va with
    | some b => b.1
    | none => committed

/-- R34: the words on which a load sets read bits: those that the chunk's own stores do not supply whole. -/
def State.readBits (s : State) (va n : Nat) : List Nat :=
  let words := (List.range ((va + n - 1) / 8 - va / 8 + 1)).map (fun i => va / 8 + i)
  words.filter (fun w => (List.range n).any (fun i => (va + i) / 8 == w && (verGet s.cpu.ver (va + i)).isNone))

/-- R36: a speculative chunk's fill or store may find every way of its set holding speculative versions; the geometry of
L1 is not given, so whether it does is free once such versions exist (log entry 27). -/
def State.capacityStall (s : State) : Bool :=
  !s.isHead && (s.cpu :: s.older.tail ++ s.younger).any (fun c => c.core == s.cpu.core && !c.ver.isEmpty) && Config.l1Full s.tick

/-- Whether a held update record of these chunks touches one of the n bytes (R37). -/
def updated (cs : List Chunk) (va n : Nat) : Bool :=
  cs.any (fun c => c.upds.any (fun u => u.va < va + n && va < u.va + u.bytes))

/-- R118: what the focused core's L1 answers by itself: an orphaned line of the alias, as long as it is there (log entry 23)
and its page allows the load. -/
def State.orphanRead (s : State) (va n : Nat) : Option (List Byte × Mapped) :=
  match orphanFind s.coh.l1 s.who va with
  | none => none
  | some o =>
    if Config.orphanHeld s.tick && (leafProt o.page s.smode .load va).isNone && (!s.isHead || o.page.marked .load) then
      some ((o.data.drop (va % 64)).take n, o.page.mapped va)
    else none

/-- R118: an orphaned line that a load of its core no longer meets has been evicted from L1. -/
def State.orphanGone (s : State) (va : Nat) : State :=
  match orphanFind s.coh.l1 s.who va with
  | none => s
  | some o => { s with coh := { s.coh with l1 := s.coh.l1.filter (fun l => l != o) } }

/-- The committed bytes of a load within one line, and where they lie: from an orphaned L1 line, else through the ring's cache, whose
TRK line then fills the core's L1 (R93, R118). -/
def State.committed (s : State) (stream : Stream) (va n : Nat) : Except Stop (List Byte × Mapped × State) :=
  match s.orphanRead va n with
  | some (bs, m) =>
    match s.reached .load va m with
    | .error e => .error e
    | .ok t => .ok (t.held (t.homeAddr m.pa) bs, m, t)
  | none =>
    match (s.orphanGone va).reach stream .load va with
    | .error e => .error e
    | .ok (m, t) =>
      match t.cachedRead s.who va m n with
      | .error e => .error (respond m.page .load va e)
      | .ok (bs, t) => .ok (bs, m, if m.coh = .trk then t.l1Fill s.who va m else t)

/-- R126: the bytes that a speculative chunk's load has observed and its own stores do not supply; of bytes that an orphaned line has
answered, those that older chunks' versions supply, since R118 exempts the others. -/
def State.observed (s : State) (va : Nat) (orphan : Bool) (bs : List Byte) : List SeenByte :=
  (bs.zipIdx).filterMap (fun x =>
    if (verGet s.cpu.ver (va + x.2)).isSome then none
    else match s.olderVersion (va + x.2) with
      | some b => some { va := va + x.2, val := b.1, src := b.2 }
      | none => if orphan then none else some { va := va + x.2, val := x.1, src := 0 })

/-- R34, R126, R127: what a speculative chunk's load of committed bytes leaves in the chunk: its read bits, what it has observed, and that
it has loaded. -/
def State.noteRead (s : State) (va n : Nat) (saw : List SeenByte) : State :=
  { s with cpu := { s.cpu with
      reads := (s.readBits va n).foldl (fun l w => addNew w l) s.cpu.reads
      seen := saw.foldl (fun l b => addNew b l) s.cpu.seen
      loaded := true } }

/-- R126: whether a younger chunk's earlier load of a byte of committed memory has observed another value than this one, which an older
load reads now; a byte whose store notice is on its way to it is left to the notice (R35). -/
def Chunk.outdated (c : Chunk) (num va : Nat) (b : Byte) : Bool :=
  c.seen.any (fun x => x.va == va && decide (x.src ≤ num) && x.val != b) && !c.inbox.contains (va / 8)

/-- R125, R126, R131, R139: the focused chunk has read committed bytes: a younger chunk that has read one of them earlier, with another
value, would read backwards in the coherence order, and is squashed with those younger than it (log entry 98). -/
def State.squashOutdated (s : State) (va : Nat) (bs : List Byte) : State :=
  let fresh := (bs.zipIdx).filter (fun x => s.isHead || ((verGet s.cpu.ver (va + x.2)).isNone && (s.olderVersion (va + x.2)).isNone))
  match s.younger.findIdx? (fun c => fresh.any (fun x => c.outdated s.cpu.num (va + x.2) x.1)) with
  | none => s
  | some i => s.squashFrom i

/-- A load of n bytes that lie in one line, at a VA already checked for its segment (R34, R89, R99, R102). A speculative
chunk that would read a word under a held update record waits until head (R37, log entry 30). -/
def State.loadVa (s : State) (stream : Stream) (va n : Nat) : Except Stop (List Byte × State) :=
  if s.capacityStall then .error .capacity
  else if !s.isHead && updated (s.cpu :: s.older) va n then .error .wait
  else match s.committed stream va n with
  | .error e => .error e
  | .ok (bs, m, t) =>
    let orphan := (s.orphanRead va n).isSome
    let t := t.noteLoaded va n m
    let t := if orphan then t else t.squashOutdated va bs
    if s.isHead then .ok (t.seen va bs, t)
    else .ok (t.seen va (bs.mapIdx (fun i b => s.specByte (va + i) b)), t.noteRead va n (s.observed va orphan bs))

/-- R127: a speculative chunk remembers that it has executed a load. -/
def State.noteLoad (s : State) : State := if s.isHead then s else { s with cpu := { s.cpu with loaded := true } }

/-- The thread's loads of these pieces, joined. -/
def State.loadPieces (s : State) (stream : Stream) : List (Nat × Nat) → Except Stop (List Byte × State)
  | [] => .ok ([], s)
  | (va, n) :: r =>
    match s.loadVa stream va n with
    | .error e => .error e
    | .ok (bs, s) =>
      match s.loadPieces stream r with
      | .error e => .error e
      | .ok (more, s) => .ok (bs ++ more, s)

/-- R86-R89: a load of n bytes at an EA, aligned to al. -/
def State.load (s : State) (stream : Stream) (ea : Dword) (n al : Nat) : Except Stop (List Byte × State) :=
  match s.resolve .load ea n al with
  | .error e => .error e
  | .ok (.global va) =>
    match s.loadPieces stream (pieces (n / 64 + 2) va n) with
    | .error e => .error e
    | .ok (bs, t) => .ok (bs, t.noteLoad)
  | .ok t => .ok (s.lsSeen t n, s.noteLoad)

/-- R34, R35: a store sends a notice for its words to every younger chunk. -/
def State.notify (s : State) (va n : Nat) : State :=
  if s.younger.isEmpty then s
  else
    let words := (List.range ((va + n - 1) / 8 - va / 8 + 1)).map (fun i => va / 8 + i)
    { s with younger := s.younger.map (fun c => { c with inbox := c.inbox ++ words }) }

/-- R41: a store by a chunk older than the issuer of a SNAP copy to its range squashes that issuer and every younger
chunk. -/
def State.snapCheck (s : State) (va n : Nat) : State :=
  match s.younger.findIdx? (fun c => s.thr.snaps.any (fun r => r.chunk == c.num && r.lo < va + n && va < r.hi)) with
  | none => s
  | some i => (s.squashFrom i).spec 6 1

/-- R383: a plain store or scatter element that meets an error response is discarded: logged, and a KIND 7 event. -/
def State.discardStore (s : State) (pa code : Nat) : State :=
  let s := s.logError pa (srcCode 0 s.thr.asid s.ring) code
  let (q, tag) := s.launchTag s.thr.lid
  s.post (eventRecord s 7 q s.thr.lid s.thr.tix 0 0 0 (BitVec.ofNat 64 pa) tag)

/-- A committed store of a thread's bytes at a translated address, one request (R39, R104, R108, R383). -/
def State.commitStore (s : State) (va : Nat) (m : Mapped) (bs : List Byte) : Except Stop State :=
  match s.cachedWrite s.who va m bs with
  | .error (.noMemory pa c) => .ok (s.discardStore pa c)
  | .error e => .error (e.through m.page va)
  | .ok s => .ok (State.noteWrote { s with thr := { s.thr with unacked := s.thr.unacked + 1 } } va bs.length m)

/-- R34: a speculative chunk's store goes into its version, and is remembered as one request for its commit. -/
def State.version (s : State) (va : Nat) (m : Mapped) (bs : List Byte) : State :=
  let ver := bs.mapIdx (fun i b => { va := va + i, val := b : VerByte })
  { s with cpu := { s.cpu with
      ver := ver ++ s.cpu.ver.filter (fun (v : VerByte) => !(decide (va ≤ v.va) && decide (v.va < va + bs.length)))
      stores := s.cpu.stores ++ [{ va := va, dest := m, data := bs }] } }

/-- A store of bytes that lie in one line, at a VA already checked for its segment (R34-R36, R39). -/
def State.storeVa (s : State) (stream : Stream) (va : Nat) (bs : List Byte) : Except Stop State :=
  if s.capacityStall then .error .capacity
  else if !s.isHead && updated [s.cpu] va bs.length then .error .wait
  else match s.reach stream .store va with
  | .error e => .error e
  | .ok (m, s) =>
    if s.isHead then
      match s.commitStore va m bs with
      | .error e => .error e
      | .ok s => .ok ((s.notify va bs.length).snapCheck va bs.length)
    else .ok (((s.version va m bs).notify va bs.length).snapCheck va bs.length)

/-- The thread's stores of bytes to these pieces. -/
def State.storePieces (s : State) (stream : Stream) (bs : List Byte) : List (Nat × Nat) → Except Stop State
  | [] => .ok s
  | (va, n) :: r =>
    match s.storeVa stream va (bs.take n) with
    | .error e => .error e
    | .ok s => s.storePieces stream (bs.drop n) r

/-- R224, R226: a program's write of bytes to global memory, looked at for what the message units own. -/
def State.owned (s : State) (va : Nat) (bs : List Byte) : Except Stop State := s.shown (s.ownedByUnit va bs) (fun t => t.breach s.thr.asid)

/-- R299: a program's write to LS, looked at for the spill area. -/
def State.lsStore (s : State) (t : Target) (bs : List Byte) : Except Stop State :=
  match s.shown (match t with | .priv o => s.inSpill o bs.length | _ => false) (fun t => t.breach s.thr.asid) with
  | .error e => .error e
  | .ok u => .ok (u.lsWrite t bs)

/-- R86-R89: a store of bytes at an EA, aligned to al. -/
def State.store (s : State) (stream : Stream) (ea : Dword) (bs : List Byte) (al : Nat) : Except Stop State :=
  match s.resolve .store ea bs.length al with
  | .error e => .error e
  | .ok (.global va) =>
    match s.owned va bs with
    | .error e => .error e
    | .ok s => s.storePieces stream bs (pieces (bs.length / 64 + 2) va bs.length)
  | .ok t => if s.sharedLocked t then .error (.trap causeSegv ea) else s.lsStore t bs

/-- R125: a read-modify-write of n bytes that lie in one line, at a VA already checked for its segment. -/
def State.rmwLine (s : State) (need : Need) (va n : Nat) (f : Nat → Option Nat) : Except Stop (Nat × State) :=
  match s.reach .gather need va with
  | .error e => .error e
  | .ok (m, s) =>
    match s.rmwAt s.who va m n f with
    | .error e => .error (if need = .rmw then respond m.page need va e else e.through m.page va)
    | .ok (old, t) =>
      let t := (t.noteLoaded va n m).squashOutdated va (leBytes n old)
      .ok (old, if (f old).isSome then t.noteWrote va n m else t)

/-- R125: a read-modify-write whose first k bytes end a line: both parts are read, then both are written, in one step (log entry
82). -/
def State.rmwAcross (s : State) (need : Need) (va k n : Nat) (f : Nat → Option Nat) : Except Stop (Nat × State) :=
  match s.rmwLine need va k (fun _ => none) with
  | .error e => .error e
  | .ok (lo, s) =>
    match s.rmwLine need (va + k) (n - k) (fun _ => none) with
    | .error e => .error e
    | .ok (hi, s) =>
      let old := lo + hi * 2 ^ (8 * k)
      match f old with
      | none => .ok (old, s)
      | some v =>
        match s.rmwLine need va k (fun _ => some (v % 2 ^ (8 * k))) with
        | .error e => .error e
        | .ok (_, s) =>
          match s.rmwLine need (va + k) (n - k) (fun _ => some (v / 2 ^ (8 * k))) with
          | .error e => .error e
          | .ok (_, s) => .ok (old, s)

/-- A read-modify-write of n bytes, at most a line, at a VA already checked for its segment. -/
def State.rmwVa (s : State) (need : Need) (va n : Nat) (f : Nat → Option Nat) : Except Stop (Nat × State) :=
  if va % 64 + n ≤ 64 then s.rmwLine need va n f else s.rmwAcross need va (64 - va % 64) n f

/-- An atomic read-modify-write of n bytes at an EA by the head (R195, R196, R104): f gives the new value, or none to
write nothing. The old value is returned. -/
def State.rmw (s : State) (ea : Dword) (n : Nat) (f : Nat → Option Nat) : Except Stop (Nat × State) :=
  match s.resolve .rmw ea n n with
  | .error e => .error e
  | .ok (.global va) =>
    match s.rmwVa .rmw va n f with
    | .error e => .error e
    | .ok (old, t) =>
      match f old with
      | none => .ok (leNat (t.seen va (leBytes n old)), t)
      | some v =>
        let t := if s.ownedByUnit va (leBytes n v) then t.breach s.thr.asid else t
        .ok (leNat (t.seen va (leBytes n old)), (t.notify va n).snapCheck va n)
  | .ok t =>
    let old := leNat (s.lsSeen t n)
    if s.sharedLocked t then .error (.trap causeSegv ea)
    else match f old with
      | none => .ok (old, s)
      | some v =>
        match s.lsStore t (leBytes n v) with
        | .error e => .error e
        | .ok u => .ok (old, u)

/-! ## Acquires and releases (R107, R118, R127) -/

/-- R127: an acquire squashes every younger chunk from the first that has executed a load. -/
def State.squashLoaded (s : State) : State :=
  match s.younger.findIdx? (fun c => c.loaded) with
  | none => s
  | some i => s.squashFrom i

/-- The effects of an acquire by the head (R107, R118, R127). -/
def State.acquire (s : State) (scope : Nat) : Except Stop State :=
  match s.sivAcquire s.ring scope with
  | .error e => .error e
  | .ok t => .ok t.squashLoaded

/-- The effects of a release by the head (R107). -/
def State.release (s : State) (scope : Nat) : Except Stop State := s.sivRelease s.ring scope

/-- An operation that stops or goes on, followed by another one. -/
def andThen (r : Except Stop State) (f : State → Except Stop State) : Except Stop State :=
  match r with
  | .error e => .error e
  | .ok s => f s

/-- The result of a body whose last operation may stop. -/
def Res.after (s : State) (r : Except Stop State) (k : State → State) : Res :=
  match r with
  | .error e => Res.ofStop s e
  | .ok t => .done (k t)

/-! ## Waiting -/

/-- Parks the focused slot, or leaves it parked since its first issue (R16). -/
def State.parkAs (s : State) (kind : ParkKind) (d : Reg) (a b : Dword) (c : Nat) (st : BitVec 2 := 0) : State :=
  let p : Park := { kind := kind, since := s.cyc, d := d, a := a, b := b, c := c, st := st }
  if s.cpu.park.any (fun q => q.kind == kind) then s else { s with cpu := { s.cpu with park := some p } }

/-- The cycle at which the instruction parked in the slot was issued; now, when it is not parked. -/
def State.parkedSince (s : State) : Nat :=
  match s.cpu.park with
  | some p => p.since
  | none => s.cyc

/-- R216, R287: whether a limit in cycles has passed since the issue of the parked instruction; 0 means no limit. -/
def State.limitPassed (s : State) (lim : Dword) : Bool := lim != 0 && decide (lim.toNat ≤ s.cyc - s.parkedSince)

/-- R152: the ST field of the instruction parked in the slot. -/
def State.parkedSt (s : State) : Nat :=
  match s.cpu.park with
  | some p => p.st.toNat
  | none => 0

/-- R29: the CMASK that the completion of a parked instruction which writes X[D] raises, if it raises one: nothing of its effect
is done then. -/
def State.parkedCmask (s : State) (d : Reg) : Option State :=
  (s.cmaskOf [.x d]).map (fun r => State.raise { s with cpu := { s.cpu with park := none } } causeCmask (BitVec.ofNat 64 r))

/-- A parked instruction completes with X[D] := v, after 1 + ST turns (R16, R29, R153). -/
def State.finishParked (s : State) (d : Reg) (v : Dword) : State :=
  match s.parkedCmask d with
  | some t => t
  | none =>
    let t := ((State.wx { s with cpu := { s.cpu with park := none, held := [] } } d v).noteWrites [.x d]).advance
    { t with cpu := { t.cpu with turn := t.cpu.turn + 1 + s.parkedSt } }

end Sys2Proof.Machine
end

