-- ==== Sys2Proof/Machine/Flags.lean ====
section
/-! DEFINITION. The exception flags (R77-R79) and the rounding modes and keys that instructions use (R62, R67, R240).
-/

namespace Sys2Proof.Machine

/-- R77, R79: ORs flags into the chunk's own accumulation. -/
def State.addFlags (s : State) (f : BitVec 7) : State := { s with cpu := { s.cpu with fflags := s.cpu.fflags ||| f } }

/-- R79: fflags as the head reads it. -/
def State.readFlags (s : State) : BitVec 7 := s.thr.fflags ||| s.cpu.fflags

/-- R62: the mode of a scalar FP instruction: its field, where 7 selects stat.FRM. -/
def State.scalarMode (s : State) (r : BitVec 3) : Nat := if r = 7 then statFrm s.cpu.stat else r.toNat

/-- R62, R158: ILLOP, with the word, when a mode code is 6 or 7. -/
def modeCheck (s : State) (m : Nat) : Option (Byte × Dword) := if 6 ≤ m then some (causeIllop, s.irInfo) else none

/-- R158: the check of a scalar rounding mode. -/
def scalarModeCheck (r : BitVec 3) (s : State) : Option (Byte × Dword) := modeCheck s (s.scalarMode r)

/-- R240, R158: the check of stat.VRM. -/
def vrmCheck (s : State) : Option (Byte × Dword) := modeCheck s (statVrm s.cpu.stat)

/-- R67: the rounding of a scalar instruction: key sbase. -/
def State.scalarRnd (s : State) (r : BitVec 3) : Rnd := { mode := s.scalarMode r, key := s.cpu.sbase, seed := s.cpu.seed }

/-- R67, R240: the rounding of element i of a vector instruction: key sbase + i. -/
def State.vecRnd (s : State) (i : Nat) : Rnd :=
  { mode := statVrm s.cpu.stat, key := s.cpu.sbase + BitVec.ofNat 64 i, seed := s.cpu.seed }

/-- R185: the registers a scalar rounding reads. -/
def roundReads (r : BitVec 3) : List RegName := if r = 7 then [.frm, .sbase, .seed] else [.sbase, .seed]

end Sys2Proof.Machine
end

