-- ==== Sys2Proof/Machine/Operands.lean ====
section
/-! DEFINITION. The operand forms: immediates and addresses of the scalar formats (R143, R190), and the elements, masks
and FORM operands of the vector formats (R144, R235-R239, R249, R252).
-/

namespace Sys2Proof.Machine

/-- R143: a sign-extended immediate. -/
def imm16 (i : BitVec 16) : Dword := i.signExtend 64
/-- R143: a zero-extended immediate. -/
def uimm16 (i : BitVec 16) : Dword := i.setWidth 64
/-- R143: a Brc offset in bytes. -/
def off13 (o : BitVec 13) : Dword := o.signExtend 64 <<< 2
/-- R143: a Jmp offset in bytes. -/
def off21 (o : BitVec 21) : Dword := o.signExtend 64 <<< 2

/-- R235: the width in bits of a width code. -/
def ewBits (e : BitVec 2) : Nat := 8 * 2 ^ e.toNat

/-- R235: element i of a vector register at width w. -/
def velem (w : Nat) (v : VReg) (i : Nat) : Nat := bitsOf v.toNat (w * i) w

/-- The number whose w-bit digits, n of them, g gives. -/
def digits (w : Nat) (g : Nat → Nat) : Nat → Nat
  | 0 => 0
  | n + 1 => digits w g n + g n % 2 ^ w * 2 ^ (w * n)

/-- A vector register with some elements replaced (R237): f gives the new ones. -/
def vupdate (w : Nat) (old : VReg) (f : Nat → Option Nat) : VReg :=
  BitVec.ofNat 4096 (digits w (fun i => (f i).getD (velem w old i)) (4096 / w))

/-- A mask register with some bits replaced (R250): f gives the new ones. -/
def kupdate (old : KReg) (f : Nat → Option Bool) : KReg :=
  BitVec.ofNat 512 (digits 1 (fun i => ((f i).getD (old.getLsbD i)).toNat) 512)

/-- V[n] as a base for a partial write: what the register holds once every earlier result is written (R154, R237, R243). -/
def State.vbase (s : State) (n : Reg) : VReg := if s.cpu.vdead.getLsbD n.toNat then 0 else s.cpu.v.get n.toFin

/-- K[n] as a base for a partial write. -/
def State.kbase (s : State) (n : KIdx) : KReg := s.cpu.k.get n.toFin

/-- R236: E at a widest element width. -/
def State.elems (s : State) (wmax : Nat) : Nat := min s.cpu.vl.toNat (4096 / wmax)

/-- R144: the mask register that KM names, none for unmasked. -/
def kmReg (k : BitVec 2) : Option KIdx := if k = 0 then none else some (k.setWidth 3)

/-- R236: whether element i is active. -/
def State.active (s : State) (k : BitVec 2) (e i : Nat) : Bool :=
  decide (s.cpu.vstart.toNat ≤ i) && decide (i < e)
    && (match kmReg k with
        | none => true
        | some n => (s.rk n).getLsbD i)

/-- The mask register read through KM. -/
def kmReads (k : BitVec 2) : List RegName :=
  match kmReg k with
  | none => []
  | some n => [.k n]

/-- R236: what every masked vector instruction reads. -/
def vecReads (k : BitVec 2) : List RegName := [.vl, .vstart] ++ kmReads k

/-- R144: the register that operand B names under a FORM. -/
def formReads (f : BitVec 2) (b : Reg) : List RegName :=
  if f = 0 then [.v b] else if f = 1 then [.x b] else []

/-- R144, R249: operand b of element i at width w. -/
def State.formInt (s : State) (f : BitVec 2) (b : Reg) (w i : Nat) : Nat :=
  if f = 0 then velem w (s.rv b) i
  else if f = 1 then (s.rx b).toNat % 2 ^ w
  else wrap w b.toInt

/-- R252: the format of majors 0x34-0x36. -/
def fpFmt (e : BitVec 2) : Fmt := if e = 0 then bf16 else if e = 1 then fp32 else fp64

/-- R252: operand b of element i in a format. -/
def State.formFp (s : State) (f : BitVec 2) (b : Reg) (fm : Fmt) (i : Nat) : Nat :=
  if f = 0 then velem fm.width (s.rv b) i
  else if f = 1 then (s.rx b).toNat % 2 ^ fm.width
  else (ofIntFmt fm rne b.toInt).1

/-- R376: the pwrgrant register of the focused ring's die. -/
def State.pwrgrant (s : State) : Dword :=
  match s.plat.dies.toList[dieOf s.ring]? with
  | some d => BitVec.ofNat 64 (4 * d.level + d.level / 2)
  | none => 0

/-- V[D] with the elements below e that are active replaced (R237): f gives their new values at width w. That this is a write of V[D],
which ends a dead mark and is looked at for CMASK, also where no element is active, is the model's choice (log entry 101). -/
def State.vput (s : State) (w e : Nat) (d : Reg) (k : BitVec 2) (f : Nat → Nat) : State :=
  s.wv d (vupdate w (s.vbase d) (fun i => if s.active k e i then some (f i) else none))

/-- K[D] with the bits below e of active elements replaced (R250). -/
def State.kput (s : State) (e : Nat) (d : KIdx) (k : BitVec 2) (f : Nat → Bool) : State :=
  s.wk d (kupdate (s.kbase d) (fun i => if s.active k e i then some (f i) else none))

/-- R238: completion of a vector instruction: vstart := 0 and the next instruction. -/
def State.vdone (s : State) : State := State.advance { s with cpu := { s.cpu with vstart := 0 } }

/-- R238: ILLSTATE, with vstart, for a whole-vector instruction issued with vstart not zero. -/
def wholeCheck (s : State) : Option (Byte × Dword) :=
  if s.cpu.vstart = 0 then none else some (causeIllstate, s.cpu.vstart.setWidth 64)

/-- R78: the flags of the elements that p selects, below n. -/
def orFlags (p : Nat → Bool) (g : Nat → BitVec 7) : Nat → BitVec 7
  | 0 => 0
  | n + 1 => if p n then orFlags p g n ||| g n else orFlags p g n

/-- The first of two checks that fails (R158). -/
def bothChecks (a b : State → Option (Byte × Dword)) (s : State) : Option (Byte × Dword) :=
  match a s with
  | some r => some r
  | none => b s

end Sys2Proof.Machine
end

