-- ==== Sys2Proof/Machine/Integer.lean ====
section
/-! DEFINITION. Integer instructions: majors 0x01 to 0x0C (R173-R183).
-/

namespace Sys2Proof.Machine

/-- R173, R174: a scalar instruction of latency one turn that only writes X[D]. -/
def scalar (d : Reg) (reads : List RegName) (f : State → Dword) (s : State) : Host.Outcome State Fault Refusal :=
  issue { reads := reads, writes := [.x d] } noEarly (fun s => .done (s.wx d (f s)).advance) s

/-- R173: X[D] := f(X[A], X[B]). -/
def scalarAB (d a b : Reg) (f : Dword → Dword → Dword) (s : State) : Host.Outcome State Fault Refusal :=
  scalar d [.x a, .x b] (fun s => f (s.rx a) (s.rx b)) s

/-- R173: X[D] := f(X[A]). -/
def scalarA (d a : Reg) (f : Dword → Dword) (s : State) : Host.Outcome State Fault Refusal :=
  scalar d [.x a] (fun s => f (s.rx a)) s

/-- R175, R182: a divide or remainder: interlocked, and it holds its slot until its result is written. -/
def longAB (d a b : Reg) (f : Dword → Dword → Dword) (s : State) : Host.Outcome State Fault Refusal :=
  issue { reads := [.x a, .x b], writes := [.x d], flight := some .long } noEarly
    (fun s => .done (s.wx d (f (s.rx a) (s.rx b))).advance) s

/-- Sext(v, 32) of R6. -/
def sext32 (v : Dword) : Dword := (v.setWidth 32).signExtend 64

/-- A condition as a 64-bit integer. -/
def boolDword (c : Bool) : Dword := if c then 1 else 0

/-- R176: b[5:0]. -/
def sh6 (b : Dword) : Nat := b.toNat % 64
/-- R176: b[4:0]. -/
def sh5 (b : Dword) : Nat := b.toNat % 32

/-- R182: signed Quot at width w. -/
def quotS (w : Nat) (n d : BitVec w) : BitVec w :=
  if d = 0 then BitVec.allOnes w
  else if n = BitVec.intMin w ∧ d = BitVec.allOnes w then n
  else BitVec.ofInt w (n.toInt.tdiv d.toInt)

/-- R182: unsigned Quot. -/
def quotU (n d : Dword) : Dword := if d = 0 then BitVec.allOnes 64 else BitVec.ofNat 64 (n.toNat / d.toNat)

/-- R182: signed Rem at width w. -/
def remS (w : Nat) (n d : BitVec w) : BitVec w :=
  if d = 0 then n
  else if n = BitVec.intMin w ∧ d = BitVec.allOnes w then 0
  else BitVec.ofInt w (n.toInt.tmod d.toInt)

/-- R182: unsigned Rem. -/
def remU (n d : Dword) : Dword := if d = 0 then n else BitVec.ofNat 64 (n.toNat % d.toNat)

/-- R183: leading zero bits. -/
def leadingZeros (a : Dword) : Dword := if a = 0 then 64 else BitVec.ofNat 64 (63 - Nat.log2 a.toNat)

/-- R183: trailing zero bits. -/
def trailingZeros (a : Dword) : Dword := BitVec.ofNat 64 (((List.range 64).find? (fun i => a.getLsbD i)).getD 64)

/-- R183: byte j moved to byte 7 - j. -/
def byteSwap (a : Dword) : Dword := BitVec.ofNat 64 (leNat (leBytes 8 a.toNat).reverse)

/-- R176: X[D] := a + b. -/
def execAdd (d a b : Reg) (s : State) : Host.Outcome State Fault Refusal :=
  scalarAB d a b (fun a b => a + b) s

/-- R176: X[D] := a - b. -/
def execSub (d a b : Reg) (s : State) : Host.Outcome State Fault Refusal :=
  scalarAB d a b (fun a b => a - b) s

/-- R176: X[D] := a AND b. -/
def execAnd (d a b : Reg) (s : State) : Host.Outcome State Fault Refusal :=
  scalarAB d a b (fun a b => a &&& b) s

/-- R176: X[D] := a OR b. -/
def execOr (d a b : Reg) (s : State) : Host.Outcome State Fault Refusal :=
  scalarAB d a b (fun a b => a ||| b) s

/-- R176: X[D] := a XOR b. -/
def execXor (d a b : Reg) (s : State) : Host.Outcome State Fault Refusal :=
  scalarAB d a b (fun a b => a ^^^ b) s

/-- R176: X[D] := a AND NOT b. -/
def execAndn (d a b : Reg) (s : State) : Host.Outcome State Fault Refusal :=
  scalarAB d a b (fun a b => a &&& ~~~b) s

/-- R176: X[D] := a OR NOT b. -/
def execOrn (d a b : Reg) (s : State) : Host.Outcome State Fault Refusal :=
  scalarAB d a b (fun a b => a ||| ~~~b) s

/-- R176: shift left by b[5:0]. -/
def execSll (d a b : Reg) (s : State) : Host.Outcome State Fault Refusal :=
  scalarAB d a b (fun a b => a <<< sh6 b) s

/-- R176: logical shift right by b[5:0]. -/
def execSrl (d a b : Reg) (s : State) : Host.Outcome State Fault Refusal :=
  scalarAB d a b (fun a b => a >>> sh6 b) s

/-- R176: arithmetic shift right by b[5:0]. -/
def execSra (d a b : Reg) (s : State) : Host.Outcome State Fault Refusal :=
  scalarAB d a b (fun a b => a.sshiftRight (sh6 b)) s

/-- R176: signed less than. -/
def execSlt (d a b : Reg) (s : State) : Host.Outcome State Fault Refusal :=
  scalarAB d a b (fun a b => boolDword (a.slt b)) s

/-- R176: unsigned less than. -/
def execSltu (d a b : Reg) (s : State) : Host.Outcome State Fault Refusal :=
  scalarAB d a b (fun a b => boolDword (a.ult b)) s

/-- R176: signed minimum. -/
def execMin (d a b : Reg) (s : State) : Host.Outcome State Fault Refusal :=
  scalarAB d a b (fun a b => if a.slt b then a else b) s

/-- R176: signed maximum. -/
def execMax (d a b : Reg) (s : State) : Host.Outcome State Fault Refusal :=
  scalarAB d a b (fun a b => if a.slt b then b else a) s

/-- R176: unsigned minimum. -/
def execMinu (d a b : Reg) (s : State) : Host.Outcome State Fault Refusal :=
  scalarAB d a b (fun a b => if a.ult b then a else b) s

/-- R176: unsigned maximum. -/
def execMaxu (d a b : Reg) (s : State) : Host.Outcome State Fault Refusal :=
  scalarAB d a b (fun a b => if a.ult b then b else a) s

/-- R176: Sext(a + b, 32). -/
def execAddw (d a b : Reg) (s : State) : Host.Outcome State Fault Refusal :=
  scalarAB d a b (fun a b => sext32 (a + b)) s

/-- R176: Sext(a - b, 32). -/
def execSubw (d a b : Reg) (s : State) : Host.Outcome State Fault Refusal :=
  scalarAB d a b (fun a b => sext32 (a - b)) s

/-- R176: 32-bit left shift by b[4:0]. -/
def execSllw (d a b : Reg) (s : State) : Host.Outcome State Fault Refusal :=
  scalarAB d a b (fun a b => ((a.setWidth 32) <<< sh5 b).signExtend 64) s

/-- R176: 32-bit logical right shift by b[4:0]. -/
def execSrlw (d a b : Reg) (s : State) : Host.Outcome State Fault Refusal :=
  scalarAB d a b (fun a b => ((a.setWidth 32) >>> sh5 b).signExtend 64) s

/-- R176: 32-bit arithmetic right shift by b[4:0]. -/
def execSraw (d a b : Reg) (s : State) : Host.Outcome State Fault Refusal :=
  scalarAB d a b (fun a b => ((a.setWidth 32).sshiftRight (sh5 b)).signExtend 64) s

/-- R181: low 64 bits of the product. -/
def execMul (d a b : Reg) (s : State) : Host.Outcome State Fault Refusal :=
  scalarAB d a b (fun a b => a * b) s

/-- R181: high half of the signed product. -/
def execMulh (d a b : Reg) (s : State) : Host.Outcome State Fault Refusal :=
  scalarAB d a b (fun a b => ((a.signExtend 128 * b.signExtend 128) >>> 64).setWidth 64) s

/-- R181: high half of the unsigned product. -/
def execMulhu (d a b : Reg) (s : State) : Host.Outcome State Fault Refusal :=
  scalarAB d a b (fun a b => ((a.setWidth 128 * b.setWidth 128) >>> 64).setWidth 64) s

/-- R181: high half of the signed by unsigned product. -/
def execMulhsu (d a b : Reg) (s : State) : Host.Outcome State Fault Refusal :=
  scalarAB d a b (fun a b => ((a.signExtend 128 * b.setWidth 128) >>> 64).setWidth 64) s

/-- R181: Sext(a x b, 32). -/
def execMulw (d a b : Reg) (s : State) : Host.Outcome State Fault Refusal :=
  scalarAB d a b (fun a b => sext32 (a * b)) s

/-- R183: rotate left by X[B][5:0]. -/
def execRol (d a b : Reg) (s : State) : Host.Outcome State Fault Refusal :=
  scalarAB d a b (fun a b => a.rotateLeft (sh6 b)) s

/-- R183: rotate right by X[B][5:0]. -/
def execRor (d a b : Reg) (s : State) : Host.Outcome State Fault Refusal :=
  scalarAB d a b (fun a b => a.rotateRight (sh6 b)) s

/-- R181, R182: signed quotient. -/
def execDiv (d a b : Reg) (s : State) : Host.Outcome State Fault Refusal :=
  longAB d a b (fun a b => quotS 64 a b) s

/-- R181, R182: unsigned quotient. -/
def execDivu (d a b : Reg) (s : State) : Host.Outcome State Fault Refusal :=
  longAB d a b (fun a b => quotU a b) s

/-- R181, R182: signed remainder. -/
def execRem (d a b : Reg) (s : State) : Host.Outcome State Fault Refusal :=
  longAB d a b (fun a b => remS 64 a b) s

/-- R181, R182: unsigned remainder. -/
def execRemu (d a b : Reg) (s : State) : Host.Outcome State Fault Refusal :=
  longAB d a b (fun a b => remU a b) s

/-- R181, R182: signed 32-bit quotient. -/
def execDivw (d a b : Reg) (s : State) : Host.Outcome State Fault Refusal :=
  longAB d a b (fun a b => (quotS 32 (a.setWidth 32) (b.setWidth 32)).signExtend 64) s

/-- R181, R182: signed 32-bit remainder. -/
def execRemw (d a b : Reg) (s : State) : Host.Outcome State Fault Refusal :=
  longAB d a b (fun a b => (remS 32 (a.setWidth 32) (b.setWidth 32)).signExtend 64) s

/-- R183: leading zeros. -/
def execClz (d a : Reg) (s : State) : Host.Outcome State Fault Refusal :=
  scalarA d a (fun a => leadingZeros a) s

/-- R183: trailing zeros. -/
def execCtz (d a : Reg) (s : State) : Host.Outcome State Fault Refusal :=
  scalarA d a (fun a => trailingZeros a) s

/-- R183: one bits. -/
def execPopc (d a : Reg) (s : State) : Host.Outcome State Fault Refusal :=
  scalarA d a (fun a => BitVec.ofNat 64 (popCount 64 a.toNat)) s

/-- R183: bit order reversed. -/
def execBrev (d a : Reg) (s : State) : Host.Outcome State Fault Refusal :=
  scalarA d a (fun a => a.reverse) s

/-- R183: byte order reversed. -/
def execBswap (d a : Reg) (s : State) : Host.Outcome State Fault Refusal :=
  scalarA d a (fun a => byteSwap a) s

/-- R183: Sext(a, 8). -/
def execSxb (d a : Reg) (s : State) : Host.Outcome State Fault Refusal :=
  scalarA d a (fun a => (a.setWidth 8).signExtend 64) s

/-- R183: Sext(a, 16). -/
def execSxh (d a : Reg) (s : State) : Host.Outcome State Fault Refusal :=
  scalarA d a (fun a => (a.setWidth 16).signExtend 64) s

/-- R183: Sext(a, 32). -/
def execSxw (d a : Reg) (s : State) : Host.Outcome State Fault Refusal :=
  scalarA d a (fun a => sext32 a) s

/-- R183: Zext(a, 8). -/
def execZxb (d a : Reg) (s : State) : Host.Outcome State Fault Refusal :=
  scalarA d a (fun a => (a.setWidth 8).setWidth 64) s

/-- R183: Zext(a, 16). -/
def execZxh (d a : Reg) (s : State) : Host.Outcome State Fault Refusal :=
  scalarA d a (fun a => (a.setWidth 16).setWidth 64) s

/-- R183: Zext(a, 32). -/
def execZxw (d a : Reg) (s : State) : Host.Outcome State Fault Refusal :=
  scalarA d a (fun a => (a.setWidth 32).setWidth 64) s

/-- R177: X[A] + i. -/
def execAddi (d a : Reg) (i : BitVec 16) (s : State) : Host.Outcome State Fault Refusal :=
  scalarA d a (fun a => a + imm16 i) s

/-- R177: X[A] AND i. -/
def execAndi (d a : Reg) (i : BitVec 16) (s : State) : Host.Outcome State Fault Refusal :=
  scalarA d a (fun a => a &&& uimm16 i) s

/-- R177: X[A] OR i. -/
def execOri (d a : Reg) (i : BitVec 16) (s : State) : Host.Outcome State Fault Refusal :=
  scalarA d a (fun a => a ||| uimm16 i) s

/-- R177: X[A] XOR i. -/
def execXori (d a : Reg) (i : BitVec 16) (s : State) : Host.Outcome State Fault Refusal :=
  scalarA d a (fun a => a ^^^ uimm16 i) s

/-- R177: signed less than i. -/
def execSlti (d a : Reg) (i : BitVec 16) (s : State) : Host.Outcome State Fault Refusal :=
  scalarA d a (fun a => boolDword (a.slt (imm16 i))) s

/-- R177: unsigned less than i. -/
def execSltiu (d a : Reg) (i : BitVec 16) (s : State) : Host.Outcome State Fault Refusal :=
  scalarA d a (fun a => boolDword (a.ult (imm16 i))) s

/-- R178: shift left by n. -/
def execSlli (d a : Reg) (n : BitVec 6) (s : State) : Host.Outcome State Fault Refusal :=
  scalarA d a (fun a => a <<< n.toNat) s

/-- R178: logical shift right by n. -/
def execSrli (d a : Reg) (n : BitVec 6) (s : State) : Host.Outcome State Fault Refusal :=
  scalarA d a (fun a => a >>> n.toNat) s

/-- R178: arithmetic shift right by n. -/
def execSrai (d a : Reg) (n : BitVec 6) (s : State) : Host.Outcome State Fault Refusal :=
  scalarA d a (fun a => a.sshiftRight n.toNat) s

/-- R179: Sext(IMM, 16) x 2^16. -/
def execLhi (d : Reg) (i : BitVec 16) (s : State) : Host.Outcome State Fault Refusal :=
  scalar d [] (fun _ => imm16 i <<< 16) s

/-- R180: pc + Sext(IMM, 16). -/
def execLpc (d : Reg) (i : BitVec 16) (s : State) : Host.Outcome State Fault Refusal :=
  scalar d [] (fun s => s.cpu.pc + imm16 i) s

end Sys2Proof.Machine
end

