-- ==== Sys2Proof/Machine/LoadStore.lean ====
section
/-! DEFINITION. Loads, stores, acquire loads, release stores and atomics: majors 0x10 to 0x1E (R190-R198).
-/

namespace Sys2Proof.Machine

/-- R190: EA = Wrap(X[A] + Sext(IMM, 16), 64). -/
def State.eaImm (s : State) (a : Reg) (i : BitVec 16) : Dword := s.rx a + imm16 i

/-- R191: a loaded number of n bytes, sign- or zero-extended. -/
def loadExt (sg : Bool) (n : Nat) (bs : List Byte) : Dword :=
  if sg then BitVec.ofInt 64 (signed (8 * n) (leNat bs)) else BitVec.ofNat 64 (leNat bs)

/-- R191: a load of n bytes into X[D], interlocked (R175). -/
def loadX (d a : Reg) (i : BitVec 16) (n : Nat) (sg : Bool) (s : State) : Host.Outcome State Fault Refusal :=
  issue { reads := [.x a], writes := [.x d], flight := some .memory } noEarly
    (fun s => match s.load .gather (s.eaImm a i) n n with
      | .error e => Res.ofStop s e
      | .ok (bs, t) => .done (t.wx d (loadExt sg n bs)).advance) s

/-- R192: a store of the low n bytes of X[S], outstanding until it completes (R16). -/
def storeX (r a : Reg) (i : BitVec 16) (n : Nat) (s : State) : Host.Outcome State Fault Refusal :=
  issue { reads := [.x r, .x a], flight := some .memory } noEarly
    (fun s => match s.store .gather (s.eaImm a i) (leBytes n (s.rx r).toNat) n with
      | .error e => Res.ofStop s e
      | .ok t => .done t.advance) s

/-- R194: an acquire load of n bytes. -/
def loadAcq (d a : Reg) (scope : BitVec 2) (n : Nat) (s : State) : Host.Outcome State Fault Refusal :=
  issue { held := true, reads := [.x a], writes := [.x d], flight := some .memory } noEarly
    (fun s => match s.load .gather (s.rx a) n n with
      | .error e => Res.ofStop s e
      | .ok (bs, t) => match t.acquire scope.toNat with
        | .error e => Res.ofStop s e
        | .ok t => .done (t.wx d (loadExt true n bs)).advance) s

/-- R107, R194: a store after the release that orders it, once its own checks pass (R89). -/
def State.releasedStore (s : State) (scope : Nat) (ea : Dword) (bs : List Byte) (al : Nat) : Except Stop State :=
  match s.store .gather ea bs al with
  | .error e => .error e
  | .ok _ =>
    match s.release scope with
    | .error e => .error e
    | .ok t => t.store .gather ea bs al

/-- R194: a release store of n bytes. -/
def storeRel (a b : Reg) (scope : BitVec 2) (n : Nat) (s : State) : Host.Outcome State Fault Refusal :=
  issue { held := true, reads := [.x a, .x b], flight := some .memory } noEarly
    (fun s => match s.releasedStore scope.toNat (s.rx a) (leBytes n (s.rx b).toNat) n with
      | .error e => Res.ofStop s e
      | .ok t => .done t.advance) s

/-- R195: n of the size field. -/
def amoBytes (z : BitVec 1) : Nat := if z = 0 then 4 else 8

/-- R195: orders acq and ar acquire. -/
def ordAcq (o : BitVec 2) : Bool := o == 1 || o == 3

/-- R195: orders rel and ar release. -/
def ordRel (o : BitVec 2) : Bool := o == 2 || o == 3

/-- R195: the acquire of an RMW whose order has one. -/
def State.acqIf (s : State) (o : BitVec 2) (scope : Nat) : Except Stop State := if ordAcq o then s.acquire scope else .ok s

/-- R195-R197: an RMW of the head at a scope and order: f gives the new value, or none for a failed cas, which is never a
release. -/
def State.atomic (s : State) (ea : Dword) (n : Nat) (scope o : BitVec 2) (f : Nat → Option Nat) : Except Stop (Nat × State) :=
  let acq (old : Nat) (s : State) : Except Stop (Nat × State) :=
    match s.acqIf o scope.toNat with
    | .error e => .error e
    | .ok t => .ok (old, t)
  match s.rmw ea n f with
  | .error e => .error e
  | .ok (old, t) =>
    if ordRel o && (f old).isSome then
      match s.release scope.toNat with
      | .error e => .error e
      | .ok t =>
        match t.rmw ea n f with
        | .error e => .error e
        | .ok (old, t) => acq old t
    else acq old t

/-- R195: an amo with this operation. -/
def amo (op : RmwOp) (d a b : Reg) (scope o : BitVec 2) (z : BitVec 1) (s : State) : Host.Outcome State Fault Refusal :=
  issue { held := true, reads := [.x a, .x b], writes := [.x d], flight := some .memory } noEarly
    (fun s =>
      let n := amoBytes z
      match s.atomic (s.rx a) n scope o (fun old => some (rmwInt op n old (s.rx b).toNat)) with
      | .error e => Res.ofStop s e
      | .ok (old, t) => .done (t.wx d (loadExt true n (leBytes n old))).advance) s

/-- R191: 1 byte, sign-extended. -/
def execLb (d a : Reg) (i : BitVec 16) (s : State) : Host.Outcome State Fault Refusal := loadX d a i 1 true s

/-- R191: 1 byte, zero-extended. -/
def execLbu (d a : Reg) (i : BitVec 16) (s : State) : Host.Outcome State Fault Refusal := loadX d a i 1 false s

/-- R191: 2 bytes, sign-extended. -/
def execLh (d a : Reg) (i : BitVec 16) (s : State) : Host.Outcome State Fault Refusal := loadX d a i 2 true s

/-- R191: 2 bytes, zero-extended. -/
def execLhu (d a : Reg) (i : BitVec 16) (s : State) : Host.Outcome State Fault Refusal := loadX d a i 2 false s

/-- R191: 4 bytes, sign-extended. -/
def execLw (d a : Reg) (i : BitVec 16) (s : State) : Host.Outcome State Fault Refusal := loadX d a i 4 true s

/-- R191: 4 bytes, zero-extended. -/
def execLwu (d a : Reg) (i : BitVec 16) (s : State) : Host.Outcome State Fault Refusal := loadX d a i 4 false s

/-- R191: 8 bytes, zero-extended. -/
def execLd (d a : Reg) (i : BitVec 16) (s : State) : Host.Outcome State Fault Refusal := loadX d a i 8 false s

/-- R192: stores 1 byte. -/
def execSb (r a : Reg) (i : BitVec 16) (s : State) : Host.Outcome State Fault Refusal := storeX r a i 1 s

/-- R192: stores 2 bytes. -/
def execSh (r a : Reg) (i : BitVec 16) (s : State) : Host.Outcome State Fault Refusal := storeX r a i 2 s

/-- R192: stores 4 bytes. -/
def execSw (r a : Reg) (i : BitVec 16) (s : State) : Host.Outcome State Fault Refusal := storeX r a i 4 s

/-- R192: stores 8 bytes. -/
def execSd (r a : Reg) (i : BitVec 16) (s : State) : Host.Outcome State Fault Refusal := storeX r a i 8 s

/-- R194: acquire load of 4 bytes. -/
def execLdAcqW (d a : Reg) (scope : BitVec 2) (s : State) : Host.Outcome State Fault Refusal := loadAcq d a scope 4 s

/-- R194: acquire load of 8 bytes. -/
def execLdAcqD (d a : Reg) (scope : BitVec 2) (s : State) : Host.Outcome State Fault Refusal := loadAcq d a scope 8 s

/-- R194: release store of 4 bytes. -/
def execStRelW (a b : Reg) (scope : BitVec 2) (s : State) : Host.Outcome State Fault Refusal := storeRel a b scope 4 s

/-- R194: release store of 8 bytes. -/
def execStRelD (a b : Reg) (scope : BitVec 2) (s : State) : Host.Outcome State Fault Refusal := storeRel a b scope 8 s

/-- R195: Op is swap. -/
def execAmoSwap (d a b : Reg) (scope o : BitVec 2) (z : BitVec 1) (s : State) : Host.Outcome State Fault Refusal := amo .swap d a b scope o z s

/-- R195: Op is add. -/
def execAmoAdd (d a b : Reg) (scope o : BitVec 2) (z : BitVec 1) (s : State) : Host.Outcome State Fault Refusal := amo .add d a b scope o z s

/-- R195: Op is and. -/
def execAmoAnd (d a b : Reg) (scope o : BitVec 2) (z : BitVec 1) (s : State) : Host.Outcome State Fault Refusal := amo .and d a b scope o z s

/-- R195: Op is or. -/
def execAmoOr (d a b : Reg) (scope o : BitVec 2) (z : BitVec 1) (s : State) : Host.Outcome State Fault Refusal := amo .or d a b scope o z s

/-- R195: Op is xor. -/
def execAmoXor (d a b : Reg) (scope o : BitVec 2) (z : BitVec 1) (s : State) : Host.Outcome State Fault Refusal := amo .xor d a b scope o z s

/-- R195: Op is min. -/
def execAmoMin (d a b : Reg) (scope o : BitVec 2) (z : BitVec 1) (s : State) : Host.Outcome State Fault Refusal := amo .min d a b scope o z s

/-- R195: Op is max. -/
def execAmoMax (d a b : Reg) (scope o : BitVec 2) (z : BitVec 1) (s : State) : Host.Outcome State Fault Refusal := amo .max d a b scope o z s

/-- R195: Op is minu. -/
def execAmoMinu (d a b : Reg) (scope o : BitVec 2) (z : BitVec 1) (s : State) : Host.Outcome State Fault Refusal := amo .minu d a b scope o z s

/-- R195: Op is maxu. -/
def execAmoMaxu (d a b : Reg) (scope o : BitVec 2) (z : BitVec 1) (s : State) : Host.Outcome State Fault Refusal := amo .maxu d a b scope o z s

/-- R196: compare and swap: X[D] is the expected value and receives the old one. -/
def execCas (d a b : Reg) (scope o : BitVec 2) (z : BitVec 1) (s : State) : Host.Outcome State Fault Refusal :=
  issue { held := true, reads := [.x d, .x a, .x b], writes := [.x d], flight := some .memory } noEarly
    (fun s =>
      let n := amoBytes z
      let f (old : Nat) : Option Nat :=
        if old = (s.rx d).toNat % 2 ^ (8 * n) then some ((s.rx b).toNat % 2 ^ (8 * n)) else none
      match s.atomic (s.rx a) n scope o f with
      | .error e => Res.ofStop s e
      | .ok (old, t) => .done (t.wx d (loadExt true n (leBytes n old))).advance) s

end Sys2Proof.Machine
end

