-- ==== Sys2Proof/Machine/Control.lean ====
section
/-! DEFINITION. Control transfer and the lane loop: majors 0x20 to 0x24 (R199-R206).
-/

namespace Sys2Proof.Machine

/-- R199: a branch: pc + offset when taken, else the next instruction. -/
def branch (a b : Reg) (o : BitVec 13) (c : Dword → Dword → Bool) (s : State) : Host.Outcome State Fault Refusal :=
  issue { reads := [.x a, .x b] } noEarly
    (fun s => .done (if c (s.rx a) (s.rx b) then s.setPc (s.cpu.pc + off13 o) else s.advance)) s

/-- R199: taken when X[A] = X[B]. -/
def execBeq (a b : Reg) (o : BitVec 13) (s : State) : Host.Outcome State Fault Refusal := branch a b o (fun a b => a == b) s

/-- R199: taken when X[A] differs from X[B]. -/
def execBne (a b : Reg) (o : BitVec 13) (s : State) : Host.Outcome State Fault Refusal := branch a b o (fun a b => a != b) s

/-- R199: taken when signed less. -/
def execBlt (a b : Reg) (o : BitVec 13) (s : State) : Host.Outcome State Fault Refusal := branch a b o (fun a b => a.slt b) s

/-- R199: taken when signed greater or equal. -/
def execBge (a b : Reg) (o : BitVec 13) (s : State) : Host.Outcome State Fault Refusal := branch a b o (fun a b => !a.slt b) s

/-- R199: taken when unsigned less. -/
def execBltu (a b : Reg) (o : BitVec 13) (s : State) : Host.Outcome State Fault Refusal := branch a b o (fun a b => a.ult b) s

/-- R199: taken when unsigned greater or equal. -/
def execBgeu (a b : Reg) (o : BitVec 13) (s : State) : Host.Outcome State Fault Refusal := branch a b o (fun a b => !a.ult b) s

/-- R200: pc-relative jump with link. -/
def execJal (d : Reg) (o : BitVec 21) (s : State) : Host.Outcome State Fault Refusal :=
  issue { writes := [.x d] } noEarly
    (fun s => .done ((s.wx d (s.cpu.pc + 4)).setPc (s.cpu.pc + off21 o))) s

/-- R24: in a loop region, the chunk that leaves the loop becomes its final chunk. -/
def State.leaveLoop (s : State) : State :=
  match s.openRegion with
  | some g => if g.kind = .loop then { s with cpu := { s.cpu with final := true } } else s
  | none => s

/-- R201: jump to X[A] + Sext(IMM, 16) with link; ALIGN on a target that is not word-aligned. It always leaves a loop
region (R24, R204). -/
def execJalr (d a : Reg) (i : BitVec 16) (s : State) : Host.Outcome State Fault Refusal :=
  issue { reads := [.x a], writes := [.x d] } noEarly
    (fun s =>
      let t := s.rx a + imm16 i
      if t.toNat % 4 ≠ 0 then .trap s causeAlign t
      else .done ((s.wx d (s.cpu.pc + 4)).setPc t).leaveLoop) s

/-- R202, R203: jump through a table of signed offsets, or fall through. -/
def execJt (d a b : Reg) (s : State) : Host.Outcome State Fault Refusal :=
  issue { reads := [.x d, .x a, .x b], flight := some .memory } noEarly
    (fun s =>
      let base := s.rx b
      if !(s.rx a).ult (s.rx d) then .done s.advance
      else match s.load .gather (base + 4 * s.rx a) 4 4 with
        | .error e => Res.ofStop s e
        | .ok (bs, s) =>
          let t := base + loadExt true 4 bs
          if t.toNat % 4 ≠ 0 then .trap s causeAlign t else .done (s.setPc t)) s

/-- R205: lane i's new count, when the lane takes part. -/
def vloopCount (w : Nat) (v : VReg) (m : KReg) (e i : Nat) : Option Nat :=
  if decide (i < e) && m.getLsbD i then some (velem w v i - 1) else none

/-- R205: lane i's new mask bit, when the lane takes part. -/
def vloopMask (w : Nat) (v : VReg) (m : KReg) (e i : Nat) : Option Bool :=
  if decide (i < e) && m.getLsbD i then some (decide (1 < velem w v i)) else none

/-- R205: whether a lane remains. -/
def vloopAny (w : Nat) (v : VReg) (m : KReg) (e : Nat) : Bool :=
  (List.range e).any (fun i => m.getLsbD i && decide (1 < velem w v i))

/-- R205: decrements the trip counts and branches while a lane remains. -/
def execVloop (a : Reg) (k : KIdx) (e : BitVec 2) (o : BitVec 13) (s : State) : Host.Outcome State Fault Refusal :=
  issue { reads := [.v a, .k k, .vl], writes := [.v a, .k k] } noEarly
    (fun s =>
      let w := ewBits e
      let n := s.elems w
      let v := s.rv a
      let m := s.rk k
      let t := (s.wv a (vupdate w v (vloopCount w v m n))).wk k (kupdate m (vloopMask w v m n))
      .done (if vloopAny w v m n then t.setPc (s.cpu.pc + off13 o) else t.advance)) s

end Sys2Proof.Machine
end

