-- ==== Sys2Proof/Machine/Fetch.lean ====
section
/-! DEFINITION. Instruction fetch (R90, R93, R96, R335).
-/

namespace Sys2Proof.Machine

/-- R335: one of a register's current and older values (log entry 18). -/
def pickOld {α : Type} (tick item : Nat) (now : α) (old : List α) : α :=
  match old with
  | [] => now
  | _ :: _ => (now :: old).getD (Config.fetchPick tick item % (old.length + 1)) now

/-- R335: the ASID that a fetch uses. -/
def State.fetchAsid (s : State) : BitVec 12 := pickOld s.tick 0 s.thr.asid s.thr.fetchOld.asid

/-- R335: the ROOT that a fetch uses. -/
def State.fetchRoot (s : State) : Dword := pickOld s.tick 1 s.thr.pgroot s.thr.fetchOld.root

/-- R86, R335: the descriptor that a fetch at an EA uses. -/
def State.fetchDescriptor (s : State) (ea : Dword) : Dword × Dword :=
  let n := bitsOf ea.toNat 61 3
  pickOld s.tick (2 + n) (s.descriptor ea) ((s.thr.fetchOld.sg.filter (fun p => p.1.toNat == n)).map (fun p => p.2))

/-- R90: what a failed fetch raises; rep says whether the page that it reached is replicated. -/
def fetchStop (rep : Bool) (va : Nat) : Stop → Stop
  | .trap _ i => .trap causeFetch i
  | .noMemory pa c => .logged causeFetch (faultInfo rep false .fetch 3 va) pa c
  | .logged _ i pa c => .logged causeFetch i pa c
  | e => e

/-- R93: this core's I-cache line. -/
def ILine.serves (l : ILine) (ring core : Nat) (asid : BitVec 12) (va : Nat) : Bool :=
  l.ring == ring && l.core == core && l.asid == asid && l.va == va

/-- Whether memory differs from a cached instruction line. -/
def State.lineStale (s : State) (l : ILine) : Bool :=
  match s.key l.pa with
  | some a => Memory.getBytes s.mem a 64 != l.data
  | none => true

/-- R90, R96, R99, R100: the I-cache line that serves a fetch with no translation: its page grants the right and carries A; one
that differs from memory may have been replaced by a newer copy (log entry 18). -/
def State.fetchHit (s : State) (va : Nat) : Option ILine :=
  match s.coh.icache.find? (fun l => l.serves s.ring s.cpu.core s.fetchAsid (va / 64)) with
  | some l =>
    if (leafProt l.page s.smode .fetch va).isNone && (!s.isHead || l.page.marked .fetch) && !(s.lineStale l && Config.fetchNew s.tick)
    then some l else none
  | none => none

/-- R92: what a fetch through a page shows of a broken obligation: the page came from a ROOT that is not among those a fetch may use
(R335, log entry 25). -/
def State.fetched (s : State) (va : Nat) (page : Leaf) : Except Stop State :=
  (s.touch page va false).shown (staleRoot (s.thr.pgroot :: s.thr.fetchOld.root) page) (fun t => t.breach s.thr.asid)

/-- R93: how many lines a core's I-cache of 64 KiB holds. -/
def icacheLines : Nat := 1024

/-- R93: room in a core's I-cache for one more line: a full one gives up one, and which is free (log entry 8). -/
def icacheRoom (tick : Nat) (l : List ILine) (ring core : Nat) : List ILine :=
  let mine := l.filter (fun x => x.ring == ring && x.core == core)
  if mine.length < icacheLines then l
  else match mine[Config.cacheVictim tick % mine.length]? with
    | some x => l.filter (fun y => y != x)
    | none => l

/-- R93: an I-cache line filled from its home. -/
def State.fetchFill (s : State) (asid : BitVec 12) (va : Nat) (m : Mapped) : Except Stop (List Byte × State) :=
  let pa := 64 * (m.pa / 64)
  match s.homeRead pa 64 with
  | .error e => .error e
  | .ok (bs, s) =>
    let line : ILine := { ring := s.ring, core := s.cpu.core, asid := asid, va := va / 64, pa := pa, page := m.page, data := bs }
    .ok (bs, { s with coh := { s.coh with
      icache := line :: icacheRoom s.tick (s.coh.icache.filter (fun l => !l.serves s.ring s.cpu.core asid (va / 64))) s.ring s.cpu.core } })

/-- R97-R100, R115: where a VA leads for a fetch that misses; one that has waited at a home keeps its translation. -/
def State.fetchTrans (s : State) (va : Nat) : Except Stop (Mapped × State) :=
  match heldLeaf s.cpu.held s.smode (!s.isHead) .fetch va with
  | some m => .ok (m, s)
  | none => s.translate s.ring s.fetchAsid s.fetchRoot s.smode (!s.isHead) .gather .fetch va

/-- R90, R93, R96: the line at a VA, read through the I-cache. -/
def State.fetchLine (s : State) (va : Nat) : Except Stop (List Byte × State) :=
  match s.fetchHit va with
  | some l =>
    match s.fetched va l.page with
    | .error e => .error e
    | .ok t => .ok (t.seen (64 * (va / 64)) l.data, t)
  | none =>
    match s.fetchTrans va with
    | .error e => .error (fetchStop false va e)
    | .ok (m, t) =>
      match t.fetched va m.page with
      | .error e => .error e
      | .ok t =>
        match t.fetchFill s.fetchAsid va m with
        | .error e => .error (fetchStop (pteRep m.page.entry) va (e.through m.page va))
        | .ok (bs, u) => .ok (u.seen (64 * (va / 64)) bs, u)

/-- The fetched bytes of these pieces, joined (log entry 82). -/
def State.fetchPieces (s : State) : List (Nat × Nat) → Except Stop (List Byte × State)
  | [] => .ok ([], s)
  | (va, n) :: r =>
    match s.fetchLine va with
    | .error e => .error e
    | .ok (bs, s) =>
      match s.fetchPieces r with
      | .error e => .error e
      | .ok (more, s) => .ok ((bs.drop (va % 64)).take n ++ more, s)

/-- R90, R93, R96: the word at an address. -/
def State.fetchWord (s : State) (pc : Dword) : Except Stop (Word × State) :=
  if pc.toNat % 4 ≠ 0 then .error (.trap causeFetch pc)
  else match segTarget (s.fetchDescriptor pc) s.smode .fetch pc 4 with
  | some (.global va) =>
    match s.fetchPieces (pieces 2 va 4) with
    | .error e => .error e
    | .ok (bs, t) => .ok (BitVec.ofNat 32 (leNat bs), t)
  | _ => .error (.trap causeFetch pc)

/-- A fetch that did not complete: what the instruction boundary does. -/
def Res.ofFetch (s : State) (e : Stop) : Res := Res.ofStop s e

end Sys2Proof.Machine
end

