-- ==== Sys2Proof/Machine/Reduce.lean ====
section
/-! DEFINITION. Scatter-reduce updates (R37, R109, R198, R271-R273).
-/

namespace Sys2Proof.Machine

/-- R109, R271: one integer update of n bytes at a translated address: collect state, in the ring's cache, for a TRK line of
this package's HBM, the link agent for host memory, else the home. -/
def State.scatterAt (s : State) (w : Who) (va : Nat) (m : Mapped) (op : RmwOp) (n v : Nat) : Except Stop State :=
  match s.place m.pa, m.coh with
  | .hbm a, .trk =>
    if purging s.coh.dir (a / 64) then .error (.queue (.line (w.req va m.page true) (a / 64)))
    else .ok ((s.trkCollect (w.req va m.page true) (a / 64) op n).collectUpdate w.ring (a / 64) (a % 64) n op v)
  | .error c, _ => .error (.noMemory m.pa c)
  | _, .siv =>
    match s.rmwAt w va m n (fun old => some (rmwInt op n old v)) with
    | .error e => .error e
    | .ok (_, s) => .ok s
  | _, _ =>
    match s.rmwAt w va { m with coh := .nc } n (fun old => some (rmwInt op n old v)) with
    | .error e => .error e
    | .ok (_, s) => .ok (s.purgeLine (m.pa / 64))

/-- The FP format of a scatter-add of n bytes (R273). -/
def scatterFmt (n : Nat) : Fmt := if n = 4 then fp32 else fp64

/-- R273: one FP update, with its flags. -/
def State.scatterFp (s : State) (w : Who) (va : Nat) (m : Mapped) (n v : Nat) (r : Rnd) : Except Stop State :=
  match s.rmwAt w va m n (fun old => some ((scatterFmt n).add r old v).1) with
  | .error e => .error e
  | .ok (old, s) => .ok (s.addFlags ((scatterFmt n).add r old v).2)

/-- R37, R271: applies an update record; an element that meets an error response is discarded (R383). -/
def State.applyUpdate (s : State) (u : Update) : Except Stop State :=
  let r := match u.op with
    | .fadd => s.scatterFp s.who u.va u.dest u.bytes u.val { mode := u.mode, key := u.key, seed := u.seed }
    | op => s.scatterAt s.who u.va u.dest op u.bytes u.val
  match r with
  | .error (.noMemory pa c) => .ok (s.discardStore pa c)
  | .error e => .error (e.through u.dest.page u.va)
  | .ok t => .ok (t.noteWrote u.va u.bytes u.dest)

/-- An operation on each item of a list, in order, as long as none stops. -/
def runList {α : Type} (f : State → α → Except Stop State) (s : State) : List α → Except Stop State
  | [] => .ok s
  | a :: r =>
    match f s a with
    | .error e => .error e
    | .ok s => runList f s r

/-- R99: A and D of a page that the chunk has used are set, unless its leaf has them, or its entry can no longer be reached (R384). -/
def State.settleTouch (s : State) (t : Touch) : Except Stop State :=
  let need : Need := if t.writes then .store else .load
  if t.page.marked need then .ok s
  else match s.setAD need t.page.addr with
    | .error (.noMemory pa c) => .ok (s.logStop (.noMemory pa c))
    | .error e => .error e
    | .ok (_, s) => .ok s

/-- R39, R108: a store of the chunk reaches the ring's cache or the home as one request. -/
def State.commitSpec (s : State) (x : SpecStore) : Except Stop State := s.commitStore x.va x.dest x.data

/-- R9, R37, R39, R99: what the focused chunk has done speculatively becomes committed state, as it becomes head: A and D of its
pages, its stores in program order, its update records (log entries 31, 65); what it has loaded and stored is looked at for aliases
(R388). -/
def State.flushVersions (s : State) : Except Stop State :=
  match runList State.settleTouch (s.unaliased [] s.cpu.loads) s.cpu.touches with
  | .error e => .error e
  | .ok s =>
    match runList State.commitSpec s s.cpu.stores with
    | .error e => .error e
    | .ok s =>
      match runList State.applyUpdate s s.cpu.upds with
      | .error e => .error e
      | .ok s => .ok { s with cpu := { s.cpu with ver := [], stores := [], upds := [], reads := [], seen := [], loads := [], touches := [] } }

end Sys2Proof.Machine
end

