-- ==== Sys2Proof/Machine/Regions.lean ====
section
/-! DEFINITION. Regions: fork, fcut, fwd and fserial (R20-R33, R211-R214), what ends a chunk, and the steps that create,
feed, squash, restart and commit chunks (R27-R39).
-/

namespace Sys2Proof.Machine

/-! ## The induction predictor (R32) -/

/-- The actual value that the entry holds for a chunk. -/
def PredEntry.val (e : PredEntry) (c : Nat) : Option Dword := (e.vals.find? (fun p => p.1 == c)).map (fun p => p.2)

/-- R32: the value predicted for chunk d: the last two strides up to the newest chunk known agree. -/
def PredEntry.predict (e : PredEntry) (d : Nat) : Option Dword :=
  match e.vals with
  | [] => none
  | (c, v) :: _ =>
    match e.val (c - 1), e.val (c - 2) with
    | some u, some t => if 2 ≤ c ∧ v - u = u - t ∧ c < d then some (v + BitVec.ofNat 64 (d - c) * (v - u)) else none
    | _, _ => none

/-- Puts a chunk's value among those of the other chunks, the newest chunk first. -/
def putValue (c : Nat) (v : Dword) : List (Nat × Dword) → List (Nat × Dword)
  | [] => [(c, v)]
  | (n, u) :: r => if n < c then (c, v) :: (n, u) :: r else if n = c then (c, v) :: r else (n, u) :: putValue c v r

/-- R32: an entry learns the actual value for a chunk. Values that no prediction can rest on any more, because a newer chunk's is
known by more than two, are dropped. -/
def PredEntry.learn (e : PredEntry) (num : Nat) (v : Dword) : PredEntry :=
  let vals := putValue num v e.vals
  match vals with
  | [] => e
  | (c, _) :: _ => { e with vals := vals.filter (fun p => decide (c ≤ p.1 + 2)) }

/-- R32: the predictor learns the actual value of X[r] for chunk num. -/
def predLearn (l : List PredEntry) (r : Reg) (num : Nat) (v : Dword) : List PredEntry :=
  if l.any (fun e => e.reg == r) then l.map (fun e => if e.reg = r then e.learn num v else e)
  else l ++ [{ reg := r, vals := [(num, v)] }]

/-- R32: the predictions that a chunk waiting for values can use. -/
def predictionsFor (l : List PredEntry) (c : Chunk) : List (Reg × Dword) :=
  l.filterMap (fun e => if c.wait.contains (.x e.reg) then (e.predict c.num).map (fun v => (e.reg, v)) else none)

/-- R32: gives a chunk the predicted values; it stops waiting for them. -/
def Chunk.takePredictions (l : List PredEntry) (c : Chunk) : Chunk :=
  let got := predictionsFor l c
  let c := got.foldl (fun (c : Chunk) p => c.setReg (.x p.1) (.scalar p.2)) c
  { c with
    wait := c.wait.filter (fun r => !got.any (fun p => r == .x p.1))
    pred := c.pred ++ got }

/-- R32: the fork-point values of the x registers in a create mask, as the values of chunk 0. -/
def forkValues (mask : Dword) (c : Chunk) : List PredEntry :=
  (maskMembers mask).filterMap (fun r => match r with
    | .x n => some { reg := n, vals := [(0, if n = 0 then 0 else c.x.get n.toFin)] }
    | _ => none)

/-! ## Sending registers (R30) -/

/-- R30, R32: whether a register holds a prediction, which is not sent as if it were the value. -/
def Chunk.guessed (c : Chunk) (r : RegName) : Bool :=
  c.pred.any (fun p => r == .x p.1) && !(match maskBit r with | some b => c.wrote.getLsbD b | none => false)

/-- R30: the registers of these that have not been sent since their last write go to the successor. -/
def Chunk.send (c : Chunk) (rs : List RegName) : Chunk :=
  let rs := rs.filter (fun r => !c.sent.contains r && !c.wait.contains r && !c.guessed r)
  { c with outbox := c.outbox ++ rs.map (fun r => (r, c.reg r)), sent := c.sent ++ rs }

/-- R30: the create mask of the registers that the focused chunk may send now: in a cut region its successor's, and before its fcut its own
(a squashed chunk is before it again, R29). -/
def State.sendMask (s : State) : Option Dword :=
  match s.openRegion with
  | none => none
  | some g =>
    match g.kind with
    | .loop => if s.cpu.final then none else some g.mask
    | .cut => match s.cpu.cut with
      | some (_, m) => if s.cpu.recut then some s.cpu.mask else some m
      | none => some s.cpu.mask

/-! ## Opening and closing (R22-R26, R214) -/

/-- R24, R25, R214: the region is over and the focused chunk is the only one. -/
def State.closeRegion (s : State) : State :=
  let s := s.discardYounger
  { s with
    thr := { s.thr with region := none, susp := false, snaps := [], preds := [] }
    cpu := { s.cpu with final := false, cut := none, recut := false, outbox := [], sent := [], wrote := 0, mask := 0 } }

/-- R26: with C = 1, no slot of core 0 other than the head's is empty. -/
def State.coreFull (s : State) : Bool :=
  s.thr.cores == 1
    && 4 ≤ s.chunks.length + (s.thr.freeing.filter (fun f => f.1 == 0 && decide (s.cyc < f.2))).length

/-- R26, R307: a claim or binding that makes the head's hint ignored. -/
def State.holdsUnit (s : State) : Bool := s.isHead && (s.cpu.bank.isSome || s.cpu.loupe.isSome)

/-- R22, R26, R211, R212: an ignored hint. -/
def State.ignoreHint (s : State) : State := (s.spec 4 1).advance

/-- R22: whether a word is a branch or vloop at one address whose target is another. -/
def backEdge (w : Word) (at_ target : Dword) : Bool :=
  let op := bitsOf w.toNat 26 6
  let cond := bitsOf w.toNat 13 3
  let off : BitVec 13 := BitVec.ofNat 13 (bitsOf w.toNat 0 13)
  let ok := (op == 0x20 && decide (cond < 6))
    || (op == 0x24 && decide (cond < 4) && bitsOf w.toNat 19 2 == 0 && bitsOf w.toNat 16 3 != 0)
  ok && at_ + off13 off == target

/-- The chunk number of a command whose issuing chunk is gone: no chunk of a region reaches it. -/
def noChunk : Nat := 2 ^ 64

/-- A new region numbers its chunks from 0, the head (R23): earlier commands keep to the head or to no chunk. -/
def State.renumber (s : State) : State :=
  let f (c : CopyCmd) : CopyCmd := { c with chunk := if c.chunk = s.cpu.num then 0 else noChunk }
  { s with
    cpu := { s.cpu with num := 0 }
    thr := { s.thr with cmds := s.thr.cmds.map f, snaps := [] } }

/-- R22, R23: opens a loop region: the head becomes chunk 0. -/
def State.openLoop (s : State) (last mask grain : Dword) : State :=
  let g := if grain = 0 then 1 else min grain.toNat 65535
  let r : Region :=
    { kind := .loop, first := s.cpu.pc + 4, last := last, mask := mask &&& ~~~(1#64), grain := g, home := s.cpu.core, wrote := [], read := [] }
  let s := s.renumber
  { s with
    thr := { s.thr with region := some r, susp := false, preds := forkValues mask s.cpu }
    cpu := { s.cpu with left := g, final := false, cut := none, outbox := [], sent := [], wrote := 0 } }

/-- R25: opens a cut region: the head becomes chunk 0, which ends at the label. -/
def State.openCut (s : State) (label mask : Dword) : State :=
  let m := mask &&& ~~~(1#64)
  let r : Region := { kind := .cut, first := s.cpu.pc + 4, last := label, mask := m, grain := 1, home := s.cpu.core, wrote := [], read := [] }
  let s := s.renumber
  { s with
    thr := { s.thr with region := some r, susp := false, preds := forkValues m s.cpu }
    cpu := { s.cpu with left := 1, final := false, cut := some (label, m), outbox := [], sent := [], wrote := 0 } }

/-- R211: asks for a loop region. -/
def execFork (a b : Reg) (o : BitVec 13) (s : State) : Host.Outcome State Fault Refusal :=
  issue { reads := [.x a, .x b] } noEarly
    (fun s =>
      let last := s.cpu.pc + off13 o
      if o.toInt ≤ 0 ∨ !s.isHead ∨ s.thr.region.isSome ∨ s.holdsUnit ∨ s.coreFull then .done s.ignoreHint
      else match s.fetchWord last with
        | .error .wait => .wait s
        | .error (.queue q) => .wait (s.queueUp q)
        | .error (.memerr pa) => .memerr s pa
        | .error e => .done (s.logStop e).ignoreHint
        | .ok (w, t) =>
          if backEdge w last (s.cpu.pc + 4) then .done (t.openLoop last (s.rx a) (s.rx b)).advance
          else .done t.ignoreHint) s

/-- R25, R26: whether an fcut can set the end of a chunk of an open cut region: it has set none, and has written nothing outside
the mask that its successor would receive. -/
def State.mayCut (s : State) (m : Dword) : Bool := s.cpu.cut.isNone && s.cpu.wrote &&& ~~~m == 0#64

/-- R21, R25: the focused chunk ends at a label, and its successor receives a mask. -/
def State.cutAt (s : State) (label m : Dword) : State :=
  State.cutOfYoungest { s with cpu := { s.cpu with cut := some (label, m) } }

/-- R25, R26: an fcut in an open cut region: its youngest chunk extends the region; in a chunk that has younger ones it is ignored. -/
def State.extendCut (s : State) (label m : Dword) : State :=
  if s.younger.isEmpty ∧ s.mayCut m then (s.cutAt label m).advance else s.ignoreHint

/-- R25, R212: an fcut that no check makes an ignored hint, with X[xM]. -/
def State.fcutTo (s : State) (label x : Dword) : State :=
  match s.thr.region with
  | none => if s.isHead then (s.openCut label x).advance else s.ignoreHint
  | some g => if g.kind = .cut then s.extendCut label ((s.cpu.mask ||| x) &&& ~~~(1#64)) else s.ignoreHint

/-- R24, R25: the focused chunk, squashed after its fcut, runs on as one that has executed none: the chunks beyond that end are squashed and
discarded, and as head it closes the region (log entry 29). -/
def State.disown (s : State) : State := if s.isHead then s.closeRegion else s.discardYounger.uncut

/-- R26, R29: the first fcut that a squashed chunk executes again. The one that set its end is ignored, as in any chunk that has a
younger one, and its span begins; another one sets the end anew (log entry 29). -/
def State.fcutAgain (s : State) (label x : Dword) : State :=
  if s.cpu.cut = some (label, (s.cpu.mask ||| x) &&& ~~~(1#64)) then State.ignoreHint { s with cpu := { s.cpu with recut := false } }
  else s.disown.fcutTo label x

/-- R212: asks for a cut region at a label, or extends one. -/
def execFcut (d : Reg) (o : BitVec 21) (s : State) : Host.Outcome State Fault Refusal :=
  issue { reads := [.x d] } noEarly
    (fun s =>
      let label := s.cpu.pc + off21 o
      if o.toInt ≤ 0 ∨ s.thr.susp ∨ s.holdsUnit then .done s.ignoreHint
      else if s.cpu.recut then .done (s.fcutAgain label (s.rx d))
      else if s.coreFull then .done s.ignoreHint
      else .done (s.fcutTo label (s.rx d))) s

/-- R213: sends listed registers to the successor chunk. -/
def execFwd (a : Reg) (s : State) : Host.Outcome State Fault Refusal :=
  issue { reads := [.x a] } noEarly
    (fun s =>
      match s.sendMask with
      | none => .done s.advance
      | some m =>
        let rs := (maskMembers (s.rx a &&& m)).filter (fun r => (maskBit r).isSome)
        .done (State.advance { s with cpu := s.cpu.send rs })) s

/-- R214: ends speculation in the current region, or discards a suspended descriptor. -/
def execFserial (s : State) : Host.Outcome State Fault Refusal :=
  issue { held := true } noEarly
    (fun s => .done (if s.thr.region.isSome then s.closeRegion.advance else s.advance)) s

/-! ## What an instruction's new pc does in a region (R23-R25, R43) -/

/-- R43: what the head is after the LEASE at its end: it begins the successor's work at pc with the successor's grain and mask.
Two points that R43 leaves open are the model's choice (log entry 73): the head keeps its chunk number, so the next chunk takes
the number and the core that the skipped successor would have had; and in a cut region the region stays open until the head's own
next fcut, rexit or fserial ends it. -/
def State.beyondEnd (s : State) : State :=
  let grain := match s.thr.region with
    | some g => g.grain
    | none => 1
  State.cutOfYoungest
    { s with cpu := { s.cpu with left := grain, mask := s.sendMask.getD 0, cut := none, start := s.cpu.pc, ended := false } }

/-- R43, R44: the head takes its recorded fault; a LEASE at its end lets it go on beyond it. -/
def State.takeDue (t : Trap) (s : State) : State := takeTrap t (if s.cpu.ended then s.beyondEnd else s)

/-- R30, R43: the focused chunk has reached its end at pc: a claim or binding it still holds is a LEASE, which is taken when it is
head, and beyond which it goes on (beyondEnd, log entry 73); else it sends what it has not sent and waits for commit. -/
def State.endChunk (s : State) : State :=
  if s.cpu.bank.isSome || s.cpu.loupe.isSome then
    let t : Trap := { cause := causeLease, loc := s.cpu.pc, info := 0 }
    let s := { s with cpu := { s.cpu with ended := true } }
    if s.isHead then s.takeDue t else { s with cpu := { s.cpu with trap := some t } }
  else { s with cpu := { s.cpu.send (maskMembers (s.sendMask.getD 0)) with ended := true } }

/-- R25, R26, R29: a squashed chunk that reaches its end without its fcut, or has written a register that makes that fcut an ignored
hint, has no end there (log entry 29). -/
def State.missedCut (s : State) (label m : Dword) : Bool := s.cpu.pc == label || s.cpu.wrote &&& ~~~m != 0#64

/-- R23-R25: after an instruction that stood at pc0 has completed: a taken back-edge is counted, leaving the loop makes the
chunk final, reaching the label of its fcut ends it. -/
def State.settle (s : State) (pc0 : Dword) : State :=
  match s.openRegion with
  | none => s
  | some g =>
    match g.kind with
    | .loop =>
      if s.cpu.final then (if s.isHead then s.closeRegion else s)
      else if pc0 = g.last ∧ s.cpu.pc = g.first then
        let left := s.cpu.left - 1
        let s := { s with cpu := { s.cpu with left := left } }
        if left = 0 then s.endChunk else s
      else if s.cpu.pc.toNat < g.first.toNat ∨ g.last.toNat < s.cpu.pc.toNat then
        let s := { s with cpu := { s.cpu with final := true } }
        if s.isHead then s.closeRegion else s
      else s
    | .cut =>
      match s.cpu.cut with
      | some (label, m) =>
        if s.cpu.recut then (if s.missedCut label m then s.disown else s)
        else if s.cpu.pc = label then s.endChunk
        else s
      | none => s

/-! ## Creation (R27, R28) -/

/-- R27: where the successor of the youngest chunk begins, and its create mask. -/
def State.successorStart (s : State) (y : Chunk) : Option (Dword × Dword) :=
  match s.openRegion with
  | none => none
  | some g =>
    match g.kind with
    | .loop => if y.final then none else some (g.first, g.mask)
    | .cut => y.cut

/-- R27: an empty slot on a core, and fewer than 4 × C chunks in flight. -/
def State.slotFree (s : State) (core : Nat) : Bool :=
  decide (s.chunks.length < 4 * s.thr.cores)
    && decide ((s.chunks.filter (fun c => c.core == core)).length
        + (s.thr.freeing.filter (fun f => f.1 == core && decide (s.cyc < f.2))).length < 4)

/-- R28: a chunk's first registers: the head's outside its create mask; the members of the mask are awaited. That it takes over rptst with
ACT = 1 when the head's resumed frame is unfinished is the model's choice (log entry 86). -/
def Chunk.begin (head : Chunk) (num core : Nat) (start mask : Dword) (grain tag : Nat) : Chunk :=
  { Chunk.blank with
    num := num, core := core, pc := start, start := start, mask := mask, left := grain, lsTag := tag
    x := head.x, v := head.v, vdead := head.vdead, k := head.k, stat := head.stat, vl := head.vl, vew := head.vew
    vstart := head.vstart, seed := head.seed, sbase := head.sbase, fxs := head.fxs, rptst := head.rptst
    wait := maskMembers mask }

/-- The head of the focused ring. -/
def State.headChunk (s : State) : Chunk :=
  match s.older with
  | h :: _ => h
  | [] => s.cpu

/-- R28, R32: an actual value has arrived for chunk num; the predictor learns it, and chunks that wait may be given
predictions. -/
def State.learn (s : State) (num : Nat) (r : RegName) (v : RegVal) : State :=
  match r, v with
  | .x n, .scalar d =>
    let ps := predLearn s.thr.preds n num d
    { s with
      thr := { s.thr with preds := ps }
      cpu := s.cpu.takePredictions ps
      older := s.older.map (Chunk.takePredictions ps)
      younger := s.younger.map (Chunk.takePredictions ps) }
  | _, _ => s

/-- R28, R213, R38: what a chunk that begins or begins again finds sent by its predecessor. -/
def Chunk.handed (c p : Chunk) : List RegName := p.sent.filter (fun r => c.wait.contains r)

/-- R28, R213, R38: a chunk takes what its predecessor has sent. -/
def Chunk.takeOver (c p : Chunk) : Chunk :=
  { (c.handed p).foldl (fun (n : Chunk) r => n.setReg r (p.reg r)) c with wait := c.wait.filter (fun r => !p.sent.contains r) }

/-- R32: values handed over are values received. -/
def State.learnHanded (s : State) (c p : Chunk) : State := (c.handed p).foldl (fun s r => s.learn c.num r (p.reg r)) s

/-- The focused ring with a chunk changed, by its index from the oldest. -/
def State.mapChunk (s : State) (i : Nat) (f : Chunk → Chunk) : State :=
  { s with
    older := s.older.mapIdx (fun k c => if k = i then f c else c)
    cpu := if i = s.older.length then f s.cpu else s.cpu
    younger := s.younger.mapIdx (fun k c => if s.older.length + 1 + k = i then f c else c) }

/-- R27, R28: the next chunk is created, with what its predecessor has already sent (R213); values of an earlier successor that are
on their way are no longer sent. -/
def execChunkCreate (s : State) : Host.Outcome State Fault Refusal :=
  let y := s.youngest
  match s.openRegion, s.successorStart y with
  | some g, some (start, mask) =>
    let num := y.num + 1
    let core := (g.home + num) % s.thr.cores
    if s.slotFree core && !y.squashed then
      let c := Chunk.begin s.headChunk num core start mask g.grain (s.newTag num)
      let s := s.mapChunk (s.older.length + s.younger.length) (fun p => { p with outbox := [] })
      .next (State.learnHanded { s with younger := s.younger ++ [(c.takeOver y).takePredictions s.thr.preds] } c y)
    else noOccurrence s
  | _, _ => noOccurrence s

/-! ## Arrivals (R30-R35) -/

/-- R30: a chunk that has ended passes on what arrives. -/
def Chunk.passOn (c : Chunk) (r : RegName) : Chunk := if c.ended then c.send [r] else c

/-- R30: whether the chunk has consumed what its predecessor sent first: an instruction that has begun has read it; one that is
parked, waits or is stopped by a trap counts (log entry 30). -/
def Chunk.consumed (c : Chunk) (r : RegName) : Bool := c.used.contains r

/-- R30: a value arrives for a register that the chunk does not wait for: sent again, or written by the chunk before it came. A
chunk that has consumed the earlier value is squashed. Else the new one takes its place, unless the chunk has written the register
itself, and is passed on again if the earlier one was. -/
def State.again (s : State) (r : RegName) (v : RegVal) : State :=
  if s.cpu.consumed r then s.squashSelf
  else if s.cpu.made.contains r then s
  else
    let was := s.cpu.sent.contains r
    let c := { s.cpu.setReg r v with sent := s.cpu.sent.filter (fun q => q != r) }
    { s with cpu := if was then c.send [r] else c }

/-- R28, R30, R33: a value arrives at the focused chunk from its predecessor; for a chunk that waits to restart the predictor alone
learns it (R32). -/
def State.receive (s : State) (r : RegName) (v : RegVal) : State :=
  if s.cpu.squashed then s.learn s.cpu.num r v
  else if s.cpu.wait.contains r then
    let c := { s.cpu.setReg r v with wait := s.cpu.wait.filter (fun q => q != r) }
    State.learn { s with cpu := c.passOn r } s.cpu.num r v
  else match r, v with
    | .x n, .scalar d =>
      match s.cpu.pred.find? (fun p => p.1 == n) with
      | some p =>
        let c := { s.cpu with pred := s.cpu.pred.filter (fun q => q.1 != n) }
        let s := State.learn { s with cpu := if p.2 = d then c.passOn r else c } s.cpu.num r v
        if p.2 = d then s else s.squashSelf.spec 2 1
      | none => State.again (s.learn s.cpu.num r v) r v
    | _, _ => s.again r v

/-- R30: the oldest value on the way from its predecessor reaches the focused chunk. -/
def execStitchValueArrival (s : State) : Host.Outcome State Fault Refusal :=
  match s.older.reverse with
  | [] => noOccurrence s
  | p :: rest =>
    match p.outbox with
    | [] => noOccurrence s
    | (r, v) :: more =>
      .next (State.receive { s with older := (rest.reverse) ++ [{ p with outbox := more }] } r v)

/-- R35, R37: the oldest store notice or reduce record on its way to the focused chunk meets its read bits. R51 has spsquash count the
squashes of R35: that it counts those of a reduce record (R37) too is the model's choice (log entry 84). -/
def execStoreNoticeArrival (s : State) : Host.Outcome State Fault Refusal :=
  match s.cpu.inbox with
  | [] => noOccurrence s
  | w :: rest =>
    let s := { s with cpu := { s.cpu with inbox := rest } }
    .next (if s.cpu.reads.contains w && !s.isHead then s.squashSelf.spec 1 1 else s)

/-! ## Restart and commit (R38, R39, R48) -/

/-- R28, R38: a restarted chunk before it takes what its predecessor has sent: the head's registers outside its mask. -/
def State.restarted (s : State) : Chunk :=
  let c := s.cpu
  let g := match s.thr.region with
    | some g => g.grain
    | none => 1
  { Chunk.begin s.headChunk c.num c.core c.start c.mask g c.lsTag with streak := c.streak, guarded := c.guarded, cut := c.cut, recut := c.cut.isSome }

/-- R38, R48: a squashed chunk restarts; a guarded one only once it is head. -/
def execChunkRestart (s : State) : Host.Outcome State Fault Refusal :=
  if !s.cpu.squashed then noOccurrence s
  else match s.older.reverse with
    | [] =>
      let c := { s.cpu with squashed := false }
      .next (if c.guarded then State.spec { s with cpu := c } 5 1 else { s with cpu := c })
    | p :: rest =>
      if s.cpu.guarded || s.thr.leaving then noOccurrence s
      else
        .next (State.learnHanded
          { s with
            older := rest.reverse ++ [{ p with outbox := [] }]
            cpu := (s.restarted.takeOver p).takePredictions s.thr.preds } s.restarted p)

/-- R32: the values that a chunk has received whole from its predecessor are learned. -/
def State.learnAll (s : State) (num : Nat) (mask : Dword) (p : Chunk) : State :=
  (maskMembers mask).foldl (fun s r => s.learn num r (p.reg r)) s

/-- R39: the successor of a committed head becomes head: its slot's commands join the thread's (R43), and a squashed one
starts with the committed registers, which are the values it receives (R32). -/
def State.promote (s : State) (n : Chunk) (rest : List Chunk) : State :=
  let old := s.cpu
  let g := match s.thr.region with
    | some g => g.grain
    | none => 1
  let n := if n.squashed then
      { Chunk.begin old n.num n.core n.start n.mask g n.lsTag with
        wait := [], squashed := true, streak := n.streak, guarded := n.guarded, cut := n.cut, recut := n.cut.isSome }
    else n
  let claim (c : CopyCmd) : CopyCmd := if c.chunk = n.num then { c with committed := true } else c
  let t := State.spec
    { s with
      older := [], cpu := { n with capped := false }, younger := rest
      thr := { s.thr with
        fflags := s.thr.fflags ||| old.fflags
        cmds := s.thr.cmds.map claim
        snaps := s.thr.snaps.filter (fun (r : Snap) => r.chunk != old.num) } } 0 1
  if n.squashed then t.learnAll n.num n.mask old else t

/-- R319: what the focused chunk has added to the Loupe counters is committed. -/
def State.commitLoupe (s : State) : State :=
  { s with
    thr := { s.thr with lcnt := s.thr.lcnt.mapFinIdx (fun i v _ => v + BitVec.ofNat 64 (s.cpu.lcnt.getD i 0)) }
    cpu := { s.cpu with lcnt := [0, 0, 0, 0, 0, 0, 0] } }

/-- R24, R25: what becoming head does to the region: a final chunk, or the youngest chunk of a cut region without an fcut,
closes it. -/
def State.headOfRegion (s : State) : State :=
  match s.openRegion with
  | none => s
  | some g =>
    match g.kind with
    | .loop => if s.cpu.final then s.closeRegion else s
    | .cut => if s.younger.isEmpty && s.cpu.cut.isNone then s.closeRegion else s

/-- R39: the head commits once it has ended, its forwards are delivered and its stores and notices have drained. -/
def execChunkCommit (s : State) : Host.Outcome State Fault Refusal :=
  match s.older, s.younger with
  | [], n :: rest =>
    if !s.cpu.ended || s.cpu.trap.isSome || !s.cpu.outbox.isEmpty || !n.inbox.isEmpty || s.openRegion.isNone then noOccurrence s
    else match (s.present.commitLoupe.promote n rest).flushVersions with
      | .error .wait => noOccurrence s
      | .error (.memerr pa) => .next (s.present.memoryError pa)
      | .error (.queue q) => .next (s.present.queueUp q)
      | .error _ => noOccurrence s
      | .ok t => .next t.headOfRegion
  | _, _ => noOccurrence s

end Sys2Proof.Machine
end

