-- ==== Sys2Proof/Machine/Caches.lean ====
section
/-! DEFINITION. Shootdowns (R114, R340), range flushes (R341), and the steps of the coherence protocol and of the walkers
that no instruction names (R98-R106).
-/

namespace Sys2Proof.Machine

/-! ## Working on another ring -/

/-- Runs f with the head of a ring focused, then focuses the chunk that was focused. -/
def State.withRing (s : State) (ring : Nat) (f : State → State) : State :=
  let home := s.ring
  let i := s.older.length
  (f (s.focus ring 0)).focus home i

/-- The rings that hold a thread. -/
def State.busyRings (s : State) : List Nat := (if s.live then [s.ring] else []) ++ s.others.map (fun r => r.ring)

/-! ## Lines taken from rings -/

/-- Takes every TRK copy that p selects from its ring: M copies written back, C partials merged (R105, R110). -/
def State.dropMembers (s : State) (p : Member → Bool) : State :=
  (s.coh.dir.map (fun d => d.line)).foldl (fun s line => s.dropFrom line p) s

/-- What a shootdown or a flush covers of what the rings hold, by ring, address space, virtual line and page. -/
abbrev Cover := Nat → BitVec 12 → Nat → Leaf → Bool

/-- Whether a TRK copy is covered. -/
def Cover.member (c : Cover) (m : Member) : Bool := c m.ring m.asid m.va m.page
/-- Whether an SIV line is covered. -/
def Cover.siv (c : Cover) (l : SivLine) : Bool := c l.ring l.asid l.va l.page
/-- Whether an L1 line is covered. -/
def Cover.l1 (c : Cover) (l : L1Line) : Bool := c l.ring l.asid l.va l.page
/-- Whether an I-cache line is covered. -/
def Cover.icache (c : Cover) (l : ILine) : Bool := c l.ring l.asid l.va l.page

/-- Writes back and invalidates everything covered: TRK and SIV lines of ring caches, L1 lines with the orphaned ones, I-cache
lines (R114, R341). -/
def State.dropCovered (s : State) (c : Cover) : State :=
  let t := (s.dropMembers c.member).sivPut false c.siv
  { t with coh := { t.coh with
      l1 := t.coh.l1.filter (fun l => !c.l1 l)
      icache := t.coh.icache.filter (fun l => !c.icache l) } }

/-! ## Requests at the home of a TRK line (R105, R106) -/

/-- The ring's cache as the requester of a line. -/
def LineReq.who (r : LineReq) : Who := { ring := r.ring, asid := r.asid, core := none }

/-- The line that a request is for. -/
def LineReq.target (r : LineReq) (line : Nat) : Mapped := { pa := 64 * line, coh := .trk, page := r.page }

/-- R105: a read request is served: its ring joins the chain at its head. A line that cannot be read is left to the access that
needs it (R403). -/
def State.serveRead (s : State) (r : LineReq) (line : Nat) : State :=
  match s.cachedRead r.who (64 * r.va) (r.target line) 64 with
  | .ok (_, t) => t
  | .error _ => s

/-- R105, R106: an ownership request starts its purge: C copies are recalled, and every other member is to be invalidated. -/
def State.startPurge (s : State) (r : LineReq) (line : Nat) (waiting : List LineReq) : State :=
  let s := s.recall line
  let left := ((chainOf s.coh.dir line).filter (fun m => m.ring != r.ring)).map (fun m => m.ring)
  s.mapLine line (fun d => { d with purge := some { req := r, left := left, since := s.tick }, waiting := waiting })

/-- R106: the requests that have waited are served in order of arrival, up to the next one that asks for ownership. -/
def State.serveWaiting (s : State) (line : Nat) : List LineReq → State
  | [] => s
  | r :: rest => if r.own then s.startPurge r line rest else (s.serveRead r line).serveWaiting line rest

/-! ## Shootdowns (R114, R115, R340) -/

/-- R114, R340: whether a shootdown covers a VA that an address space reaches through a leaf: every VA of its ASID, or the page of
its VPN under that ASID; a global page under every ASID. The page is the one that the leaf maps (log entry 33). -/
def Shootdown.covers (x : Shootdown) (asid : BitVec 12) (va : Nat) (page : Leaf) : Bool :=
  (asid == x.asid || page.global) && (x.all || page.vpn va == page.vpn (x.vpn * 2 ^ 16) || (x.wide && va / 2 ^ 29 == x.vpn / 2 ^ 13))

/-- R340: whether a shootdown covers a cached translation. -/
def Shootdown.coversEntry (x : Shootdown) (t : TlbEntry) : Bool := x.covers t.asid (t.vpn * 2 ^ pageBits t.leaf.level) t.leaf

/-- R114: what a shootdown covers of what a die's rings hold. -/
def Shootdown.onDie (x : Shootdown) (die : Nat) : Cover := fun ring asid va page => dieOf ring == die && x.covers asid (64 * va) page

/-- R114: whether a speculative chunk has used a covered page: it holds a version, a read bit or an update record there. -/
def Chunk.touched (c : Chunk) (x : Shootdown) (asid : BitVec 12) : Bool :=
  c.touches.any (fun t => x.covers asid (t.vpn * 2 ^ pageBits t.page.level) t.page)

/-- R114: on the focused ring, squashes from the first speculative chunk that has used a covered page on. -/
def State.squashTouched (s : State) (x : Shootdown) : State :=
  match s.younger.findIdx? (fun c => c.touched x s.thr.asid) with
  | none => s
  | some i => s.squashFrom i

/-- R115: whether a shootdown covers one of the translations that waiting accesses of an address space hold. -/
def Shootdown.coversHeld (x : Shootdown) (asid : BitVec 12) (held : List (Nat × Leaf)) : Bool :=
  held.any (fun h => x.covers asid (h.1 * 2 ^ pageBits h.2.level) h.2)

/-- R115: whether an access of a ring, by a slot or a copy engine, waits at a home with a covered translation. -/
def RingCtx.holds (r : RingCtx) (x : Shootdown) : Bool :=
  r.chunks.any (fun c => x.coversHeld r.thr.asid c.held) || r.thr.cmds.any (fun c => x.coversHeld r.thr.asid c.held)

/-- R115: whether a die has still to complete accesses that it translated before the shootdown: they wait at their homes, or for a TRK
line. -/
def State.shootWaits (s : State) (x : Shootdown) (die : Nat) : Bool :=
  (s.ctx :: s.others).any (fun r => dieOf r.ring == die && r.holds x)
    || s.coh.dir.any (fun d => (d.waiting ++ (d.purge.map (fun p => p.req)).toList).any (fun r =>
        dieOf r.ring == die && x.covers r.asid (64 * r.va) r.page))

/-- R115: whether a shootdown can be complete on every die now. -/
def State.shootReady (s : State) (x : Shootdown) : Bool := (List.range Config.dies).all (fun d => !s.shootWaits x d)

/-- R114: what a shootdown does on one die. A walk under way reads the tables when it ends, and so sees the new entries (R115). -/
def State.shootDie (s : State) (x : Shootdown) (die : Nat) : State :=
  let s := s.dropCovered (x.onDie die)
  let s := { s with coh := { s.coh with tlb := s.coh.tlb.filter (fun t => !(t.die == die && x.coversEntry t)) } }
  (s.busyRings.filter (fun r => dieOf r == die)).foldl (fun s r => s.withRing r (fun s => s.squashTouched x)) s

/-- R114: a shootdown on every die at once, as Pronor's own commands perform it (log entry 34). -/
def State.shootAll (s : State) (x : Shootdown) : State := (List.range Config.dies).foldl (fun s d => s.shootDie x d) s

/-- R340: the shootdown that X[A] asks for. -/
def shootOf (ring id : Nat) (v : Dword) : Shootdown :=
  { client := ring, id := id, asid := BitVec.ofNat 12 v.toNat, all := v.getLsbD 15, vpn := bitsOf v.toNat 16 41, wide := false, left := List.range Config.dies }

/-- A parked instruction that writes no register completes. -/
def State.finishPlain (s : State) : State :=
  let t := State.advance { s with cpu := { s.cpu with park := none, held := [] } }
  { t with cpu := { t.cpu with turn := t.cpu.turn + 1 } }

/-- A parked instruction of a ring's head completes, by an event of whatever ring and chunk: the region's rules see the head's new pc (R23-R25),
which they do at the end of the event when the head is focused. -/
def State.finishHead (s : State) (ring : Nat) (p : Park → Bool) : State :=
  let here := s.ring == ring && s.older.isEmpty
  s.withRing ring (fun t =>
    if t.cpu.park.any p then (if here then t.finishPlain else t.finishPlain.settle t.cpu.pc) else t)

/-- R340: the pflush that asked for a shootdown completes; one that has been abandoned, or whose thread is gone, is not there any more. -/
def State.pflushDone (s : State) (x : Shootdown) : State := s.finishHead x.client (fun p => p.kind == .pflush && p.c == x.id)

/-- R114, R115: a die acknowledges the oldest shootdown that waits for it, once its accesses with an old translation have completed; the last
one completes it. -/
def execShootdownAck (die : Nat) (s : State) : Host.Outcome State Fault Refusal :=
  match s.coh.shoots.find? (fun x => x.left.contains die) with
  | none => noOccurrence s
  | some x =>
    if s.shootWaits x die then noOccurrence s
    else
    let y : Shootdown := { x with left := x.left.filter (fun d => d != die) }
    let t := s.shootDie x die
    if y.left.isEmpty then
      .next (State.pflushDone { t with coh := { t.coh with shoots := t.coh.shoots.erase x } } x)
    else .next { t with coh := { t.coh with shoots := t.coh.shoots.map (fun z => if z = x then y else z) } }

/-! ## Range flushes (R341) -/

/-- R341: how many bytes from offset o of a segment on pass R87 for at least one right. -/
def passing (d : Dword × Dword) (smode : Bool) (o : Nat) : Nat :=
  let base := bitsOf d.1.toNat 0 57
  let limit := bitsOf d.2.toNat 0 61
  if d.1.getLsbD 63 || d.1.getLsbD 57 || bitsOf d.2.toNat 61 3 ≠ 0 then 0
  else if !(d.1.getLsbD 58 || d.1.getLsbD 59 || d.1.getLsbD 60) || !(d.1.getLsbD 61 || smode) then 0
  else
    let n := limit + 1 - o
    let l := base + o
    if d.1.getLsbD 62 then
      if l < 0x18000 then min n (0x18000 - l) else if 0x20000 ≤ l then min n (0x40000 - l) else 0
    else min n (2 ^ 57 - l)

/-- R341: the pieces of a range of EAs by segment: the first EA and the length of each; the fuel bounds their number. -/
def segPieces : Nat → Nat → Nat → List (Nat × Nat)
  | 0, _, _ => []
  | fuel + 1, ea, n =>
    if n = 0 then []
    else
      let m := min n (2 ^ 61 - ea % 2 ^ 61)
      (ea, m) :: segPieces fuel ((ea + m) % 2 ^ 64) (n - m)

/-- R341: the first EA of a range that passes no right. -/
def State.rangeFault (s : State) : List (Nat × Nat) → Option Dword
  | [] => none
  | (ea, n) :: r =>
    let k := passing (s.descriptor (BitVec.ofNat 64 ea)) s.smode (ea % 2 ^ 61)
    if k < n then some (BitVec.ofNat 64 (ea + k)) else s.rangeFault r

/-- R341: the virtual lines of global memory that hold bytes of a range, as intervals of line numbers. -/
def State.rangeLines (s : State) (l : List (Nat × Nat)) : List (Nat × Nat) :=
  l.filterMap (fun p =>
    let d := s.descriptor (BitVec.ofNat 64 p.1)
    let va := bitsOf d.1.toNat 0 57 + p.1 % 2 ^ 61
    if d.1.getLsbD 62 then none else some (va / 64, (va + p.2 - 1) / 64))

/-- R341: the lines of a range that the focused ring holds. -/
def State.inRange (s : State) (r : List (Nat × Nat)) : Cover :=
  fun ring asid va _ => ring == s.ring && asid == s.thr.asid && r.any (fun p => decide (p.1 ≤ va) && decide (va ≤ p.2))

/-- R341: the ring's owned lines of a range are written back and stay as S. -/
def State.cleanCovered (s : State) (c : Cover) : State :=
  (s.coh.dir.filter (fun d => d.chain.any (fun m => m.st == .owned && c.member m))).foldl (fun s d => s.cleanLine d.line) s

/-- R341: the ring's lines of a range: dirty data is written back, C partials are merged, orphaned lines go; with inv every
line goes, the I-cache's too. A write-back of SIV bytes that has to wait makes the flush wait (R404). -/
def State.flushRange (s : State) (inv : Bool) (r : List (Nat × Nat)) : Except Stop State :=
  let c := s.inRange r
  match s.sivFlush s.ring c.siv with
  | .error e => .error e
  | .ok t =>
    if inv then .ok (t.dropCovered c)
    else
      let u := (t.dropMembers (fun m => m.st == .collect && c.member m)).cleanCovered c
      .ok { u with coh := { u.coh with l1 := u.coh.l1.filter (fun l => !(l.orphan && c.l1 l)) } }

/-- R341: the write-backs that a flush of a range causes. -/
def State.flushCount (s : State) (r : List (Nat × Nat)) : Nat :=
  let c := s.inRange r
  (s.coh.siv.filter (fun l => c.siv l && l.dirty != 0)).length
    + (s.coh.dir.filter (fun d => d.chain.any (fun m => m.st != .shared && c.member m))).length

/-- R341: cflush, or cinv with inv; it parks until its write-backs are acknowledged. -/
def rangeFlush (inv : Bool) (l a : Reg) (s : State) : Host.Outcome State Fault Refusal :=
  issue { held := true, reads := [.x a, .x l] } noEarly
    (fun s =>
      let n := (s.rx l).toNat
      if 2 ^ 32 < n then .trap s causeIllstate (s.rx l)
      else
        let r := segPieces 3 (s.rx a).toNat n
        match s.rangeFault r with
        | some ea => .trap s causeSegv ea
        | none =>
          let k := s.flushCount (s.rangeLines r)
          match s.flushRange inv (s.rangeLines r) with
          | .error e => Res.ofStop s e
          | .ok t =>
            let t := { t with thr := { t.thr with unacked := t.thr.unacked + k } }
            if k = 0 then .done t.advance else .wait (t.parkAs .cflush 0 0 0 0)) s

/-- R341: writes back the ring's lines of a range. -/
def execCflush (l a : Reg) (s : State) : Host.Outcome State Fault Refusal := rangeFlush false l a s

/-- R341: writes back and invalidates the ring's lines of a range. -/
def execCinv (l a : Reg) (s : State) : Host.Outcome State Fault Refusal := rangeFlush true l a s

/-- R341, R346, R404: whether a home can acknowledge one more of the ring's stores and write-backs: those that still wait in a controller's
queue are not acknowledged. -/
def State.ackDue (s : State) : Bool :=
  decide ((s.plat.queued.filter (fun w => w.ofRing && w.src % 256 == s.ring)).length < s.thr.unacked)

/-- R341, R346: a home acknowledges a store or write-back; with the last one a parked cflush or cinv completes. -/
def execWriteBackAcknowledgement (s : State) : Host.Outcome State Fault Refusal :=
  if !s.ackDue then noOccurrence s
  else
    let t := { s with thr := { s.thr with unacked := s.thr.unacked - 1 } }
    .next (if t.thr.unacked = 0 then t.finishHead t.ring (fun p => p.kind == .cflush) else t)

/-! ## The chain of a TRK line (R105, R106) -/

/-- The address space of the thread on a ring. -/
def State.ringAsid (s : State) (ring : Nat) : Option (BitVec 12) :=
  if s.live && s.ring == ring then some s.thr.asid else (s.others.find? (fun r => r.ring == ring)).map (fun r => r.thr.asid)

/-- R97, R105: the request that a ring can make for a TRK line: through a translation that its die's port holds for its address
space, and that allows the access. -/
def State.lineReq (s : State) (ring line : Nat) (own : Bool) : Option LineReq :=
  match s.ringAsid ring with
  | none => none
  | some asid =>
    let need : Need := if own then .store else .load
    s.coh.tlb.findSome? (fun t =>
      let va := t.vpn * 2 ^ pageBits t.leaf.level
      let first := (t.leaf.mapped va).pa / 64
      if t.serves (dieOf ring) asid va && pteCoh t.leaf.entry == .trk && (leafProt t.leaf true need va).isNone && t.leaf.marked need
          && first ≤ line && line < first + 2 ^ pageBits t.leaf.level / 64 then
        some { ring := ring, asid := asid, va := va / 64 + (line - first), page := t.leaf, own := own }
      else none)

/-- R105: a ring's read miss joins the line's chain at its head. -/
def execTrkReadMiss (ring line : Nat) (s : State) : Host.Outcome State Fault Refusal :=
  match s.lineReq ring line false with
  | none => noOccurrence s
  | some r => .next (if purging s.coh.dir line then s.waitLine r line else s.serveRead r line)

/-- R105, R106: a ring asks for ownership: C copies are recalled and a purge of the other members starts. -/
def execTrkOwnershipRequest (ring line : Nat) (s : State) : Host.Outcome State Fault Refusal :=
  match s.lineReq ring line true with
  | none => noOccurrence s
  | some r => .next (if purging s.coh.dir line then s.waitLine r line else s.startPurge r line [])

/-- The directory entry of a line that is being purged. -/
def purgeOf (dir : List DirLine) (line : Nat) : Option (Purge × List LineReq) :=
  (dir.find? (fun d => d.line == line)).bind (fun d => d.purge.map (fun p => (p, d.waiting)))

/-- R105: the purge reaches the next member, which invalidates the line, with its ring's L1 copies, and passes it on. -/
def execTrkPurge (line : Nat) (s : State) : Host.Outcome State Fault Refusal :=
  match purgeOf s.coh.dir line with
  | none => noOccurrence s
  | some (p, _) =>
    match p.left with
    | [] => noOccurrence s
    | m :: rest =>
      .next ((s.mapLine line (fun d => { d with purge := some { p with left := rest } })).dropFrom line (fun x => x.ring == m))

/-- R105, R106, R110: the tail has acknowledged, the merges and write-backs of the copies that have left are done, with the writes that
arrived before the purge, and the home grants M; then the requests that have waited are served. -/
def execPurgeAck (line : Nat) (s : State) : Host.Outcome State Fault Refusal :=
  match purgeOf s.coh.dir line with
  | none => noOccurrence s
  | some (p, waiting) =>
    if p.left ≠ [] ∨ s.plat.queued.any (fun w => w.pa / 64 == line && (w.ofRing || decide (w.since < p.since))) then noOccurrence s
    else
      let t := s.mapLine line (fun d => { d with purge := none, waiting := [] })
      match State.trkTake { t with plat := { t.plat with serves := some (64 * line, 0) } } p.req.who (64 * p.req.va) (p.req.target line) with
      | .ok u => .next (State.serveWaiting { u with plat := { u.plat with serves := t.plat.serves } } line waiting)
      | .error .wait => noOccurrence s
      | .error (.queue _) => noOccurrence s
      | .error _ => .next (t.serveWaiting line waiting)

/-- R106, R107: a ring-cache line is evicted: an S or M copy leaves its chain with the ring's L1 copies, a C partial is merged,
dirty SIV bytes are written back. -/
def execRingCacheEviction (ring line : Nat) (s : State) : Host.Outcome State Fault Refusal :=
  if purging s.coh.dir line then noOccurrence s
  else .next (s.evictLine ring line)

/-! ## Walks (R98, R101) -/

/-- R101: a miss of the focused thread asks its die's port for a walk: one of the 64 walkers takes it, or it waits in order of
arrival. -/
def execPageWalkStart (die : Nat) (va : BitVec 64) (s : State) : Host.Outcome State Fault Refusal :=
  let w : Walk := { die := die, asid := s.thr.asid, root := s.thr.pgroot, va := va.toNat % 2 ^ 57 }
  if !s.live || dieOf s.ring ≠ die then noOccurrence s
  else .next (s.waitWalk w)

/-- R98, R101: the oldest walk of a die ends: with a translation, which is cached, or with a fault, which the access that
needs it takes. A and D are set by the access itself, once it is no longer speculative (log entry 65). A walk whose page a migration
holds gives nothing: its access waits for the migration's end (R359). -/
def execPageWalkComplete (die : Nat) (s : State) : Host.Outcome State Fault Refusal :=
  match s.coh.walks.find? (fun w => w.die == die) with
  | none => noOccurrence s
  | some w =>
    let s := { s with coh := { s.coh with walks := s.coh.walks.erase w } }
    match s.walk die .load w.root w.va with
    | .error _ => .next s
    | .ok (f, t) => .next (if t.heldPage f then t else t.tlbAdd (8 * die) w.asid .gather w.va f)

end Sys2Proof.Machine
end

