-- ==== Sys2Proof/Machine/Messages.lean ====
section
/-! DEFINITION. Messages: msend, mrecv, mcount, and the message unit's deliveries (R223-R231).
-/

namespace Sys2Proof.Machine

/-! ## Ranges of memory -/

/-- Reads of these pieces in an address space; an error names the VA of the piece that failed. -/
def State.sysReadPieces (s : State) (root : Dword) : List (Nat × Nat) → Except (Stop × Nat) (List Byte × State)
  | [] => .ok ([], s)
  | (va, n) :: r =>
    match s.sysRead root va n with
    | .error e => .error (e, va)
    | .ok (bs, s) =>
      match s.sysReadPieces root r with
      | .error e => .error e
      | .ok (more, s) => .ok (bs ++ more, s)

/-- Writes of bytes to these pieces of an address space. -/
def State.sysWritePieces (s : State) (root : Dword) (bs : List Byte) : List (Nat × Nat) → Except (Stop × Nat) State
  | [] => .ok s
  | (va, n) :: r =>
    match s.sysWrite root va (bs.take n) with
    | .error e => .error (e, va)
    | .ok s => s.sysWritePieces root (bs.drop n) r

/-! ## Mailboxes (R223, R224) -/

/-- R224: a mailbox descriptor. -/
structure Mailbox where
  count  : Nat
  taken  : Nat
  slots  : Nat
  cap    : Nat
  slotsz : Nat
  deriving DecidableEq, Repr

/-- R224: the fields of a descriptor. -/
def Mailbox.ofBytes (b : List Byte) : Mailbox :=
  { count := field b 0 8, taken := field b 8 8, slots := field b 16 8, cap := field b 24 2, slotsz := field b 26 2 }

/-- R224: messages waiting, modulo 2^64. -/
def Mailbox.waiting (m : Mailbox) : Nat := (m.count + 2 ^ 64 - m.taken) % 2 ^ 64

/-- R224: the VA of the slot that message number c occupies. -/
def Mailbox.slot (m : Mailbox) (c : Nat) : Nat := (m.slots + c % m.cap * (64 + m.slotsz)) % 2 ^ 57

/-- R223: BASE of mbase. -/
def mbaseBase (v : Dword) : Nat := bitsOf v.toNat 8 49 * 256

/-- R223: the VA of a descriptor. -/
def descriptorVa (base mbox : Nat) : Nat := base + 64 * (mbox % 4)

/-- R224: the header written before a payload. -/
def slotHeader (spkg sep ch len : Nat) (user : Dword) (seq : Nat) : List Byte :=
  leBytes 2 spkg ++ leBytes 1 sep ++ leBytes 1 (ch % 4) ++ leBytes 2 len ++ leBytes 2 0 ++ leBytes 8 user.toNat ++ leBytes 8 seq
    ++ List.replicate 40 0

/-- R228: one delivery: header and payload into the slot, then COUNT + 1. -/
def State.deliver (s : State) (e : Endpoint) (mbox : Nat) (m : Mailbox) (spkg sep ch : Nat) (user : Dword) (payload : List Byte) :
    Except (Stop × Nat) State :=
  let bs := slotHeader spkg sep ch payload.length user m.count ++ payload
  match s.sysWritePieces e.root bs (pieces (bs.length + 1) (m.slot m.count) bs.length) with
  | .error e => .error e
  | .ok s =>
    let va := descriptorVa e.base.toNat mbox
    match s.sysWrite e.root va (leBytes 8 (m.count + 1)) with
    | .error e => .error (e, va)
    | .ok s => .ok s

/-- R8, R224: a mailbox whose descriptor, or whose slots, lie in an SIV page breaks an obligation of its address space. -/
def State.inSivMailbox (s : State) (root : Dword) (va : Nat) (m : Mailbox) : Bool :=
  s.inSiv root va || (List.range m.cap).any (fun i => s.inSiv root (m.slot i) || s.inSiv root (m.slot i + 63 + m.slotsz))

/-- The mailbox of a bound endpoint. -/
def State.mailbox (s : State) (e : Endpoint) (mbox : Nat) : Except (Stop × Nat) (Mailbox × State) :=
  let va := descriptorVa e.base.toNat mbox
  match s.sysRead e.root va 64 with
  | .error x => .error (x, va)
  | .ok (b, s) =>
    let m := Mailbox.ofBytes b
    .ok (m, if s.inSivMailbox e.root va m then s.breach e.asid else s)

/-- R223: the binding of an endpoint number of this package. -/
def State.endpoint (s : State) (ep : Nat) : Option Endpoint := s.host.endpoints.find? (fun e => e.ep == ep)

/-- R384: logs the error response behind a stop of the message unit. -/
def State.logMessage (s : State) (asid : BitVec 12) : Stop → State
  | .noMemory pa c => s.logError pa (srcCode 3 asid 0) c
  | .logged _ _ pa c => s.logError pa (srcCode 3 asid 0) c
  | _ => s

/-- R228: a delivery abandoned: the event of KIND 8 at the sending thread's package, and the log entry of an error response. -/
def State.abandon (s : State) (lid tix : Nat) (asid : BitVec 12) (why : Stop) (va : Nat) : State :=
  let s := s.logMessage asid why
  let (q, tag) := s.launchTag lid
  s.post (eventRecord s 8 q lid tix 0 0 0 (BitVec.ofNat 64 va) tag)

/-! ## msend (R225-R227) -/

/-- R225: a message record. -/
structure MsgRecord where
  pkg     : Nat
  ep      : Nat
  mbox    : Nat
  ch      : Nat
  len     : Nat
  payload : Nat
  user    : Dword
  deriving DecidableEq, Repr

/-- R225: the fields of a message record. -/
def MsgRecord.ofBytes (b : List Byte) : MsgRecord :=
  { pkg := field b 0 2, ep := field b 2 1, mbox := field b 3 1 % 4, ch := field b 3 1 / 4 % 4, len := field b 4 2
    payload := field b 8 8, user := field64 b 16 }

/-- R225: whether a Z field of the record is not zero. -/
def badRecord (b : List Byte) : Bool :=
  1024 ≤ field b 0 2 || 16 ≤ field b 3 1 || !fieldZero b 6 2 || !fieldZero b 24 8

/-- R87: n bytes at an LS address, when they lie within one window. That an address outside every window has none for 0 bytes either, so
that msend answers BADREC, is the model's choice (R227, log entry 88). -/
def lsWindow (l n : Nat) : Option Target :=
  if l + n ≤ 0x18000 then some (.priv l)
  else if 0x20000 ≤ l && l + n ≤ 0x40000 then some (.shared l)
  else none

/-- R224: the source endpoint number of a thread. -/
def sourceEp (mbase : Dword) : Nat := if mbaseEn mbase then bitsOf mbase.toNat 0 8 else 255

/-- R226: EN of park. -/
def parkEn (v : Dword) : Bool := v.getLsbD 63

/-- R226: BASE of park. -/
def parkBase (v : Dword) : Nat := bitsOf v.toNat 6 51 * 64

/-- R226: the VA of a parking entry. -/
def entryVa (base i : Nat) : Nat := base + 64 + 4160 * i

/-- R8, R226: a STATE word that is neither free, nor undeliverable, nor that of an entry the message unit holds was never set to 0. -/
def State.strayState (s : State) (i v : Nat) : Bool :=
  v != 0 && v != 2 && !s.host.parked.any (fun p => p.lid == s.thr.lid && p.tix == s.thr.tix && p.entry == i)

/-- R227: the lowest-numbered free parking entry, from one on, read as the sender's own memory. -/
def State.freeEntry (s : State) (base : Nat) : Nat → Nat → Except Stop (Option Nat × State)
  | 0, _ => .ok (none, s)
  | fuel + 1, i =>
    match s.loadVa .gather (entryVa base i) 8 with
    | .error e => .error e
    | .ok (b, s) =>
      let s := if s.strayState i (leNat b) then s.breach s.thr.asid else s
      if leNat b = 0 then .ok (some i, s) else s.freeEntry base fuel (i + 1)

/-- R227: parks a message in the lowest-numbered free entry; false when no entry is free. R226 says nothing of the entry's bytes 40 to 63:
that they are written with zeros is the model's choice (log entry 87). -/
def State.parkMessage (s : State) (r : MsgRecord) (rec_ payload : List Byte) : Except Stop (Bool × State) :=
  if !parkEn s.thr.parkr then .ok (false, s)
  else
    let base := parkBase s.thr.parkr
    match s.loadVa .gather base 64 with
    | .error e => .error e
    | .ok (h, s) =>
      match s.freeEntry base (min (field h 0 2) 64) 0 with
      | .error e => .error e
      | .ok (none, s) => .ok (false, s)
      | .ok (some i, s) =>
        let bs := leBytes 8 1 ++ rec_ ++ List.replicate 24 0 ++ payload
        match s.storePieces .gather bs (pieces (bs.length + 1) (entryVa base i) bs.length) with
        | .error e => .error e
        | .ok s =>
          let p : Parked := { lid := s.thr.lid, tix := s.thr.tix, entry := i, pkg := r.pkg, ep := r.ep, mbox := r.mbox, ch := r.ch }
          .ok (true, { s with host := { s.host with parked := s.host.parked ++ [p] } })

/-- R227, R229: whether a message of a source to the same endpoint, mailbox and channel is parked. -/
def parkedAhead (l : List Parked) (lid tix : Nat) (r : MsgRecord) : Bool :=
  l.any (fun p => p.lid == lid && p.tix == tix && p.pkg == r.pkg && p.ep == r.ep && p.mbox == r.mbox && p.ch == r.ch)

/-- R227: writes a status. -/
def State.sent (s : State) (d : Reg) (status : Nat) : Res := .done (s.wx d (BitVec.ofNat 64 status)).advance

/-- R227: parks, or answers FULL. -/
def State.parkOrFull (s : State) (d : Reg) (r : MsgRecord) (rec_ payload : List Byte) : Res :=
  match s.parkMessage r rec_ payload with
  | .error e => Res.ofStop s e
  | .ok (parked, t) => t.sent d (if parked then 1 else 2)

/-- R227, R403: a send to an endpoint of this package; an uncorrectable error is the issuing thread's. -/
def State.sendLocal (s : State) (d : Reg) (r : MsgRecord) (rec_ payload : List Byte) : Res :=
  match s.endpoint r.ep with
  | none => s.sent d 3
  | some e =>
    match s.mailbox e r.mbox with
    | .error (.wait, _) => .wait s
    | .error (.memerr pa, _) => .memerr s pa
    | .error (x, va) => (s.abandon s.thr.lid s.thr.tix e.asid x va).sent d 3
    | .ok (m, t) =>
      if m.cap = 0 then t.sent d 6
      else if 4096 < r.len ∨ m.slotsz < r.len then t.sent d 4
      else if m.waiting ≠ m.cap ∧ !parkedAhead t.host.parked t.thr.lid t.thr.tix r then
        match t.deliver e r.mbox m t.plat.pkid.toNat (sourceEp t.thr.mbase) r.ch r.user payload with
        | .error (.wait, _) => .wait s
        | .error (.memerr pa, _) => .memerr s pa
        | .error (x, va) => (s.abandon s.thr.lid s.thr.tix e.asid x va).sent d 3
        | .ok u => u.sent d 0
      else t.parkOrFull d r rec_ payload

/-- R227, R228: a send to another package: its message unit's answer is free, an abandoned delivery among the answers (log entry
14). -/
def State.sendPeer (s : State) (d : Reg) (r : MsgRecord) (rec_ payload : List Byte) : Res :=
  let answer := (Config.peerByte s.tick 0).toNat % 6
  if answer = 0 then s.sent d 3
  else if answer = 5 then (s.abandon s.thr.lid s.thr.tix s.thr.asid .wait (Config.messageVa s.tick)).sent d 3
  else if answer = 1 then s.sent d 6
  else if 4096 < r.len ∨ answer = 2 then s.sent d 4
  else if answer = 3 ∧ !parkedAhead s.host.parked s.thr.lid s.thr.tix r then s.sent d 0
  else s.parkOrFull d r rec_ payload

/-- R227: sends one message. -/
def execMsend (d a : Reg) (s : State) : Host.Outcome State Fault Refusal :=
  issue { held := true, reads := [.x a], writes := [.x d] } noEarly
    (fun s =>
      match s.readRecord (s.rx a) 32 32 with
      | .error e => Res.ofStop s e
      | .ok b =>
        match s.release 3 with
        | .error e => Res.ofStop s e
        | .ok s =>
          let r := MsgRecord.ofBytes b
          match lsWindow r.payload r.len with
          | none => s.sent d 5
          | some t =>
            if badRecord b then s.sent d 5
            else
              let payload := s.lsSeen t r.len
              if r.pkg = s.plat.pkid.toNat then s.sendLocal d r b payload
              else if s.plat.pod.any (fun p => p.1 == r.pkg) then s.sendPeer d r b payload
              else s.sent d 3) s

/-! ## mrecv and mcount (R230, R231) -/

/-- R230: the descriptor of one of the thread's own mailboxes, read under the checks of R89. -/
def State.ownMailbox (s : State) (v : Dword) : Except Stop (Mailbox × State) :=
  match s.loadVa .gather (descriptorVa (mbaseBase s.thr.mbase) (v.toNat % 4)) 64 with
  | .error e => .error e
  | .ok (b, s) =>
    let m := Mailbox.ofBytes b
    let va := descriptorVa (mbaseBase s.thr.mbase) (v.toNat % 4)
    .ok (m, if s.isHead && s.inSivMailbox s.thr.pgroot va m then s.breach s.thr.asid else s)

/-- R230: the check of the LS destination. -/
def State.lsDestination (s : State) (ea : Dword) (n : Nat) : Except Stop Target :=
  match s.resolveLs .store ea n 64 with
  | .error e => .error e
  | .ok t => if s.sharedLocked t then .error (.trap causeSegv ea) else .ok t

/-- R230: takes the oldest message of a mailbox. -/
def State.takeMessage (s : State) (d : Reg) (m : Mailbox) (mbox : Nat) (t : Target) : Res :=
  match s.loadVa .gather (m.slot m.taken) 64 with
  | .error e => Res.ofStop s e
  | .ok (h, s1) =>
    let len := field h 4 2
    match s1.loadPieces .gather (pieces (len + 1) (m.slot m.taken + 64) len) with
    | .error e => Res.ofStop s e
    | .ok (p, s2) =>
      match s2.storeVa .gather (descriptorVa (mbaseBase s.thr.mbase) mbox + 8) (leBytes 8 (m.taken + 1)) with
      | .error e => Res.ofStop s e
      | .ok s3 =>
        let bs := (h ++ p).take (64 + m.slotsz)
        Res.after s (andThen (s3.lsStore t bs) (fun u => u.acquire 3)) (fun u => (u.wx d (BitVec.ofNat 64 len)).advance)

/-- R230: receives the next message of a mailbox. -/
def execMrecv (d a b : Reg) (s : State) : Host.Outcome State Fault Refusal :=
  issue { held := true, reads := [.x a, .x b], writes := [.x d] } noEarly
    (fun s =>
      let none_ (s : State) : Res := .done (s.wx d (BitVec.allOnes 64)).advance
      if !mbaseEn s.thr.mbase then
        match s.lsDestination (s.rx b) 64 with
        | .error e => Res.ofStop s e
        | .ok _ => none_ s
      else match s.ownMailbox (s.rx a) with
        | .error e => Res.ofStop s e
        | .ok (m, t) =>
          match s.lsDestination (s.rx b) (64 + m.slotsz) with
          | .error e => Res.ofStop s e
          | .ok l => if m.cap = 0 ∨ m.count = m.taken then none_ t else t.takeMessage d m ((s.rx a).toNat % 4) l) s

/-- R231: COUNT - TAKEN of a mailbox. -/
def execMcount (d a : Reg) (s : State) : Host.Outcome State Fault Refusal :=
  issue { reads := [.x a], writes := [.x d] } noEarly
    (fun s =>
      if !mbaseEn s.thr.mbase then .done (s.wx d 0).advance
      else
        match s.loadVa .gather (descriptorVa (mbaseBase s.thr.mbase) ((s.rx a).toNat % 4)) 16 with
        | .error e => Res.ofStop s e
        | .ok (b, t) => .done (t.wx d (field64 b 0 - field64 b 8)).advance) s

/-! ## The message unit (R228, R229) -/

/-- R229, R384, R403: the entry's own bytes cannot be read: an error response is logged, and an uncorrectable error charged to the sender. -/
def State.entryStop (s : State) (asid : BitVec 12) : Stop → State
  | .memerr pa => s.chargeMemerr (some asid) pa
  | e => s.logMessage asid e

/-- R228, R384, R403: a delivery from another package that does not succeed, at the destination: an error response is logged; an
uncorrectable error is the issuing thread's, which is not of this package, so that no address space is charged here; the sender's
package posts the event (log entry 14). -/
def State.deliveryStop (s : State) (asid : BitVec 12) : Stop → State
  | .memerr pa => s.chargeMemerr none pa
  | e => s.logMessage asid e

/-- R228: a message from another package reaches an endpoint of this one. -/
def execMessageDelivery (spkg sep ep mbox ch : Nat) (user : BitVec 64) (payload : List (BitVec 8)) (s : State) :
    Host.Outcome State Fault Refusal :=
  match s.endpoint ep with
  | none => noOccurrence s
  | some e =>
    match s.mailbox e mbox with
    | .error (x, _) => .next (s.deliveryStop e.asid x)
    | .ok (m, t) =>
      if m.cap = 0 ∨ m.waiting = m.cap ∨ 4096 < payload.length ∨ m.slotsz < payload.length then noOccurrence s
      else match t.deliver e mbox m spkg sep ch user payload with
        | .error (x, _) => .next (s.deliveryStop e.asid x)
        | .ok u => .next u

/-- R229: what the message unit knows of a sender: its address space, parking region and endpoint number. Where a sender has rewritten
park, pgroot, asid or mbase since the msend, that the values at the delivery count is the model's choice (log entries 90 and 91). -/
def State.senderOf (s : State) (lid tix : Nat) : Option Sender :=
  match s.threads.find? (fun t => t.lid == lid && t.tix == tix) with
  | some t =>
    some { lid := lid, tix := tix, asid := t.asid, root := t.pgroot, base := BitVec.ofNat 64 (parkBase t.parkr)
           sep := sourceEp t.mbase }
  | none => s.host.senders.find? (fun x => x.lid == lid && x.tix == tix)

/-- R229: a sender that has ended is forgotten with its last parked entry. -/
def State.dropSender (s : State) (lid tix : Nat) : State :=
  if s.host.parked.any (fun p => p.lid == lid && p.tix == tix) then s
  else { s with host := { s.host with senders := s.host.senders.filter (fun x => !(x.lid == lid && x.tix == tix)) } }

/-- R229: an entry that is no longer parked. -/
def State.unpark (s : State) (p : Parked) : State :=
  State.dropSender { s with host := { s.host with parked := s.host.parked.filter (fun q => q != p) } } p.lid p.tix

/-- R226, R229: an entry leaves STATE 1: 0 delivered, 2 undeliverable; none while the word cannot be written (R404). A write that
meets an error is logged or charged. -/
def State.entryState (s : State) (x : Sender) (p : Parked) (v : Nat) : Option State :=
  match s.sysWrite x.root (entryVa x.base.toNat p.entry) (leBytes 8 v) with
  | .ok t => some (t.unpark p)
  | .error .wait => none
  | .error (.queue _) => none
  | .error .capacity => none
  | .error (.memerr pa) => some ((s.unpark p).chargeMemerr (some x.asid) pa)
  | .error e => some ((s.logMessage x.asid e).unpark p)

/-- R229: an entry becomes undeliverable, with its event. -/
def State.undeliverable (s : State) (x : Sender) (p : Parked) (asid : BitVec 12) (why : Stop) (va : Nat) : Option State :=
  (s.entryState x p 2).map (fun t => t.abandon p.lid p.tix asid why va)

/-- R229: the message unit tries a parked entry of this package's mailboxes; none when it has to try again later. The descriptor's
VA of an endpoint that no thread holds is a free value (log entry 75). -/
def State.retry (s : State) (x : Sender) (p : Parked) (r : MsgRecord) (payload : List Byte) : Option State :=
  match s.endpoint p.ep with
  | none => s.undeliverable x p x.asid .wait (Config.messageVa s.tick)
  | some e =>
    let va := descriptorVa e.base.toNat p.mbox
    match s.mailbox e p.mbox with
    | .error (.wait, _) => none
    | .error (.memerr pa, _) => some (s.chargeMemerr (some x.asid) pa)
    | .error (why, va) => s.undeliverable x p e.asid why va
    | .ok (m, t) =>
      if m.cap = 0 ∨ m.slotsz < r.len then t.undeliverable x p e.asid .wait va
      else if m.waiting = m.cap then some t
      else match t.deliver e p.mbox m t.plat.pkid.toNat x.sep p.ch r.user payload with
        | .error (.wait, _) => none
        | .error (.memerr pa, _) => some (s.chargeMemerr (some x.asid) pa)
        | .error (why, va) => s.undeliverable x p e.asid why va
        | .ok u => u.entryState x p 0

/-- R229: the message unit of another package answers for a parked entry: delivered, undeliverable, or not yet (log entries 14,
75). -/
def State.retryPeer (s : State) (x : Sender) (p : Parked) : Option State :=
  let answer := (Config.peerByte s.tick 0).toNat % 3
  if answer = 0 then s.entryState x p 0
  else if answer = 1 then s.undeliverable x p x.asid .wait (Config.messageVa s.tick)
  else some s

/-- R229: the record and payload of a parked entry, read in the sender's address space. -/
def State.parkedEntry (s : State) (x : Sender) (entry : Nat) : Except (Stop × Nat) ((MsgRecord × List Byte) × State) :=
  let va := entryVa x.base.toNat entry
  match s.sysReadPieces x.root (pieces 2 va 64) with
  | .error e => .error e
  | .ok (b, s) =>
    let r := MsgRecord.ofBytes (b.drop 8)
    match s.sysReadPieces x.root (pieces (r.len + 1) (va + 64) r.len) with
    | .error e => .error e
    | .ok (payload, s) => .ok ((r, payload), s)

/-- R229: a parked entry is tried again: only when no earlier one of its source, endpoint, mailbox and channel is parked. An entry
whose own bytes cannot be read stays parked (log entry 75). -/
def execParkedMessageDelivery (lid tix entry : Nat) (s : State) : Host.Outcome State Fault Refusal :=
  match s.host.parked.find? (fun p => p.lid == lid && p.tix == tix && p.entry == entry), s.senderOf lid tix with
  | some p, some x =>
    let first := s.host.parked.find? (fun q =>
      q.lid == lid && q.tix == tix && q.pkg == p.pkg && q.ep == p.ep && q.mbox == p.mbox && q.ch == p.ch)
    if first ≠ some p then noOccurrence s
    else match s.parkedEntry x entry with
      | .error (why, _) => .next (s.entryStop x.asid why)
      | .ok ((r, payload), t) =>
        .next ((if p.pkg = t.plat.pkid.toNat then t.retry x p r payload else t.retryPeer x p).getD s)
  | _, _ => noOccurrence s

/-! ## MSGIRQ (R329) -/

/-- R329: the mailboxes of a thread with CAP not zero and COUNT not TAKEN, one bit each, whether or not their memory serves now. -/
def State.messageBits (s : State) (t : Thread) : Nat :=
  if !mbaseEn t.mbase then 0
  else
    let bit (m : Nat) : Nat :=
      match s.peek t.pgroot (descriptorVa (mbaseBase t.mbase) m) 64 with
      | some b => if (Mailbox.ofBytes b).cap ≠ 0 ∧ (Mailbox.ofBytes b).count ≠ (Mailbox.ofBytes b).taken then 2 ^ m else 0
      | none => 0
    bit 0 + bit 1 + bit 2 + bit 3

end Sys2Proof.Machine
end

