-- ==== Sys2Proof/Machine/Admission.lean ====
section
/-! DEFINITION. Admitting launches (R360-R364): the launch record and its checks, the extension area, patch sites,
auto-join, and the state in which each thread starts; and Pronor's own accesses (R384).
-/

namespace Sys2Proof.Machine

/-! ## Pronor's accesses -/

/-- How a command, or what a spawn asks of Pronor, ends without its effect. -/
inductive CmdStop where
  /-- A status of R357 with its detail, in the state reached. -/
  | fail (code detail : Nat) (s : State)
  /-- A request waits (R106, R404): nothing has happened yet. -/
  | wait

/-- R357: status codes. -/
def stOk : Nat := 0
/-- R357. -/
def stBadcmd : Nat := 1
/-- R357. -/
def stBadrec : Nat := 2
/-- R357. -/
def stNoent : Nat := 3
/-- R357. -/
def stPerm : Nat := 4
/-- R357. -/
def stImgfail : Nat := 5
/-- R357. -/
def stGroup : Nat := 6
/-- R357. -/
def stNotable : Nat := 7
/-- R357. -/
def stAddr : Nat := 8
/-- R357. -/
def stBusy : Nat := 9
/-- R357. -/
def stFailed : Nat := 10

/-- R384: an access of Pronor that stops: an error response is logged under the command's ASID, and the command ends with
ADDR and the detail that names its field; an uncorrectable error is charged to nobody (log entry 37). -/
def State.pronorStop (s : State) (asid : BitVec 12) (detail : Nat) : Stop → CmdStop
  | .wait => .wait
  | .queue _ => .wait
  | .noMemory pa c => .fail stAddr detail (s.logError pa (srcCode 1 asid 0xFF) c)
  | .logged _ _ pa c => .fail stAddr detail (s.logError pa (srcCode 1 asid 0xFF) c)
  | .memerr pa => .fail stAddr detail (s.chargeMemerr none pa)
  | _ => .fail stAddr detail s

/-- Reads of these pieces of physical memory, at their homes. -/
def State.paRead (s : State) : List (Nat × Nat) → Except Stop (List Byte × State)
  | [] => .ok ([], s)
  | (pa, n) :: r =>
    match s.agentRead pa n with
    | .error e => .error e
    | .ok (bs, s) =>
      match s.paRead r with
      | .error e => .error e
      | .ok (more, s) => .ok (bs ++ more, s)

/-- Writes of bytes to these pieces of physical memory, at their homes; rings' TRK copies are purged (R105). -/
def State.paWrite (s : State) (bs : List Byte) : List (Nat × Nat) → Except Stop State
  | [] => .ok s
  | (pa, n) :: r =>
    match s.agentWrite pa (bs.take n) with
    | .error e => .error e
    | .ok s => (s.purgeLine (pa / 64)).paWrite (bs.drop n) r

/-- Pronor reads n bytes at a physical address that a field of its command gives. -/
def State.pronorRead (s : State) (asid : BitVec 12) (pa n detail : Nat) : Except CmdStop (List Byte × State) :=
  match s.paRead (pieces (n + 1) pa n) with
  | .error e => .error (s.pronorStop asid detail e)
  | .ok r => .ok r

/-- Pronor writes bytes at a physical address that a field of its command gives. -/
def State.pronorWrite (s : State) (asid : BitVec 12) (pa : Nat) (bs : List Byte) (detail : Nat) : Except CmdStop State :=
  match s.paWrite bs (pieces (bs.length + 1) pa bs.length) with
  | .error e => .error (s.pronorStop asid detail e)
  | .ok s => .ok s

/-! ## The launch record (R360) -/

/-- A launch record. -/
structure LaunchRec where
  bytes : List Byte
  deriving DecidableEq, Repr

/-- R360: IMAGE. -/
def LaunchRec.image (r : LaunchRec) : Nat := field r.bytes 0x00 4
/-- R360: ENTRY. -/
def LaunchRec.entry (r : LaunchRec) : Nat := field r.bytes 0x04 2
/-- R360: PRIO. -/
def LaunchRec.prio (r : LaunchRec) : Nat := field r.bytes 0x06 1
/-- R360: CORES. -/
def LaunchRec.cores (r : LaunchRec) : Nat := field r.bytes 0x07 1
/-- R360: NTHR. -/
def LaunchRec.nthr (r : LaunchRec) : Nat := field r.bytes 0x08 4
/-- R360: FLAGS. -/
def LaunchRec.flags (r : LaunchRec) : Nat := field r.bytes 0x0C 2
/-- R360: FLAGS.EARLY. -/
def LaunchRec.isEarly (r : LaunchRec) : Bool := r.flags.testBit 1
/-- R360: FLAGS.MBEN. -/
def LaunchRec.mben (r : LaunchRec) : Bool := r.flags.testBit 2
/-- R360: the ASID halfword. -/
def LaunchRec.asid (r : LaunchRec) : Nat := field r.bytes 0x0E 2
/-- R360: AFF. -/
def LaunchRec.aff (r : LaunchRec) : Nat := field r.bytes 0x10 4
/-- R360: EPBASE. -/
def LaunchRec.epbase (r : LaunchRec) : Nat := field r.bytes 0x14 1
/-- R360: NDEP. -/
def LaunchRec.ndep (r : LaunchRec) : Nat := field r.bytes 0x15 1
/-- R360: NBIND. -/
def LaunchRec.nbind (r : LaunchRec) : Nat := field r.bytes 0x16 2
/-- R360: GROUPS. -/
def LaunchRec.groups (r : LaunchRec) : Nat := field r.bytes 0x18 8
/-- R360: STAT. -/
def LaunchRec.stat (r : LaunchRec) : Dword := field64 r.bytes 0x28
/-- R360: TVEC. -/
def LaunchRec.tvec (r : LaunchRec) : Dword := field64 r.bytes 0x40
/-- R360: PGROOT. -/
def LaunchRec.pgroot (r : LaunchRec) : Dword := field64 r.bytes 0x48
/-- R360: MBASE. -/
def LaunchRec.mbase (r : LaunchRec) : Nat := field r.bytes 0x50 8
/-- R360: PBASE. -/
def LaunchRec.pbase (r : LaunchRec) : Nat := field r.bytes 0x58 8
/-- R360: PSTRIDE. -/
def LaunchRec.pstride (r : LaunchRec) : Nat := field r.bytes 0x60 4
/-- R360: PLID. -/
def LaunchRec.plid (r : LaunchRec) : Nat := field r.bytes 0x64 4
/-- R360: XADDR. -/
def LaunchRec.xaddr (r : LaunchRec) : Nat := field r.bytes 0x68 8

/-- R86: eight segment descriptors of 16 bytes. -/
def segsOf (b : List Byte) (off : Nat) : Vector (Dword × Dword) 8 :=
  Vector.ofFn (fun n => (field64 b (off + 16 * n.val), field64 b (off + 16 * n.val + 8)))

/-- R360: SEGS. -/
def LaunchRec.segs (r : LaunchRec) : Vector (Dword × Dword) 8 := segsOf r.bytes 0x80

/-- R358: the image that a handle names. -/
def State.imageOf (s : State) (handle : Nat) : Option Image := s.host.images.find? (fun i => i.handle == handle)

/-- The launch that an id names. -/
def State.launchOf (s : State) (lid : Nat) : Option Launch := s.host.launches.find? (fun l => l.lid == lid)

/-- R360, R371: PLID names an unfinished launch of one of these address spaces. -/
def State.unfinished (s : State) (lid : Nat) (asids : List (BitVec 12)) : Bool :=
  match s.launchOf lid with
  | some l => !l.closed && asids.contains l.asid
  | none => false

/-- R360, R362: the record's first bad field, in offset order; pmax is a queue's limit, and a spawn passes none. IMAGE and PLID are
judged against these address spaces: more than one where a record names another ASID than its queue's, which is no bad field
(R361). Segment descriptors are kept whole: their Z bits have a meaning of their own (R86, log entry 44). -/
def State.badRec (s : State) (r : LaunchRec) (asids : List (BitVec 12)) (pmax : Option Nat) : Option Nat :=
  let a := r.aff
  let spawned := pmax.isNone
  let top := match pmax with
    | some p => p
    | none => 7
  let img := s.imageOf r.image
  let checks : List (Nat × Bool) :=
    [(0x00, match img with | some i => !asids.contains i.asid | none => true),
     (0x04, match img with | some i => decide (i.entries.length ≤ r.entry) | none => false),
     (0x06, decide (7 < r.prio ∨ top < r.prio)),
     (0x07, !([1, 2, 4, 8, 16].contains r.cores)),
     (0x08, decide (r.nthr = 0 ∨ 65536 < r.nthr)),
     (0x0C, r.flags / 256 != 0),
     (0x0E, r.asid / 4096 != 0 || (spawned && r.asid != 0)),
     (0x10, bitsOf a 18 14 != 0 || decide (16 < bitsOf a 0 4 + bitsOf a 8 4 + 1) || decide (16 < bitsOf a 4 4 + bitsOf a 12 4 + 1)),
     (0x14, r.mben && decide (256 < r.epbase + r.nthr)),
     (0x15, decide (16 < r.ndep)),
     (0x16, decide (1024 < r.nbind)),
     (0x28, r.stat &&& ~~~(0x77F#64) != 0),
     (0x48, spawned && r.pgroot != 0),
     (0x50, r.mbase % 256 != 0),
     (0x58, r.pbase % 64 != 0),
     (0x60, r.pstride % 64 != 0),
     (0x64, r.isEarly && !s.unfinished r.plid asids),
     (0x80, spawned && r.segs.toList.any (fun d => d != (0, 0)))]
  (checks.find? (fun c => c.2)).map (fun c => c.1)

/-! ## A launch to be admitted -/

/-- What a LAUNCH or spawn gives the threads, after R361 and R362. -/
structure Admit where
  record : LaunchRec
  asid   : BitVec 12
  /-- R384: the ASID of the command, or of the thread that spawns. -/
  cmd    : BitVec 12
  root   : Dword
  tvec   : Dword
  sg     : Vector (Dword × Dword) 8
  prio   : Nat
  det    : Bool
  queue  : Nat
  tag    : Dword
  parent : Option (Nat × Nat × Nat)

/-- R363: lsp. -/
def lspOf (sg : Vector (Dword × Dword) 8) : Dword :=
  let here (n : Nat) : Option Dword :=
    let d := sg.toList.getD n (0, 0)
    let base := bitsOf d.1.toNat 0 57
    if d.1.getLsbD 62 && base ≤ 0x20000 && 0x20000 ≤ base + bitsOf d.2.toNat 0 61 then
      some (BitVec.ofNat 64 (n * 2 ^ 61 + (0x20000 - base)))
    else none
  ((List.range 8).findSome? here).getD 0

/-- R363: the state in which thread t of a launch starts, at an entry point: an offset in sg0, whose two low bits pc does not hold
(R141, log entry 77). -/
def Admit.thread (a : Admit) (img : Image) (entry lid t : Nat) (ready : Bool) : Saved :=
  let r := a.record
  let stat := (r.stat &&& 0x777) ||| (if a.det then 8#64 else 0#64)
  { thr := { Thread.blank with
      st := if ready then .ready else .new
      lid := lid, tix := t, cores := r.cores
      tvec := a.tvec &&& bitMask 2 63, wtime := field64 r.bytes 0x30, asid := a.asid, pgroot := a.root &&& bitMask 16 51, sg := a.sg
      mbase := BitVec.ofNat 64 (r.mben.toNat * 2 ^ 63 + (r.mbase + 256 * t) / 256 % 2 ^ 49 * 256 + (r.epbase + t) % 256)
      parkr := BitVec.ofNat 64 ((r.flags.testBit 3).toNat * 2 ^ 63 + (r.pbase + r.pstride * t) / 64 % 2 ^ 51 * 64)
      shared := img.shared }
    head := { Chunk.blank with
      pc := BitVec.ofNat 64 (entry % 2 ^ 61 / 4 * 4)
      x := (Chunk.blank.x.set 3 (field64 r.bytes 0x20)).set 4 (lspOf a.sg)
      stat := stat, seed := field64 r.bytes 0x38 }
    block := none }

/-! ## The extension area and dependences (R364) -/

/-- R364: the address bound to each patch name of an image; a name with no binding is bound to 0. R364 does not say which of two bindings
of one NAME counts: that it is the first is the model's choice (log entry 105). -/
def bindingsOf (img : Image) (ext : List Byte) (ndep nbind : Nat) : List (Nat × Dword) :=
  let names := img.patches.foldl (fun l p => addNew p.2.1 l) []
  let given := (List.range nbind).map (fun i => (field ext (16 * (ndep + i) + 8) 4, field64 ext (16 * (ndep + i))))
  names.map (fun n => (n, match given.find? (fun g => g.1 == n) with | some g => g.2 | none => 0))

/-- R364: the dependences of an extension area: EA and VALUE. -/
def depsOf (ext : List Byte) (ndep : Nat) : List (Dword × Dword) :=
  (List.range ndep).map (fun i => (field64 ext (16 * i), field64 ext (16 * i + 8)))

/-- R364: one read of a dependence word, at its home: whether it is met. An EA that leads to no global memory fails. -/
def State.depMet (s : State) (root : Dword) (sg : Vector (Dword × Dword) 8) (d : Dword × Dword) : Except Stop (Bool × State) :=
  match segTarget (sg.toList.getD (bitsOf d.1.toNat 61 3) (0, 0)) true .load d.1 8 with
  | some (.global va) =>
    match s.sysReadPieces root (pieces 2 va 8) with
    | .error (e, _) => .error e
    | .ok (b, s) => .ok (decide (d.2.toNat ≤ leNat b), s)
  | _ => .error (.trap causeSegv d.1)

/-- R364: reads the dependences from number i on: those that are not met. A failure names its entry. -/
def State.unmetDeps (s : State) (root : Dword) (sg : Vector (Dword × Dword) 8) (i : Nat) :
    List (Dword × Dword) → Except (Stop × Nat) (List (Dword × Dword) × State)
  | [] => .ok ([], s)
  | d :: r =>
    match s.depMet root sg d with
    | .error e => .error (e, i)
    | .ok (met, s) =>
      match s.unmetDeps root sg (i + 1) r with
      | .error e => .error e
      | .ok (l, s) => .ok (if met then l else d :: l, s)

/-! ## Patch sites (R172, R364) -/

/-- R99, R112, R172: the loader's write at a VA: A and D are set, the page's rights do not stop it (log entry 40), and a replicated
page does. -/
def State.loaderWrite (s : State) (root : Dword) (va : Nat) (bs : List Byte) : Except Stop State :=
  match s.walk 0 .store root va with
  | .error e => .error e.plain
  | .ok (f, s) =>
    if pteRep f.entry then .error (.trap causeProt (faultInfo true false .store f.level va))
    else if s.heldPage f then .error .wait
    else match s.setAD .store f.addr with
      | .error e => .error e.plain
      | .ok (_, s) =>
        let pa := (f.mapped va).pa
        match s.agentWrite pa bs with
        | .error e => .error e
        | .ok s => .ok (s.purgeLine (pa / 64))

/-- The loader's writes at these pieces. -/
def State.loaderPieces (s : State) (root : Dword) (bs : List Byte) : List (Nat × Nat) → Except Stop State
  | [] => .ok s
  | (va, n) :: r =>
    match s.loaderWrite root va (bs.take n) with
    | .error e => .error e
    | .ok s => s.loaderPieces root (bs.drop n) r

/-- R172, R364: the value of a patch site: the address bound to its name plus the kept addend. -/
def patchValue (binds : List (Nat × Dword)) (p : Nat × Nat × Dword) : Dword :=
  (match binds.find? (fun b => b.1 == p.2.1) with | some b => b.2 | none => 0) + p.2.2

/-- R384, R403: a patch site that cannot be written: an error response is logged under the command's ASID, an uncorrectable error is
charged to the image's address space. -/
def State.patchStop (s : State) (cmd : BitVec 12) (img : Image) : Stop → State
  | .noMemory pa c => s.logError pa (srcCode 1 cmd 0xFF) c
  | .logged _ _ pa c => s.logError pa (srcCode 1 cmd 0xFF) c
  | .memerr a => { s with plat := { s.plat with due := s.plat.due ++ [(some img.asid, a)] } }
  | _ => s

/-- R172, R364: every patch site is written; none while one has to wait. R358 gives a LAUNCH no status for a site that cannot be
written: that it is passed over and the launch goes on is the model's choice (log entry 76). -/
def State.writePatches (s : State) (cmd : BitVec 12) (img : Image) (binds : List (Nat × Dword)) : List (Nat × Nat × Dword) → Option State
  | [] => some s
  | x :: r =>
    let va := (bitsOf img.sg0.toNat 0 57 + x.1) % 2 ^ 57
    match s.loaderPieces img.root (leBytes 8 (patchValue binds x).toNat) (pieces 2 va 8) with
    | .error .wait => none
    | .error e => (s.patchStop cmd img e).writePatches cmd img binds r
    | .ok s => s.writePatches cmd img binds r

/-! ## Admission -/

/-- R358, R371: a number that no live launch, its producer, thread or parked sender bears, from a free one on (log entry 35). -/
def State.freshLid (s : State) : Nat :=
  let used := s.host.launches.map (fun l => l.lid) ++ s.host.launches.filterMap (fun l => l.early) ++ s.threads.map (fun t => t.lid)
    ++ s.host.senders.map (fun x => x.lid)
  let from_ := Config.launchId s.tick
  match (List.range (used.length + 1)).find? (fun i => !used.contains ((from_ + i) % (2 ^ 32 - 1))) with
  | some i => (from_ + i) % (2 ^ 32 - 1)
  | none => 0

/-- R363, R220: the first group of GROUPS that thread t of a launch could not join. -/
def joinRefused (l : List Group) (asid : BitVec 12) (groups : Nat) : Option Nat :=
  (List.range 64).find? (fun g => groups.testBit g && (match groupFind l g with
    | some x => !x.members.isEmpty && x.asid != asid
    | none => false))

/-- R363: the threads from number t on join a group. -/
def joinThreads (id : Nat) (asid : BitVec 12) (lid : Nat) (l : List Group) (nthr : Nat) : List Group :=
  (List.range nthr).foldl (fun l t => groupJoin l id asid (lid, t)) l

/-- R363: every auto-join of a launch. -/
def joinAll (l : List Group) (asid : BitVec 12) (lid groups nthr : Nat) : List Group :=
  ((List.range 64).filter (fun g => groups.testBit g)).foldl (fun l g => joinThreads g asid lid l nthr) l

/-- R232: lexicographic order of two children of one launch. -/
def youngerSibling (a b : Nat × Nat × Nat) : Bool :=
  a.1 == b.1 && (decide (a.2.1 < b.2.1) || (a.2.1 == b.2.1 && decide (a.2.2 < b.2.2)))

/-- R218, R367: whether a chunk is parked in an instruction that counts as parking, for more than WPARK cycles. -/
def State.longParked (s : State) (c : Chunk) : Bool :=
  match c.park with
  | none => false
  | some p =>
    (p.kind == .waitw || p.kind == .gbar || p.kind == .cwait || p.kind == .idle)
      && decide (s.host.regs.wpark.toNat < s.cyc - p.since)

/-- The running threads with their heads. -/
def State.running (s : State) : List (Nat × Thread × Chunk) :=
  (if s.live then [(s.ring, s.thr, s.headChunk)] else [])
    ++ s.others.filterMap (fun r => match r.chunks with | c :: _ => some (r.ring, r.thr, c) | [] => none)

/-- R371: a thread of a launch waits, in READY or parked. -/
def State.waiting (s : State) (lid : Nat) : Bool :=
  s.saved.any (fun v => v.thr.lid == lid && v.thr.st == .ready)
    || s.running.any (fun r => r.2.1.lid == lid && s.longParked r.2.2)

/-- R371: U: the threads of a launch that are neither ENDED nor HALTED. -/
def State.unended (s : State) (lid : Nat) : Nat := (s.threads.filter (fun t => t.lid == lid && t.st != .halted)).length

/-- R371: the priority at which a launch's threads run: a producer's is raised while a consumer thread waits. -/
def State.prioOf (s : State) (lid : Nat) : Nat :=
  match s.launchOf lid with
  | none => 0
  | some l =>
    if s.unended lid != 0 && s.host.launches.any (fun c => c.early == some lid && s.waiting c.lid) then min (l.prio + 1) 7 else l.prio

/-- R366: whether a thread without a ring waits in the queue of a priority and belongs to a sibling of larger number. -/
def State.queuedAfter (s : State) (parent : Option (Nat × Nat × Nat)) (prio : Nat) (v : Saved) : Bool :=
  v.thr.st != .halted && s.prioOf v.thr.lid == prio && (match parent, (s.launchOf v.thr.lid) with
    | some p, some l => (match l.parent with | some q => youngerSibling p q | none => false)
    | _, _ => false)

/-- R366: a launch's threads enter the queue of their priority: at the tail, or ahead of every queued sibling of larger number. The
queue of a priority is the threads of that priority in the order of this list. -/
def State.enqueue (s : State) (parent : Option (Nat × Nat × Nat)) (prio : Nat) (vs : List Saved) : State :=
  match s.saved.findIdx? (s.queuedAfter parent prio) with
  | some i => { s with saved := s.saved.take i ++ vs ++ s.saved.drop i }
  | none => { s with saved := s.saved ++ vs }

/-- R364: another unfinished launch of the image has bound a name differently. -/
def State.boundElse (s : State) (image : Nat) (binds : List (Nat × Dword)) : Bool :=
  s.host.launches.any (fun l => l.image == image && !l.closed && l.binds != binds)

/-- R360-R364: admits a launch whose record has passed its checks: the extension area, bindings, dependences, auto-joins,
patch sites and threads, in the order of R358. The launch id is returned. -/
def State.admitLaunch (s : State) (a : Admit) : Except CmdStop (Nat × State) :=
  let r := a.record
  match s.imageOf r.image with
  | none => .error (.fail stBadrec 0 s)
  | some img =>
    let n := 16 * (r.ndep + r.nbind)
    match s.sysReadPieces a.root (pieces (n + 1) (r.xaddr % 2 ^ 57) n) with
    | .error (e, _) => .error (s.pronorStop a.cmd 0x10068 e)
    | .ok (ext, s) =>
      let binds := bindingsOf img ext r.ndep r.nbind
      if s.boundElse r.image binds then .error (.fail stBusy 0 s)
      else match s.unmetDeps a.root a.sg 0 (depsOf ext r.ndep) with
      | .error (e, i) => .error (s.pronorStop a.cmd (0x20000 + 16 * i) e)
      | .ok (unmet, s) =>
        match joinRefused s.host.groups a.asid r.groups with
        | some g => .error (.fail stGroup g s)
        | none =>
          match s.writePatches a.cmd img binds img.patches with
          | none => .error .wait
          | some s =>
            let lid := s.freshLid
            let weight := bitsOf r.flags 4 4
            let l : Launch :=
              { lid := lid, image := r.image, prio := a.prio, weight := if weight = 0 then 1 else weight, cores := r.cores
                nthr := r.nthr, asid := a.asid, cmd := a.cmd, root := a.root &&& bitMask 16 51, sg := a.sg, aff := BitVec.ofNat 64 r.aff
                early := if r.isEarly then some r.plid else none, caddr := field64 r.bytes 0x70, cval := field64 r.bytes 0x78
                queue := a.queue, tag := a.tag, parent := a.parent, deps := unmet, binds := binds, ended := 0, bad := 0
                closed := false }
            let entry := (img.entries.getD r.entry (0, 0)).1
            let vs := (List.range r.nthr).map (fun t => a.thread img entry lid t (unmet.isEmpty || r.isEarly))
            let s := { s with host := { s.host with groups := joinAll s.host.groups a.asid lid r.groups r.nthr } }
            let s := s.enqueue a.parent a.prio vs
            let s := { s with host := { s.host with launches := s.host.launches ++ [l] } }
            let s := if r.mben then vs.foldl (fun s v => s.bindEndpoint v.thr v.thr.mbase) s else s
            .ok (lid, s)

end Sys2Proof.Machine
end

