-- ==== Sys2Proof/Machine/Image.lean ====
section
/-! DEFINITION. The IKX image and its loader (R166-R172).
-/

namespace Sys2Proof.Machine

/-! ## Reading the file (R166, R167, R171) -/

/-- R167: a section as loaded: its kind, its load offset, and its contents. -/
structure Section where
  kind : Nat
  load : Nat
  data : List Byte
  deriving DecidableEq, Repr

/-- An image read from its file: sections with their relocations applied, patches and launch table. -/
structure Ikx where
  secs    : List Section
  /-- (EA in sg0, name offset, kept addend). -/
  patches : List (Nat × Nat × Dword)
  entries : List (Nat × Nat)
  deriving DecidableEq, Repr

/-- The n bytes of a file from an offset on, when the file has them. -/
def fileRange (f : List Byte) (off n : Nat) : Option (List Byte) := if off + n ≤ f.length then some ((f.drop off).take n) else none

/-- Runs a reader over records 0 to n - 1; a record that fails is named by its index. -/
def readRecords {α : Type} (read : Nat → Option α) : Nat → Except Nat (List α)
  | 0 => .ok []
  | n + 1 =>
    match readRecords read n with
    | .error i => .error i
    | .ok l =>
      match read n with
      | none => .error n
      | some a => .ok (l ++ [a])

/-- R166: the header is well formed. -/
def headerOk (f : List Byte) : Bool :=
  decide (64 ≤ f.length) && field f 0 4 == 0x01584B49 && field f 4 2 == 64 && field f 6 2 == 0

/-- R167, R168: section i. -/
def readSection (f : List Byte) (i : Nat) : Option Section :=
  match fileRange f (field f 24 8 + 32 * i) 32 with
  | none => none
  | some r =>
    let kind := field r 0 1
    let load := field r 8 8
    let size := field r 24 8
    if 3 < kind ∨ 16 < field r 1 1 ∨ field r 2 2 ≠ 0 then none
    else if kind < 3 ∧ (load % 2 ^ 16 ≠ 0 ∨ 2 ^ 31 ≤ load + size) then none
    else if kind = 3 ∧ 2 ^ 17 < load + size then none
    else (fileRange f (field r 16 8) size).map (fun d => { kind := kind, load := load, data := d })

/-- R168: the kind 3 sections together. -/
def lsTotal (l : List Section) : Nat := (l.filter (fun x => x.kind == 3)).foldl (fun n x => n + x.data.length) 0

/-! ## Relocations (R169, R170) -/

/-- Where a section's bytes lie while the image is put together: the sections of kinds 0 to 2 in sg0, those of kind 3, whose place is the
core-shared window, above every offset of sg0 (R168). -/
def Section.base (x : Section) : Nat := if x.kind = 3 then 2 ^ 32 + x.load else x.load

/-- R172: the sections placed in order: where two overlap, the later one's bytes stand. -/
def placed (l : List Section) : List Host.Cell := l.foldl (fun m x => Written.setBytes m x.base x.data) []

/-- n bytes of the placed image. -/
def placedBytes (m : List Host.Cell) (a n : Nat) : List Byte := (List.range n).map (fun i => (Written.get m (a + i)).getD 0)

/-- R170: the bits of the word that a kind writes: width, and value when its condition holds. -/
def relocValue (kind : Nat) (v p : Int) : Option (Nat × Int) :=
  let fits (w : Nat) (z : Int) : Bool := satS w z == z
  match kind with
  | 0 => some (64, v)
  | 1 => if 0 ≤ v ∧ v < 2 ^ 31 then some (16, v / 2 ^ 16) else none
  | 2 => if 0 ≤ v ∧ v < 2 ^ 31 then some (16, v) else none
  | 3 => if (v - p) % 4 = 0 ∧ fits 21 ((v - p) / 4) then some (21, (v - p) / 4) else none
  | 4 => if (v - p) % 4 = 0 ∧ fits 13 ((v - p) / 4) then some (13, (v - p) / 4) else none
  | 5 => if fits 16 (v - p) then some (16, v - p) else none
  | _ => none

/-- R169, R170: relocation i, applied to the placed image. R172 does not name a PLACE beyond its section among the failures: that it fails
with the record's index is the model's choice (log entry 99). -/
def applyReloc (f : List Byte) (l : List Section) (m : List Host.Cell) (i : Nat) : Option (List Host.Cell) :=
  match fileRange f (field f 32 8 + 24 * i) 24 with
  | none => none
  | some r =>
    let place := field r 0 8
    let kind := field r 10 1
    if field r 11 1 ≠ 0 then none
    else match l[field r 8 2]?, l[field r 12 4]? with
      | some x, some t =>
        let n := if kind = 0 then 8 else 4
        if x.data.length < place + n then none
        else match relocValue kind ((t.load : Int) + signed 64 (field r 16 8)) ((x.load : Int) + (place : Int)) with
          | none => none
          | some (w, z) =>
            let old := leNat (placedBytes m (x.base + place) n)
            let v := old / 2 ^ w * 2 ^ w + wrap w z
            some (Written.setBytes m (x.base + place) (leBytes n v))
      | _, _ => none

/-- R172: relocations 0 to n - 1, in record order, on the placed sections. -/
def applyRelocs (f : List Byte) (l : List Section) : Nat → Except Nat (List Host.Cell)
  | 0 => .ok (placed l)
  | n + 1 =>
    match applyRelocs f l n with
    | .error i => .error i
    | .ok m =>
      match applyReloc f l m n with
      | none => .error n
      | some m => .ok m

/-- The sections with their bytes as the relocated image holds them. -/
def relocated (m : List Host.Cell) (l : List Section) : List Section :=
  l.map (fun x => { x with data := placedBytes m x.base x.data.length })

/-- R171, R172: patch i, with the addend that stands at its site. R172 names neither a PLACE beyond its section nor a site in a section of
kind 3 among the failures: that both fail with the record's index is the model's choice (log entry 99). -/
def readPatch (f : List Byte) (l : List Section) (i : Nat) : Option (Nat × Nat × Dword) :=
  match fileRange f (field f 40 8 + 16 * i) 16 with
  | none => none
  | some r =>
    let place := field r 0 8
    match l[field r 8 2]? with
    | none => none
    | some x =>
      if field r 10 2 ≠ 0 ∨ x.kind = 3 ∨ x.data.length < place + 8 then none
      else some (x.load + place, field r 12 4, field64 x.data place)

/-- R171: launch entry i. -/
def readEntry (f : List Byte) (i : Nat) : Option (Nat × Nat) :=
  (fileRange f (field f 48 8 + 16 * i) 16).map (fun r => (field r 0 8, field r 12 4))

/-- R166-R172: reads an image; a failure names the record at fault, 0 for the header (log entry 40). R168 and R172 do not say which
record is at fault when only the total size of the kind 3 sections is too large: that it is the last section is the model's choice
(log entry 78). -/
def ikxParse (f : List Byte) : Except Nat Ikx :=
  if !headerOk f then .error 0
  else match readRecords (readSection f) (field f 8 4) with
  | .error i => .error i
  | .ok secs =>
    if 2 ^ 17 < lsTotal secs then .error (secs.length - 1)
    else match applyRelocs f secs (field f 12 4) with
    | .error i => .error i
    | .ok m =>
      match readRecords (readPatch f (relocated m secs)) (field f 16 4) with
      | .error i => .error i
      | .ok patches =>
        match readRecords (readEntry f) (field f 20 4) with
        | .error i => .error i
        | .ok entries => .ok { secs := relocated m secs, patches := patches, entries := entries }

/-! ## Placing (R168, R172) -/

/-- R168: the rights of a section's pages: bits R, W and X of a leaf. -/
def sectionRights (kind : Nat) : Nat :=
  match kind with
  | 0 => 0b1010
  | 1 => 0b0110
  | _ => 0b0010

/-- R168: gives the page at a VA a section's rights; the page is shot down on every die (log entry 40). A section in a page of 512 MiB
rewrites the rights of that whole page, so that the last section placed there decides them: the model's choice (log entry 78). -/
def State.setRights (s : State) (asid : BitVec 12) (root : Dword) (kind va : Nat) : Except Stop State :=
  match s.walk 0 .load root va with
  | .error e => .error e.plain
  | .ok (f, s) =>
    let x : Shootdown :=
      { client := 256, id := s.tick, asid := asid, all := false, vpn := va / 2 ^ 16, wide := false, left := [] }
    if !s.shootReady x then .error .wait
    else match s.agentWrite f.addr (leBytes 8 (setField f.entry 1 3 (sectionRights kind / 2)).toNat) with
    | .error e => .error e
    | .ok t =>
      .ok ((t.purgeLine (f.addr / 64)).shootAll x)

/-- R168: the pages of a section, from page i on. No rule gives SG0BASE an alignment: with one that is no multiple of 64 KiB the rights go,
by the model's choice, to as many pages as the section's size fills, from that of its first VA on (log entry 85). -/
def State.setPages (s : State) (asid : BitVec 12) (root : Dword) (kind va : Nat) : Nat → Except Stop State
  | 0 => .ok s
  | n + 1 =>
    match s.setPages asid root kind va n with
    | .error e => .error e
    | .ok s => s.setRights asid root kind ((va + 2 ^ 16 * n) % 2 ^ 57)

/-- R168, R172: the sections of kinds 0 to 2 are written at their offsets from sg0's base, and get their rights. -/
def State.placeSections (s : State) (asid : BitVec 12) (root : Dword) (base : Nat) : List Section → Except Stop State
  | [] => .ok s
  | x :: r =>
    if x.kind = 3 then s.placeSections asid root base r
    else
      let va := (base + x.load) % 2 ^ 57
      match s.loaderPieces root x.data (pieces (x.data.length + 1) va x.data.length) with
      | .error e => .error e
      | .ok s =>
        match s.setPages asid root x.kind va (ceilDiv x.data.length (2 ^ 16)) with
        | .error e => .error e
        | .ok s => s.placeSections asid root base r

/-- R168: what the kind 3 sections put into the core-shared window. -/
def Ikx.sharedCells (x : Ikx) : List Host.Cell :=
  (x.secs.filter (fun y => y.kind == 3)).foldl (fun m y => Memory.setBytes m (0x20000 + y.load) y.data) []

/-- The image as Pronor keeps it. -/
def Ikx.image (x : Ikx) (handle : Nat) (asid : BitVec 12) (root sg0 : Dword) : Image :=
  { handle := handle, asid := asid, root := root, sg0 := sg0, patches := x.patches, entries := x.entries, shared := x.sharedCells }

/-- R358: a free image handle, if there is one; which one is open (log entry 35). -/
def State.freshHandle (s : State) : Option Nat :=
  let used := s.host.images.map (fun i => i.handle)
  ((List.range 1023).find? (fun i => !used.contains (1 + (Config.imageHandle s.tick + i) % 1023))).map
    (fun i => 1 + (Config.imageHandle s.tick + i) % 1023)

end Sys2Proof.Machine
end

