-- ==== Sys2Proof/Machine/LoupeCfg.lean ====
section
/-! DEFINITION. The Loupe's configuration record and the length of its operand stream (R309, R313).
-/

namespace Sys2Proof.Machine

/-- A Loupe configuration's fields (R309). -/
structure LoupeCfg where
  bytes : List Byte
  deriving DecidableEq, Repr

/-- R309: DW. -/
def LoupeCfg.dw (c : LoupeCfg) : Nat := field c.bytes 0 2
/-- R309: RK. -/
def LoupeCfg.rk (c : LoupeCfg) : Nat := field c.bytes 2 2
/-- R309: NN. -/
def LoupeCfg.nn (c : LoupeCfg) : Nat := field c.bytes 4 4
/-- R309: SHIFT. -/
def LoupeCfg.shift (c : LoupeCfg) : Nat := field c.bytes 8 1
/-- R309: QEXP. -/
def LoupeCfg.qexp (c : LoupeCfg) : Nat := field c.bytes 9 1
/-- R309: EBOUND. -/
def LoupeCfg.ebound (c : LoupeCfg) : Nat := field c.bytes 10 2
/-- R309: ACTEPS, the bits of an FP32 number. -/
def LoupeCfg.acteps (c : LoupeCfg) : Nat := field c.bytes 12 4
/-- R309: THLO. -/
def LoupeCfg.thlo (c : LoupeCfg) : Int := signed 32 (field c.bytes 16 4)
/-- R309: THHI. -/
def LoupeCfg.thhi (c : LoupeCfg) : Int := signed 32 (field c.bytes 20 4)
/-- R309: SSEED. -/
def LoupeCfg.sseed (c : LoupeCfg) : Dword := field64 c.bytes 24
/-- R309: YFMT. -/
def LoupeCfg.yfmt (c : LoupeCfg) : Nat := field c.bytes 32 1
/-- R309: YSTRIDE. -/
def LoupeCfg.ystride (c : LoupeCfg) : Nat := field c.bytes 36 4
/-- R309: the EA of list k (0 FETCH, 1 SAMPLE, 2 REST). -/
def LoupeCfg.list (c : LoupeCfg) (k : Nat) : Dword := field64 c.bytes (40 + 8 * k)
/-- R309: the capacity of list k. -/
def LoupeCfg.cap (c : LoupeCfg) (k : Nat) : Nat := field c.bytes (64 + 4 * k) 4

/-- R313: the bytes that one lpred takes. -/
def LoupeCfg.need (c : LoupeCfg) (b : Nat) : Nat := c.dw * (b + c.rk / 4) + c.nn * c.rk / 4

/-- R313: a parked lpred takes from the buffer what its stream still lacks. -/
def State.loupeConsume (s : State) : State :=
  match s.cpu.park, s.cpu.loupe with
  | some p, some l =>
    if p.kind = .lpred then
      let n := LoupeCfg.need { bytes := l.cfg } p.c - l.taken.length
      { s with cpu := { s.cpu with loupe := some { l with taken := l.taken ++ l.buf.take n, buf := l.buf.drop n } } }
    else s
  | _, _ => s

end Sys2Proof.Machine
end

