-- ==== Sys2Proof/Machine/Copy.lean ====
section
/-! DEFINITION. The copy engines: shape records, issue, element groups, completion, waiting and faults (R275-R291), and the
steps that activate commands and perform groups.
-/

namespace Sys2Proof.Machine

/-! ## The shape record (R276, R277) -/

/-- A shape record's fields. -/
structure Shape where
  bytes : List Byte
  deriving DecidableEq, Repr

/-- R276: SRC. -/
def Shape.src (r : Shape) : Dword := field64 r.bytes 0
/-- R276: DST. -/
def Shape.dst (r : Shape) : Dword := field64 r.bytes 8
/-- R276: CADDR. -/
def Shape.caddr (r : Shape) : Dword := field64 r.bytes 16
/-- R276: CVAL. -/
def Shape.cval (r : Shape) : Dword := field64 r.bytes 24
/-- R276: IADDR. -/
def Shape.iaddr (r : Shape) : Dword := field64 r.bytes 32
/-- R276: SCADDR. -/
def Shape.scaddr (r : Shape) : Dword := field64 r.bytes 40
/-- R276: SCROW. -/
def Shape.scrow (r : Shape) : Nat := field r.bytes 48 4
/-- R276: ICOUNT. -/
def Shape.icount (r : Shape) : Nat := field r.bytes 52 4
/-- R276: DKIND. -/
def Shape.dkind (r : Shape) : Nat := field r.bytes 56 1
/-- R276: ESIZE. -/
def Shape.esize (r : Shape) : Nat := field r.bytes 57 1
/-- R276: CONV. -/
def Shape.conv (r : Shape) : Nat := field r.bytes 58 1
/-- R276: NDIM. -/
def Shape.ndim (r : Shape) : Nat := field r.bytes 59 1
/-- R276: FLAGS. -/
def Shape.flags (r : Shape) : Nat := field r.bytes 60 1
/-- R276: SNAP. -/
def Shape.snap (r : Shape) : Bool := r.flags.testBit 0
/-- R276: IW. -/
def Shape.iw (r : Shape) : Nat := bitsOf r.flags 1 2
/-- R276: CEN. -/
def Shape.cen (r : Shape) : Bool := r.flags.testBit 3
/-- R276: IDIM. -/
def Shape.idim (r : Shape) : Nat := field r.bytes 61 1
/-- R276: COUNT[d]. -/
def Shape.count (r : Shape) (d : Nat) : Nat := field r.bytes (64 + 4 * d) 4
/-- R276: SSTR[d]. -/
def Shape.sstr (r : Shape) (d : Nat) : Int := signed 64 (field r.bytes (104 + 8 * d) 8)
/-- R276: DSTR[d]. -/
def Shape.dstr (r : Shape) (d : Nat) : Int := signed 64 (field r.bytes (176 + 8 * d) 8)

/-- R277: source element bits. -/
def Shape.srcBits (r : Shape) : Nat := 2 * 2 ^ r.esize
/-- R277: destination element bits. -/
def Shape.dstBits (r : Shape) : Nat := if r.conv = 2 then 16 else if r.conv = 3 then 32 else r.srcBits
/-- R277: bytes of an index. -/
def Shape.idxBytes (r : Shape) : Nat := 2 * 2 ^ r.iw

/-- The product of the first n counts. -/
def Shape.volume (r : Shape) : Nat → Nat
  | 0 => 1
  | n + 1 => r.volume n * r.count n

/-- R278: elements that the command visits. -/
def Shape.total (r : Shape) : Nat := r.volume r.ndim

/-- R286: whether the function is indexed. -/
def indexedFn (fn : Nat) : Bool := fn == 1 || fn == 2

/-- R278: elements that the command writes. -/
def Shape.written (r : Shape) (fn : Nat) : Nat :=
  if fn = 2 ∧ r.count r.idim ≠ 0 then r.total / r.count r.idim * min (r.count r.idim) r.icount else r.total

/-- R281: scale records of the command. -/
def Shape.scales (r : Shape) : Nat := if r.conv = 1 then ceilDiv (r.total / 512) 8 else 0

/-- R283: destination bytes, the completion byte not counted. -/
def Shape.payload (r : Shape) (fn : Nat) : Nat := ceilDiv (r.written fn * r.dstBits) 8 + 128 * r.scales

/-- R283: what acceptance adds to the barrier. -/
def Shape.pending (r : Shape) (fn : Nat) : Nat := r.payload fn + r.cen.toNat

/-- R277: whether the other fields meet what CONV requires. -/
def Shape.convOk (r : Shape) (fn : Nat) : Bool :=
  match r.conv with
  | 0 => true
  | 1 => fn != 3 && (r.dkind == 1 || r.dkind == 2) && r.esize ≤ 2 && 3 ≤ r.ndim && r.count 0 == 4 && r.count 1 == 128
  | 2 => fn != 3 && r.esize == 4
  | 3 => fn != 3 && r.esize == 3
  | _ => false

/-- R277, R282: the byte offset of the first bad field, in offset order. -/
def Shape.bad (r : Shape) (fn : Nat) : Option Nat :=
  if r.cen && r.caddr.toNat % 8 != 0 then some 16
  else if indexedFn fn && r.iw != 3 && r.iaddr.toNat % r.idxBytes != 0 then some 32
  else if 3 < r.dkind then some 56
  else if 5 < r.esize then some 57
  else if !r.convOk fn then some 58
  else if r.ndim = 0 || 9 < r.ndim then some 59
  else if 16 ≤ r.flags || (indexedFn fn && r.iw == 3) then some 60
  else if indexedFn fn && r.ndim ≤ r.idim then some 61
  else if !fieldZero r.bytes 62 2 then some 62
  else if 2 ^ 40 ≤ r.payload fn then some 64
  else if !fieldZero r.bytes 100 4 then some 100
  else if !fieldZero r.bytes 248 8 then some 248
  else none

/-! ## Tickets and barriers (R282, R283) -/

/-- The shape record of a command. -/
def CopyCmd.shape (c : CopyCmd) : Shape := { bytes := c.record }

/-- R282: the ticket. -/
def CopyCmd.ticket (c : CopyCmd) : Dword := BitVec.ofNat 64 (c.barrier * 1024 + c.quad * 256 + c.entry)

/-- R283, R291: what a command adds to its barrier's count. -/
def CopyCmd.counts (c : CopyCmd) : Nat := c.left + c.kept

/-- R43: the value of a barrier: pending bytes of committed commands and the head's own. -/
def barrierCount (l : List CopyCmd) (n : Nat) : Nat :=
  (l.filter (fun c => c.committed && c.barrier == n)).foldl (fun a c => a + c.counts) 0

/-- R285: the oldest faulted command that p selects. -/
def oldestFault (l : List CopyCmd) (p : CopyCmd → Bool) : Option CopyCmd :=
  l.find? (fun c => c.committed && c.fault.isSome && p c)

/-- R275, R282, R291: the entries of a core in its quad's queue that hold a command: one that feeds a stream holds its entry until
its last byte is consumed (log entry 52). -/
def entryUsed (l : List CopyCmd) (core k : Nat) : Bool := l.any (fun c => c.core == core && c.entry == 16 * (core % 4) + k)

/-- R275, R282: the entry that a new command of a core gets: R282 asks for one of the queue's entries that no other command holds, and
the model takes the lowest of the core's sixteen (log entry 93). -/
def freeCopyEntry (l : List CopyCmd) (core : Nat) : Option Nat :=
  ((List.range 16).find? (fun k => !entryUsed l core k)).map (fun k => 16 * (core % 4) + k)

/-! ## The source range of a SNAP copy (R284) -/

/-- R284: whether an EA lies in a segment of global memory. -/
def State.globalEa (s : State) (ea : Dword) : Bool := !(s.descriptor ea).1.getLsbD 62

/-- R284: whether a command has a global-memory source: data, index list or scale array. -/
def State.globalSource (s : State) (fn : Nat) (r : Shape) : Bool :=
  (fn != 3 && s.globalEa r.src) || (indexedFn fn && s.globalEa r.iaddr) || (r.conv == 1 && s.globalEa r.scaddr)

/-- R284: whether a command has a global-memory destination. -/
def State.globalDest (s : State) (r : Shape) : Bool :=
  (r.dkind == 0 && s.globalEa r.dst) || (r.cen && s.globalEa r.caddr)

/-! ## Accesses of the engine -/

/-- Whether the focused chunk is the one that issued the command. -/
def State.ownsCmd (s : State) (c : CopyCmd) : Bool := c.chunk == s.cpu.num

/-- R87, R89: an engine access of n bytes within one line; a write may not touch the shared window inside a region. -/
def State.engineResolve (s : State) (c : CopyCmd) (need : Need) (ea : Dword) (n : Nat) : Except Stop Target :=
  match segTarget (s.descriptor ea) c.smode need ea n with
  | some t => if need.writes && s.sharedLocked t then .error (.trap causeSegv ea) else .ok t
  | none => .error (.trap causeSegv ea)

/-- R97-R102, R115, R279: an engine translates each group that it starts; one that has waited at a home keeps its translations. -/
def State.engineTrans (s : State) (c : CopyCmd) (need : Need) (va : Nat) : Except Stop (Mapped × State) :=
  let r : Except Stop (Mapped × State) := match heldLeaf c.held c.smode (!s.isHead) need va with
    | some m => .ok (m, s)
    | none => s.translate s.ring s.thr.asid s.thr.pgroot c.smode (!s.isHead) .unit need va
  match r with
  | .error e => .error e
  | .ok (m, t) =>
    match t.reached need va m with
    | .error e => .error e
    | .ok u => .ok (m, u)

/-- R93: the engine's accesses pass no L1, so that an orphaned line of one hides no store (R133). -/
def State.engineWho (s : State) : Who := { s.who with core := none }

/-- R133: an engine's read of n bytes of one global line, for the focused issuer. A speculative issuer's read waits while a held
update record touches the bytes, as its load does (R37, log entry 30). -/
def State.engineLine (s : State) (c : CopyCmd) (need : Need) (va n : Nat) : Except Stop (List Byte × State) :=
  if !s.isHead && updated (s.cpu :: s.older) va n then .error .wait
  else match s.engineTrans c need va with
  | .error e => .error e
  | .ok (m, s) =>
    match s.cachedRead s.engineWho va m n with
    | .error e => .error (respond m.page need va e)
    | .ok (bs, s) =>
      .ok (s.seen va (if s.isHead then bs else bs.mapIdx (fun i b => s.specByte (va + i) b)), s.noteLoaded va n m)

/-- An engine's reads of these pieces, joined (log entry 82). -/
def State.engineLoad (s : State) (c : CopyCmd) (need : Need) : List (Nat × Nat) → Except Stop (List Byte × State)
  | [] => .ok ([], s)
  | (va, n) :: r =>
    match s.engineLine c need va n with
    | .error e => .error e
    | .ok (bs, s) =>
      match s.engineLoad c need r with
      | .error e => .error e
      | .ok (more, s) => .ok (bs ++ more, s)

/-- An engine's writes of bytes to these pieces, for the focused issuer. -/
def State.engineStore (s : State) (c : CopyCmd) (bs : List Byte) : List (Nat × Nat) → Except Stop State
  | [] => .ok s
  | (va, n) :: r =>
    match s.engineTrans c .store va with
    | .error e => .error e
    | .ok (m, s) =>
      match s.cachedWrite s.engineWho va m (bs.take n) with
      | .error e => .error (respond m.page .store va e)
      | .ok s => (((s.noteWrote va n m).notify va n).snapCheck va n).engineStore c (bs.drop n) r

/-- R133: an engine's read of n bytes within one block of EAs. An LS window whose chunk is gone holds free values (R45). -/
def State.engineRead (s : State) (c : CopyCmd) (ea : Dword) (n : Nat) : Except Stop (List Byte × State) :=
  match s.engineResolve c .load ea n with
  | .error e => .error e
  | .ok (.global va) => s.engineLoad c .load (pieces (n / 64 + 2) va n)
  | .ok (.priv o) =>
    if s.ownsCmd c then .ok (s.lsSeen (.priv o) n, s)
    else .ok ((List.range n).map (fun i => Config.freshLs (s.newTag 63) (o + i)), s)
  | .ok t => .ok (s.lsSeen t n, s)

/-- An engine's write of bytes within one block of EAs, for the focused issuer. -/
def State.engineWrite (s : State) (c : CopyCmd) (ea : Dword) (bs : List Byte) : Except Stop State :=
  match s.engineResolve c .store ea bs.length with
  | .error e => .error e
  | .ok (.global va) =>
    match s.owned va bs with
    | .error e => .error e
    | .ok s => s.engineStore c bs (pieces (bs.length / 64 + 2) va bs.length)
  | .ok (.priv o) => if s.ownsCmd c then s.lsStore (.priv o) bs else .ok s
  | .ok t => .ok (s.lsWrite t bs)

/-- The bytes that stand where an engine is about to write: checked as the store alone is. -/
def State.engineOld (s : State) (c : CopyCmd) (ea : Dword) (n : Nat) : Except Stop (List Byte × State) :=
  match s.engineResolve c .store ea n with
  | .error e => .error e
  | .ok (.global va) => s.engineLoad c .store (pieces (n / 64 + 2) va n)
  | .ok t => .ok (s.lsSeen t n, s)

/-- R279: the parts of n bytes at an EA on each side of a block boundary. -/
def eaParts (ea : Dword) (n : Nat) : List (Dword × Nat) :=
  let m := min n (64 - ea.toNat % 64)
  if m = n then [(ea, n)] else [(ea, m), (ea + BitVec.ofNat 64 m, n - m)]

/-- What stands at parts that an engine is about to write, in order. -/
def State.engineOldParts (s : State) (c : CopyCmd) : List (Dword × Nat) → Except Stop (List Byte × State)
  | [] => .ok ([], s)
  | (ea, n) :: r =>
    match s.engineOld c ea n with
    | .error e => .error e
    | .ok (bs, s) =>
      match s.engineOldParts c r with
      | .error e => .error e
      | .ok (more, s) => .ok (bs ++ more, s)

/-- Reads parts in order. -/
def State.engineReadParts (s : State) (c : CopyCmd) : List (Dword × Nat) → Except Stop (List Byte × State)
  | [] => .ok ([], s)
  | (ea, n) :: r =>
    match s.engineRead c ea n with
    | .error e => .error e
    | .ok (bs, s) =>
      match s.engineReadParts c r with
      | .error e => .error e
      | .ok (more, s) => .ok (bs ++ more, s)

/-- Writes parts in order. -/
def State.engineWriteParts (s : State) (c : CopyCmd) (bs : List Byte) : List (Dword × Nat) → Except Stop State
  | [] => .ok s
  | (ea, n) :: r =>
    match s.engineWrite c ea (bs.take n) with
    | .error e => .error e
    | .ok s => s.engineWriteParts c (bs.drop n) r

/-! ## Elements and groups (R278, R279) -/

/-- Where an element of an array lies: its EA, and the bit within that byte for a narrow one. -/
structure ElemAt where
  ea  : Dword
  bit : Nat
  deriving DecidableEq, Repr

/-- R278: element j of an array with base B and z-bit elements. -/
def elemAt (base : Dword) (z : Nat) (j : Int) : ElemAt :=
  let b := j * z
  { ea := base + BitVec.ofInt 64 (b / 8), bit := (b % 8).toNat }

/-- An element of a command: where it is read (none: the value is given) and written (none for a FIFO, or for a skipped
element of cscat). -/
structure CopyElem where
  src  : Option ElemAt
  val  : Nat
  dst  : Option ElemAt
  skip : Bool
  deriving DecidableEq, Repr

/-- R278: n[d] of the e-th tuple. -/
def Shape.coord (r : Shape) (e d : Nat) : Nat := e / r.volume d % r.count d

/-- R278: Σ n[d] × stride over the first dimensions. -/
def Shape.offset (r : Shape) (stride : Nat → Int) (e : Nat) : Nat → Int
  | 0 => 0
  | d + 1 => r.offset stride e d + (r.coord e d : Int) * stride d

/-- R278: where the e-th element of an indexed command reads its index, when it reads one. -/
def CopyCmd.indexEa (c : CopyCmd) (e : Nat) : Option Dword :=
  let r := c.shape
  let m := r.coord e r.idim
  if indexedFn c.fn && decide (m < r.icount) then some (r.iaddr + BitVec.ofNat 64 (m * r.idxBytes)) else none

/-- R278: the e-th element of a command, with its index. -/
def CopyCmd.elemOf (c : CopyCmd) (e idx : Nat) : CopyElem :=
  let r := c.shape
  let m := r.coord e r.idim
  let so := r.offset r.sstr e r.ndim
  let dof := r.offset r.dstr e r.ndim
  let dstAt (j : Int) : Option ElemAt := if r.dkind = 0 then some (elemAt r.dst r.dstBits j) else none
  let d : Int := (idx : Int) - m
  if c.fn = 3 then { src := none, val := r.src.toNat % 2 ^ r.srcBits, dst := dstAt dof, skip := false }
  else if c.fn = 0 then { src := some (elemAt r.src r.srcBits so), val := 0, dst := dstAt dof, skip := false }
  else if r.icount ≤ m then { src := none, val := 0, dst := if c.fn = 1 then dstAt dof else none, skip := c.fn == 2 }
  else if c.fn = 1 then
    { src := some (elemAt r.src r.srcBits (so + d * r.sstr r.idim)), val := 0, dst := dstAt dof, skip := false }
  else { src := some (elemAt r.src r.srcBits so), val := 0, dst := dstAt (dof + d * r.dstr r.idim), skip := false }

/-- R278: the e-th element of a command; an indexed one reads its index. -/
def State.copyElem (s : State) (c : CopyCmd) (e : Nat) : Except Stop (CopyElem × State) :=
  match c.indexEa e with
  | none => .ok (c.elemOf e 0, s)
  | some ea =>
    match s.engineReadParts c (eaParts ea c.shape.idxBytes) with
    | .error x => .error x
    | .ok (bs, s) => .ok (c.elemOf e (leNat bs), s)

/-- Bytes that a z-bit element touches. -/
def elemBytes (z : Nat) : Nat := if z < 8 then 1 else z / 8

/-- The EAs of n bytes. -/
def eaBytes (ea : Dword) (n : Nat) : List Dword := (List.range n).map (fun i => ea + BitVec.ofNat 64 i)

/-- R281: the bytes of the scale array that the records hold. -/
def Shape.scaleEas (r : Shape) : List Dword :=
  (List.range r.scales).flatMap (fun k => (List.range 128).map (fun i => r.scaddr + BitVec.ofNat 64 (i * r.scrow + k)))

/-- R278, R281, R284: the source bytes that a command can read, when entry m of its index list holds ix m. -/
def CopyCmd.sourceEas (c : CopyCmd) (ix : Nat → Nat) : List Dword :=
  let r := c.shape
  (List.range r.total).flatMap (fun e =>
      (match c.indexEa e with | some ea => eaBytes ea r.idxBytes | none => [])
        ++ (match (c.elemOf e (ix (r.coord e r.idim))).src with | some a => eaBytes a.ea (elemBytes r.srcBits) | none => []))
    ++ r.scaleEas

/-- R278, R283: the destination bytes of a command, each with the bit at which a narrow element begins there, and its completion word. -/
def CopyCmd.destEas (c : CopyCmd) (ix : Nat → Nat) : List (Dword × Nat) :=
  let r := c.shape
  (List.range r.total).flatMap (fun e =>
      match (c.elemOf e (ix (r.coord e r.idim))).dst with
      | some a => (eaBytes a.ea (elemBytes r.dstBits)).map (fun ea => (ea, a.bit))
      | none => [])
    ++ (if r.cen then (eaBytes r.caddr 8).map (fun ea => (ea, 0)) else [])

/-- R279: whether an element crosses a block boundary. -/
def crosses (a : Option ElemAt) (z : Nat) : Bool :=
  match a with
  | none => false
  | some a => 64 < a.ea.toNat % 64 + elemBytes z

/-- R279: whether an element may join a run: same blocks, and neither crosses. -/
def sameBlock (a b : Option ElemAt) : Bool :=
  match a, b with
  | some a, some b => a.ea.toNat / 64 == b.ea.toNat / 64
  | _, _ => true

/-- R279: the block of a run so far. -/
def blockOf (a b : Option ElemAt) : Option ElemAt :=
  match a with
  | some a => some a
  | none => b

/-- R279: the run of elements from e on that follows a first one: at most `room` bits, within the blocks, before `limit`. -/
def State.extendRun (s : State) (c : CopyCmd) (src dst : Option ElemAt) (limit : Nat) : Nat → Nat → Nat → List CopyElem × State
  | 0, _, _ => ([], s)
  | fuel + 1, e, room =>
    let z := c.shape.dstBits
    if limit ≤ e ∨ room < z then ([], s)
    else match s.copyElem c e with
      | .error _ => ([], s)
      | .ok (x, t) =>
        if crosses x.src c.shape.srcBits || crosses x.dst z || !sameBlock src x.src || !sameBlock dst x.dst then ([], s)
        else
          let (more, u) := t.extendRun c (blockOf src x.src) (blockOf dst x.dst) limit fuel (e + 1) (room - z)
          (x :: more, u)

/-- R279: the element group at e, of elements before `limit`. -/
def State.copyRun (s : State) (c : CopyCmd) (e limit : Nat) : Except Stop (List CopyElem × State) :=
  match s.copyElem c e with
  | .error x => .error x
  | .ok (x, s) =>
    let z := c.shape.dstBits
    if crosses x.src c.shape.srcBits || crosses x.dst z then .ok ([x], s)
    else
      let (more, s) := s.extendRun c x.src x.dst limit 255 (e + 1) (512 - z)
      .ok (x :: more, s)

/-- R277: the value of an element after CONV. -/
def convElem (r : Shape) (v : Nat) : Nat :=
  if r.conv = 2 then (convFmt fp32 bf16 rne v).1 else if r.conv = 3 then (convFmt bf16 fp32 rne v).1 else v

/-- R278: an element's value, read and converted. -/
def State.elemValue (s : State) (c : CopyCmd) (x : CopyElem) : Except Stop (Nat × State) :=
  match x.src with
  | none => .ok (convElem c.shape x.val, s)
  | some a =>
    let z := c.shape.srcBits
    match s.engineReadParts c (eaParts a.ea (elemBytes z)) with
    | .error e => .error e
    | .ok (bs, s) => .ok (convElem c.shape (bitsOf (leNat bs) a.bit z), s)

/-- The values of a group's elements, in order. -/
def State.runValues (s : State) (c : CopyCmd) : List CopyElem → Except Stop (List Nat × State)
  | [] => .ok ([], s)
  | x :: r =>
    if x.skip then s.runValues c r
    else match s.elemValue c x with
      | .error e => .error e
      | .ok (v, s) =>
        match s.runValues c r with
        | .error e => .error e
        | .ok (vs, s) => .ok (v :: vs, s)

/-- R278: writes an element of the destination array. A narrow element leaves the other bits of its byte as R278 has them, also in
the last byte of an array, where R54 would have unused codes written as 0b00: following R278 there is the model's choice (log
entry 74); the last byte of a stream is padded with zeros. -/
def State.putElem (s : State) (c : CopyCmd) (a : ElemAt) (v : Nat) : Except Stop State :=
  let z := c.shape.dstBits
  if z < 8 then
    match s.engineOld c a.ea 1 with
    | .error e => .error e
    | .ok (bs, s) =>
      let b := (bs.headD 0).toNat
      let b' := b - bitsOf b a.bit z * 2 ^ a.bit + v % 2 ^ z * 2 ^ a.bit
      s.engineWrite c a.ea [BitVec.ofNat 8 b']
  else s.engineWriteParts c (leBytes (z / 8) v) (eaParts a.ea (z / 8))

/-- Writes the elements of a group of a DKIND 0 command. -/
def State.putRun (s : State) (c : CopyCmd) : List (ElemAt × Nat) → Except Stop State
  | [] => .ok s
  | (a, v) :: r =>
    match s.putElem c a v with
    | .error e => .error e
    | .ok s => s.putRun c r

/-- R8, R387: whether the elements of a group that an earlier performance has written stand as they are written again; in a command
that is not idempotent one does not. An LS window whose chunk is gone is not looked at. -/
def State.idempotent (s : State) (c : CopyCmd) : List (ElemAt × Nat) → Except Stop State
  | [] => .ok s
  | (a, v) :: r =>
    let z := c.shape.dstBits
    if !s.globalEa a.ea && !s.ownsCmd c then s.idempotent c r
    else match s.engineOldParts c (eaParts a.ea (elemBytes z)) with
      | .error e => .error e
      | .ok (bs, t) =>
        match t.shown (bitsOf (leNat bs) a.bit z != v % 2 ^ z) (fun u => u.breach u.thr.asid) with
        | .error e => .error e
        | .ok t => t.idempotent c r

/-! ## Streams (R279, R280, R312, R351) -/

/-- Packs z-bit values above the bits already there. -/
def packBits (z : Nat) : List Nat → Nat
  | [] => 0
  | v :: r => v % 2 ^ z + packBits z r * 2 ^ z

/-- R351: appends stream bytes from an offset on, those below the buffer's base dropped. -/
def appendStream (base off : Nat) (buf bs : List Byte) : List Byte := buf ++ bs.drop (base - off)

/-- The first offset and the contents of the stream buffer that a command feeds. -/
def State.streamOf (s : State) (c : CopyCmd) : Option (Nat × List Byte) :=
  match c.shape.dkind with
  | 1 => s.cpu.bank.map (fun b => (b.baseA, b.fifoA))
  | 2 => s.cpu.bank.map (fun b => (b.baseB, b.fifoB))
  | 3 => s.cpu.loupe.map (fun l => (l.base + l.taken.length, l.buf))
  | _ => none

/-- Replaces the contents of the stream buffer that a command feeds. -/
def State.setStream (s : State) (c : CopyCmd) (buf : List Byte) : State :=
  match c.shape.dkind with
  | 1 => { s with cpu := { s.cpu with bank := s.cpu.bank.map (fun (b : Bank) => { b with fifoA := buf }) } }
  | 2 => { s with cpu := { s.cpu with bank := s.cpu.bank.map (fun (b : Bank) => { b with fifoB := buf }) } }
  | 3 => { s with cpu := { s.cpu with loupe := s.cpu.loupe.map (fun (l : LoupeBind) => { l with buf := buf }) } }
  | _ => s

/-- R280, R312: the bytes that a stream buffer holds at most. -/
def streamSize (dkind : Nat) : Nat := if dkind = 3 then 65536 else 32768

/-! ## A command's progress -/

/-- Replaces a command in the thread's list. -/
def State.setCmd (s : State) (c d : CopyCmd) : State :=
  { s with thr := { s.thr with cmds := s.thr.cmds.map (fun x => if x = c then d else x) } }

/-- Takes a command out of the thread's list. -/
def State.dropCmd (s : State) (c : CopyCmd) : State :=
  { s with thr := { s.thr with cmds := s.thr.cmds.filter (fun x => x != c) } }

/-- Whether a command feeds a stream (DKIND 1 to 3). -/
def CopyCmd.streams (c : CopyCmd) : Bool := c.shape.dkind != 0

/-- R291, R312: the stream offset below which a command's bytes are consumed for the last time. -/
def State.consumedTo (s : State) (c : CopyCmd) : Option Nat :=
  match c.shape.dkind with
  | 1 => s.cpu.bank.map (fun b => b.baseA)
  | 2 => s.cpu.bank.map (fun b => b.baseB)
  | 3 => s.cpu.loupe.map (fun l => l.base)
  | _ => none

/-- R291, R312: the array or the Loupe has consumed all the bytes of a command of the focused slot for the last time. -/
def State.consumedAll (s : State) (c : CopyCmd) : Bool :=
  s.ownsCmd c && (match s.consumedTo c with | some o => decide (c.soff + c.shape.payload c.fn ≤ o) | none => false)

/-- R291, R312: a command of the focused slot that is complete, and all of whose bytes are consumed. -/
def State.spent (s : State) (c : CopyCmd) : Bool := c.done && s.consumedAll c

/-- R291, R312: spent commands are no longer outstanding, and a barrier no longer counts consumed bytes. -/
def State.reap (s : State) : State :=
  { s with thr := { s.thr with cmds := (s.thr.cmds.filter (fun c => !s.spent c)).map (fun c => if s.consumedAll c then { c with kept := 0 } else c) } }

/-- R275, R283, R291: a command whose last byte and completion word are written leaves the queue; one that feeds a stream stays
outstanding until its bytes are consumed (log entry 52). -/
def State.leaveQueue (s : State) (c : CopyCmd) : State :=
  if c.streams then State.reap (s.setCmd c { c with active := false, done := true, left := 0, asked := none, held := [] })
  else s.dropCmd c

/-- R134: the end of a command without a completion word: with REL a release at its scope, for which the command waits if its
write-backs have to wait. -/
def State.finishCmd (s : State) (c : CopyCmd) : State :=
  if !c.rel then s.leaveQueue c
  else match s.sivRelease s.ring c.scope with
    | .ok t => t.leaveQueue c
    | .error e => s.orStop e

/-- Moves pos over the runs performed ahead of it; the fuel is their number. -/
def absorb (total : Nat) : Nat → Nat → List (Nat × Nat) → Nat × List (Nat × Nat)
  | 0, p, l => (p, l)
  | fuel + 1, p, l =>
    match takeFirst (fun r : Nat × Nat => r.1 == p) l with
    | some (r, l') => absorb total fuel (p + r.2) l'
    | none => (p, l)

/-- R283, R289: bytes that a group of these bits subtracts. -/
def CopyCmd.groupBytes (c : CopyCmd) (nbits : Nat) : Nat := (c.bits + nbits) / 8 - c.bits / 8

/-- Whether one of these runs of elements holds an element. -/
def runHolds (l : List (Nat × Nat)) (e : Nat) : Bool := l.any (fun r => r.1 ≤ e && e < r.1 + r.2)

/-- Whether an element was performed before a cresume (R289). -/
def CopyCmd.wasCounted (c : CopyCmd) (e : Nat) : Bool := runHolds c.counted e

/-- The command after the group of n elements at e, of which these bits count. After the last group the completion word alone is left to
write (R283), and the command finishes where there is none; a FIFO command's barrier goes on counting the last group until the array has
consumed its bytes (R291): at least one byte, also when that group held skipped tuples alone (log entry 52). -/
def State.groupDone (s : State) (c : CopyCmd) (e n nbits part : Nat) : State :=
  let total := c.shape.total
  let (pos, ahead) := absorb total (c.ahead.length + 1) c.pos (c.ahead ++ [(e, n)])
  let d := { c with
    pos := pos, ahead := ahead, scaled := false, bits := c.bits + nbits, part := part, held := []
    next := c.next + c.groupBytes nbits, left := c.left - c.groupBytes nbits }
  if pos = total then
    let last := { d with
      left := c.shape.cen.toNat
      kept := if c.shape.dkind = 1 ∨ c.shape.dkind = 2 then max 1 (c.left - c.shape.cen.toNat) else 0 }
    if c.shape.cen then (s.setCmd c last).reap else (s.setCmd c last).finishCmd last
  else s.setCmd c d

/-- R285: a group that fails: the record describes the earliest failing group. What a speculative chunk's command would have logged
or charged waits until the chunk has committed or is head, and the group is tried again (R9, log entry 65). A request that has to
wait takes its place in its queue (R101, R106, R400, R404). -/
def State.groupFault (s : State) (c : CopyCmd) (e : Nat) (stop : Stop) : State :=
  let put (s : State) (cause : Byte) (info : Dword) : State :=
    s.setCmd c { c with active := false, fault := some { cause := cause, info := info, index := e }, held := [] }
  match stop with
  | .trap cause info => put s cause info
  | .logged cause info pa code => if s.isHead then put (s.logError pa (srcCode 1 s.thr.asid s.ring) code) cause info else s
  | .noMemory pa code => if s.isHead then put (s.logError pa (srcCode 1 s.thr.asid s.ring) code) causePfault 0 else s
  | .memerr pa => if s.isHead then s.memoryError pa else s
  | .queue q => (s.enterQueue q).setCmd c { c with asked := s.askOf c.asked q, held := holdLeaf c.held q }
  | .wait => s.setCmd c { c with held := [] }
  | .capacity => s

/-- R279: the first element at or after e that no run performed ahead covers; the fuel is the number of runs. -/
def skipAhead (l : List (Nat × Nat)) : Nat → Nat → Nat
  | 0, e => e
  | fuel + 1, e =>
    match l.find? (fun r => r.1 ≤ e && e < r.1 + r.2) with
    | some r => skipAhead l fuel (r.1 + r.2)
    | none => e

/-- The end of the gap that starts at e. -/
def gapEnd (l : List (Nat × Nat)) (total e : Nat) : Nat :=
  l.foldl (fun m r => if e < r.1 ∧ r.1 < m then r.1 else m) total

/-- R279: where the n-th group still to perform starts. -/
def State.pendingGroup (s : State) (c : CopyCmd) : Nat → Nat → Nat
  | 0, e => skipAhead c.ahead c.ahead.length e
  | n + 1, e =>
    let e := skipAhead c.ahead c.ahead.length e
    if c.shape.total ≤ e then e
    else match s.copyRun c e (gapEnd c.ahead c.shape.total e) with
      | .error _ => s.pendingGroup c n (e + 1)
      | .ok (xs, _) => s.pendingGroup c n (e + xs.length)

/-! ## Performing (R279-R283) -/

/-- R283: the completion word. -/
def State.completionWord (s : State) (c : CopyCmd) : State :=
  match s.sivRelease s.ring c.scope with
  | .error e => s.orStop e
  | .ok s =>
    match s.engineWrite c c.shape.caddr (leBytes 8 c.shape.cval.toNat) with
    | .error e => s.groupFault c c.shape.total e
    | .ok t => t.leaveQueue c

/-- R281: the bytes of a scale record, from row r on. -/
def State.scaleBytes (s : State) (c : CopyCmd) (g : Nat) : Nat → Except Stop (List Byte × State)
  | 0 => .ok ([], s)
  | r + 1 =>
    match s.scaleBytes c g r with
    | .error e => .error e
    | .ok (bs, s) =>
      match s.engineRead c (c.shape.scaddr + BitVec.ofNat 64 (r * c.shape.scrow + g / 8)) 1 with
      | .error e => .error e
      | .ok (b, s) => .ok (bs ++ b, s)

/-- R281: whether a scale record is due before the element at e. -/
def CopyCmd.scaleDue (c : CopyCmd) (e : Nat) : Bool := c.shape.conv == 1 && e % 4096 == 0 && !c.scaled

/-- R8, R280: a group, or a scale record, that does not fit waits. A program whose slot waits for the command meanwhile relies on a
later mstep, which is an error (log entry 25). -/
def State.noRoom (s : State) (c : CopyCmd) : State :=
  if s.isHead && s.ownsCmd c && c.shape.dkind != 3 && s.cpu.park.any (fun p => (p.kind == .cwait && p.c == c.barrier) || (p.kind == .fence && p.c == 1))
  then s.breach s.thr.asid
  else s

/-- R281: performs the scale record at e, when the stream has room. -/
def State.doScale (s : State) (c : CopyCmd) (e : Nat) : State :=
  match s.streamOf c with
  | none => s
  | some (base, buf) =>
    if streamSize c.shape.dkind < buf.length + 128 then s.noRoom c
    else
      let d := { c with scaled := true, next := c.next + 128, left := c.left - 128, held := [] }
      if c.next + 128 ≤ base then s.setCmd c d
      else match s.scaleBytes c (e / 512) 128 with
        | .error x => s.groupFault c e x
        | .ok (bs, t) => (t.setStream c (appendStream base c.next buf bs)).setCmd c d

/-- R279, R351: performs the group of a stream command at its position; one all of whose bytes, a last partial one with them, lie below
the kept point is dropped. -/
def State.doStream (s : State) (c : CopyCmd) : State :=
  match s.streamOf c with
  | none => s
  | some (base, buf) =>
    let total := c.shape.total
    let limit := if c.shape.conv = 1 then min total ((c.pos / 4096 + 1) * 4096) else total
    match s.copyRun c c.pos limit with
    | .error x => s.groupFault c c.pos x
    | .ok (xs, t) =>
      let z := c.shape.dstBits
      let n := (xs.filter (fun x => !x.skip)).length
      let nbits := n * z
      let bytes := c.groupBytes nbits
      let isLast := c.pos + xs.length = total
      let reach := ceilDiv (c.bits % 8 + nbits) 8
      let out := if isLast then reach else bytes
      if streamSize c.shape.dkind < buf.length + out then s.noRoom c
      else if c.next + reach ≤ base then s.groupDone c c.pos xs.length nbits 0
      else match t.runValues c xs with
        | .error x => s.groupFault c c.pos x
        | .ok (vs, t) =>
          let acc := c.part + packBits z vs * 2 ^ (c.bits % 8)
          let part := acc / 2 ^ (8 * bytes)
          (t.setStream c (appendStream base c.next buf (leBytes out acc))).loupeConsume.groupDone c c.pos xs.length nbits part

/-- R279: performs the group of a memory command at e. -/
def State.doMemory (s : State) (c : CopyCmd) (e : Nat) : State :=
  match s.copyRun c e (gapEnd c.ahead c.shape.total e) with
  | .error x => s.groupFault c e x
  | .ok (xs, t) =>
    match t.runValues c xs with
    | .error x => s.groupFault c e x
    | .ok (vs, t) =>
      let puts (p : Nat → Bool) : List (ElemAt × Nat) :=
        ((((xs.zipIdx).filter (fun x => !x.1.skip)).zip vs).filter (fun x => p (e + x.1.2))).filterMap (fun x =>
          x.1.1.dst.map (fun a => (a, x.2)))
      match andThen (t.idempotent c (puts (runHolds c.once))) (fun t => t.putRun c (puts (fun _ => true))) with
      | .error x => s.groupFault c e x
      | .ok u =>
        let fresh := (List.range xs.length).filter (fun i =>
          !c.wasCounted (e + i) && !((xs[i]?).map (fun x => x.skip)).getD true)
        u.groupDone c e xs.length (fresh.length * c.shape.dstBits) 0

/-- R279: whether an earlier command of the same slot has groups to append to the same stream. -/
def State.streamBlocked (s : State) (c : CopyCmd) : Bool :=
  (s.thr.cmds.takeWhile (fun x => x != c)).any (fun x =>
    x.chunk == c.chunk && x.shape.dkind == c.shape.dkind && decide (x.pos < x.shape.total))

/-- The index of the chunk for which a command acts: its issuer, else the head. -/
def State.issuerIndex (s : State) (c : CopyCmd) : Nat :=
  (s.chunks.findIdx? (fun k => k.num == c.chunk)).getD 0

/-- R279: one group, or the completion word, of an active command of the focused issuer; n chooses among the groups of a memory
command. -/
def State.performNow (s : State) (c : CopyCmd) (n : Nat) : State :=
  let e := if c.streams then c.pos else s.pendingGroup c n c.pos
  if c.shape.total ≤ c.pos then
    (if c.fault.isSome then s else if c.shape.cen then s.completionWord c else s.finishCmd c)
  else if c.shape.total ≤ e then s
  else if (match c.fault with | some f => decide (f.index ≤ e) | none => false) then s
  else if c.streams then
    (if s.streamBlocked c then s else if c.scaleDue e then s.doScale c e else s.doStream c)
  else s.doMemory c e

/-- R400, R404: a command that waits in a controller's queue presents its request again. -/
def State.presentCmd (s : State) (c : CopyCmd) (q : Nat × Nat) : State :=
  { s.setCmd c { c with asked := none } with plat := { s.plat with serves := some q } }

/-- R279: a command's next group, or its completion word, as its issuer's. -/
def State.performGroup (s : State) (c : CopyCmd) (n : Nat) : State :=
  let s := s.focusChunk (s.issuerIndex c)
  match c.asked with
  | none => s.performNow c n
  | some q => (s.presentCmd c q).performNow { c with asked := none } n

/-- R279: the engine performs one element group of a command of the focused ring. -/
def execCopyElementGroup (cmd n : Nat) (s : State) : Host.Outcome State Fault Refusal :=
  match s.thr.cmds[cmd]? with
  | some c => if (c.active || (c.fault.isSome && !c.done)) then .next (s.performGroup c n) else noOccurrence s
  | none => noOccurrence s

/-- R275: whether a command waits to be activated. -/
def CopyCmd.queued (c : CopyCmd) (quad : Nat) : Bool := c.quad == quad && !c.active && !c.done && c.fault.isNone

/-- R47, R275: a quad's next command: the first of the head, whose number is given, then the rest in order of acceptance. -/
def nextQueued (l : List CopyCmd) (head quad : Nat) : Option CopyCmd :=
  match l.find? (fun c => c.queued quad && c.chunk == head) with
  | some c => some c
  | none => l.find? (fun c => c.queued quad)

/-- R134, R275: a queued command of a quad becomes active: with ACQ it first acquires. One that visits no element and writes
no completion word is complete. -/
def execCopyCommandActivate (quad : Nat) (s : State) : Host.Outcome State Fault Refusal :=
  if 8 ≤ (s.thr.cmds.filter (fun c => c.quad == quad && c.active)).length then noOccurrence s
  else match nextQueued s.thr.cmds (s.focusChunk 0).cpu.num quad with
    | none => noOccurrence s
    | some c =>
      match (if c.acq && c.pos == 0 then s.sivAcquire s.ring c.scope else .ok s) with
      | .error e => .next (s.orStop e)
      | .ok s =>
        if c.shape.total ≤ c.pos && !c.shape.cen then .next (s.finishCmd c)
        else .next (s.setCmd c { c with active := true })

/-! ## Issue (R282-R286) -/

/-- R41, R284: whether a copy waits until its chunk is head. -/
def State.copyHeld (s : State) (fn : Nat) (r : Shape) : Bool :=
  !s.isHead && (s.globalDest r || (s.globalSource fn r && !(r.snap && s.thr.snaps.length < 8)))

/-- R284: the indices that cgath reads, from the list's end down. -/
def State.readIndices (s : State) (c : CopyCmd) : Nat → Except Stop (List Nat)
  | 0 => .ok []
  | m + 1 =>
    match s.engineReadParts c (eaParts (c.shape.iaddr + BitVec.ofNat 64 (m * c.shape.idxBytes)) c.shape.idxBytes) with
    | .error e => .error e
    | .ok (bs, s) =>
      match s.readIndices c m with
      | .error e => .error e
      | .ok l => .ok (l ++ [leNat bs])

/-- R41, R284: the SNAP entries of a command: one range, from the lowest to the highest global source byte it can read; no entry for
one that reads none. For cgath the index list is read first. None when it cannot be read now. -/
def State.snapRange (s : State) (c : CopyCmd) : Option (List Snap) :=
  match (if c.fn = 1 then s.readIndices c (min c.shape.icount (c.shape.count c.shape.idim)) else .ok []) with
  | .error _ => none
  | .ok ixs =>
    let vas := (c.sourceEas (fun m => ixs.getD m 0)).filterMap (fun ea => match s.engineResolve c .load ea 1 with
      | .ok (.global va) => some va
      | _ => none)
    match vas with
    | [] => some []
    | v :: r => some [{ chunk := c.chunk, lo := r.foldl min v, hi := r.foldl max v + 1 }]

/-- R283, R312, R348: acceptance: the command joins the queue, its barrier and its stream. -/
def State.acceptCopy (s : State) (c : CopyCmd) (snaps : List Snap) : State :=
  let n := c.shape.payload c.fn
  let s := match c.shape.dkind with
    | 1 => { s with cpu := { s.cpu with bank := s.cpu.bank.map (fun (b : Bank) => { b with accA := b.accA + n }) } }
    | 2 => { s with cpu := { s.cpu with bank := s.cpu.bank.map (fun (b : Bank) => { b with accB := b.accB + n }) } }
    | 3 => { s with cpu := { s.cpu with loupe := s.cpu.loupe.map (fun (l : LoupeBind) => { l with pos := l.pos + n }) } }
    | _ => s
  { s with thr := { s.thr with cmds := s.thr.cmds ++ [c], snaps := s.thr.snaps ++ snaps } }

/-- R282, R306, R312: the fault of a well-formed command that its slot may not issue. -/
def State.streamCheck (s : State) (r : Shape) : Option (Byte × Dword) :=
  match r.dkind with
  | 0 => none
  | 3 => match s.cpu.loupe with
    | none => some (causeLease, 0)
    | some l => if r.dst.toNat = l.pos then none else some (causeIllstate, 8)
  | _ => if s.cpu.bank.isSome then none else some (causeLease, 0)

/-- R348: the stream offset of a new command's first byte: bytes that aborted commands never append are not counted. -/
def State.streamOffset (s : State) (r : Shape) : Nat :=
  match r.dkind, s.cpu.bank, s.cpu.loupe with
  | 1, some b, _ => b.accA
  | 2, some b, _ => b.accB
  | 3, _, some l => l.pos - l.gone
  | _, _, _ => 0

/-- R282, R286: issues a command. One of a speculative chunk whose SNAP range cannot be formed waits until head. -/
def issueCopy (fn : Nat) (d a : Reg) (barrier : KIdx) (acq rel : BitVec 1) (scope t : BitVec 2) (s : State) :
    Host.Outcome State Fault Refusal :=
  issue { reads := [.x a], writes := [.x d], st := t } noEarly
    (fun s =>
      match s.readRecord (s.rx a) 256 64 with
      | .error e => Res.ofStop s e
      | .ok b =>
        let r : Shape := { bytes := b }
        match r.bad fn with
        | some off => .trap s causeIllstate (BitVec.ofNat 64 off)
        | none =>
          match s.streamCheck r with
          | some (c, i) => .trap s c i
          | none =>
            if s.copyHeld fn r then .wait s
            else match freeCopyEntry s.thr.cmds s.cpu.core with
              | none => .wait s
              | some e =>
                let off := s.streamOffset r
                let c : CopyCmd :=
                  { quad := s.cpu.core / 4, entry := e, core := s.cpu.core, chunk := s.cpu.num, committed := s.isHead
                    smode := s.smode, fn := fn, acq := acq == 1, rel := rel == 1, scope := scope.toNat
                    barrier := barrier.toNat, record := b, active := false, pos := 0, scaled := false, ahead := []
                    left := r.pending fn, kept := 0, fault := none, soff := off, next := off, bits := 0, part := 0, counted := []
                    asked := none, held := [], once := [], dirty := false, done := false }
                match (if s.isHead then some [] else s.snapRange c) with
                | none => .wait s
                | some snaps => .done ((s.acceptCopy c snaps).wx d c.ticket).advance) s

/-- R286: copies. -/
def execCcopy (d a : Reg) (b : KIdx) (q l : BitVec 1) (c t : BitVec 2) (s : State) : Host.Outcome State Fault Refusal :=
  issueCopy 0 d a b q l c t s

/-- R286: copies with indexed source positions. -/
def execCgath (d a : Reg) (b : KIdx) (q l : BitVec 1) (c t : BitVec 2) (s : State) : Host.Outcome State Fault Refusal :=
  issueCopy 1 d a b q l c t s

/-- R286: copies with indexed destination positions. -/
def execCscat (d a : Reg) (b : KIdx) (q l : BitVec 1) (c t : BitVec 2) (s : State) : Host.Outcome State Fault Refusal :=
  issueCopy 2 d a b q l c t s

/-- R286: fills the destination with a pattern. -/
def execCfill (d a : Reg) (b : KIdx) (q l : BitVec 1) (c t : BitVec 2) (s : State) : Host.Outcome State Fault Refusal :=
  issueCopy 3 d a b q l c t s

/-! ## Waiting, queries, restarts and aborts (R287-R290) -/

/-- R287: waits until a barrier's pending count is 0. -/
def execCwait (d : Reg) (b : KIdx) (t : BitVec 2) (s : State) : Host.Outcome State Fault Refusal :=
  issue { held := true, writes := [.x d], st := t, again := some .cwait } noEarly
    (fun s =>
      match oldestFault s.thr.cmds (fun c => c.barrier == b.toNat) with
      | some c => .trap s causeEngfault c.ticket
      | none =>
        if barrierCount s.thr.cmds b.toNat = 0 then
          match s.acquire 0 with
          | .error e => Res.ofStop s e
          | .ok s => .done (s.wx d 0).advance
        else if s.limitPassed s.thr.wtime then .done (s.wx d 1).advance
        else .wait (s.parkAs .cwait d 0 s.thr.wtime b.toNat t)) s

/-- R287: a parked cwait reaches its limit and returns 1, unless a command on the barrier is faulted. -/
def execCwaitTimeout (s : State) : Host.Outcome State Fault Refusal :=
  match s.cpu.park with
  | some p =>
    if p.kind = .cwait ∧ s.limitPassed p.b ∧ barrierCount s.thr.cmds p.c ≠ 0 then
      match oldestFault s.thr.cmds (fun c => c.barrier == p.c) with
      | some c => .next (State.raise { s with cpu := { s.cpu with park := none } } causeEngfault c.ticket)
      | none => .next (s.finishParked p.d 1)
    else noOccurrence s
  | none => noOccurrence s

/-- R288: the report on a faulted command. -/
def faultReport (c : CopyCmd) (f : CopyFault) : List Byte :=
  leBytes 8 c.ticket.toNat ++ [f.cause] ++ List.replicate 7 0 ++ leBytes 8 f.info.toNat ++ leBytes 8 f.index
    ++ leBytes 8 c.counts ++ List.replicate 24 0

/-- R288: reports on the oldest faulted command of a barrier. -/
def execCquery (d a : Reg) (b : KIdx) (t : BitVec 2) (s : State) : Host.Outcome State Fault Refusal :=
  issue { held := true, reads := [.x a], writes := [.x d], st := t } noEarly
    (fun s =>
      match s.resolveLs .store (s.rx a) 64 64 with
      | .error e => Res.ofStop s e
      | .ok l =>
        if s.sharedLocked l then .trap s causeSegv (s.rx a)
        else match oldestFault s.thr.cmds (fun c => c.barrier == b.toNat) with
          | none => .done (s.wx d 1).advance
          | some c =>
            match c.fault with
            | some f => Res.after s (s.lsStore l (faultReport c f)) (fun t => (t.wx d 0).advance)
            | none => .done (s.wx d 1).advance) s

/-- R289: the command of a ticket on a barrier. -/
def State.cmdOf (s : State) (ticket : Dword) (b : KIdx) : Option CopyCmd :=
  s.thr.cmds.find? (fun c => c.committed && c.ticket == ticket && c.barrier == b.toNat)

/-- R289: a faulted command restarts at its faulting group: what it had performed after that group is performed again, with the same
bytes in an idempotent command (R387). -/
def CopyCmd.resumed (c : CopyCmd) (e : Nat) : CopyCmd :=
  { c with
    fault := none
    ahead := c.ahead.filter (fun r => decide (r.1 < e))
    counted := c.counted ++ c.ahead.filter (fun r => !decide (r.1 < e))
    once := c.once ++ c.ahead.filter (fun r => !decide (r.1 < e)) }

/-- R8, R291, R387: a command performs groups a second time; where the thread has changed a byte that they have read, it is not idempotent
(log entry 25). -/
def State.redone (s : State) (c : CopyCmd) (again : Bool) : State := if c.dirty && again then s.breach s.thr.asid else s

/-- R289: restarts the faulted command of a ticket. -/
def execCresume (d a : Reg) (b : KIdx) (t : BitVec 2) (s : State) : Host.Outcome State Fault Refusal :=
  issue { held := true, reads := [.x a], writes := [.x d], st := t } noEarly
    (fun s =>
      match s.cmdOf (s.rx a) b with
      | some c =>
        match c.fault with
        | some f =>
          let again := c.ahead.any (fun r => !decide (r.1 < f.index))
          .done (((s.setCmd c (c.resumed f.index)).redone c again).wx d 0).advance
        | none => .done (s.wx d 1).advance
      | none => .done (s.wx d 1).advance) s

/-- R290, R348: bytes that a command of the focused slot has still to append to its stream: those it has appended, or dropped below
the kept point, left out. -/
def State.unpushed (s : State) (c : CopyCmd) : Nat :=
  if c.done || !s.ownsCmd c then 0
  else match s.streamOf c with
    | some (base, _) => c.soff + c.shape.payload c.fn - max c.next base
    | none => 0

/-- R279, R348: a later command of the same stream follows an aborted one without a gap of n bytes (log entry 52). -/
def CopyCmd.closeUp (c : CopyCmd) (n : Nat) (x : CopyCmd) : CopyCmd :=
  if c.streams && x.chunk == c.chunk && x.shape.dkind == c.shape.dkind then { x with soff := x.soff - n, next := x.next - n } else x

/-- R290: the commands that are left, in order, when those that p selects are aborted. -/
def abortList (gap : CopyCmd → Nat) (p : CopyCmd → Bool) : List CopyCmd → List CopyCmd
  | [] => []
  | c :: r => if p c then (abortList gap p r).map (c.closeUp (gap c)) else c :: abortList gap p r

/-- R348: bytes of a stream that an abort leaves unappended. -/
def State.aborted (s : State) (p : CopyCmd → Bool) (dkind : Nat) : Nat :=
  (s.thr.cmds.filter (fun c => p c && c.shape.dkind == dkind)).foldl (fun n c => n + s.unpushed c) 0

/-- R290: takes out the commands that p selects. -/
def State.abortCmds (s : State) (p : CopyCmd → Bool) : State :=
  { s with
    thr := { s.thr with cmds := abortList s.unpushed p s.thr.cmds }
    cpu := { s.cpu with
      bank := s.cpu.bank.map (fun (b : Bank) => { b with accA := b.accA - s.aborted p 1, accB := b.accB - s.aborted p 2 })
      loupe := s.cpu.loupe.map (fun (l : LoupeBind) => { l with gone := l.gone + s.aborted p 3 }) } }

/-- R290: whether an abort of this ticket on this barrier names a command. -/
def abortNames (ticket : Dword) (b : KIdx) (c : CopyCmd) : Bool :=
  c.committed && c.barrier == b.toNat && (ticket == BitVec.allOnes 64 || c.ticket == ticket)

/-- R290: aborts one command, or all on a barrier. -/
def execCabort (d a : Reg) (b : KIdx) (t : BitVec 2) (s : State) : Host.Outcome State Fault Refusal :=
  issue { held := true, reads := [.x a], writes := [.x d], st := t } noEarly
    (fun s =>
      let p := abortNames (s.rx a) b
      let n := (s.thr.cmds.filter p).length
      .done ((s.abortCmds p).wx d (BitVec.ofNat 64 n)).advance) s

end Sys2Proof.Machine
end

