-- ==== Sys2Proof/Machine/Enlarger.lean ====
section
/-! DEFINITION. The Enlarger: banks, format contexts, step groups, the Tray and its spill area, drains, and the steps that
grant a lease and apply a group (R292-R305).
-/

namespace Sys2Proof.Machine

/-! ## The bank and its format context (R294, R296) -/

/-- R294: a newly claimed bank. -/
def Bank.fresh : Bank where
  cells := List.replicate 128 (List.replicate 128 0)
  fmt := none
  fifoA := []
  fifoB := []
  baseA := 0
  baseB := 0
  readA := 0
  readB := 0
  accA := 0
  accB := 0
  steps := 0
  mstart := 0
  amark := 0
  arepleft := 0
  blk := 0
  tray := []
  ascale := List.replicate 128 0
  bscale := List.replicate 128 0
  lease := none

/-- A format context's fields (R296). -/
structure FmtCtx where
  bytes : List Byte
  deriving DecidableEq, Repr

/-- R296: BFMT. -/
def FmtCtx.bfmt (f : FmtCtx) : Nat := field f.bytes 1 1
/-- R296: FLAGS. -/
def FmtCtx.flags (f : FmtCtx) : Nat := field f.bytes 2 1
/-- R296: SCEN. -/
def FmtCtx.scen (f : FmtCtx) : Bool := f.flags.testBit 0
/-- R296: TRAYM is TRAP. -/
def FmtCtx.trapMode (f : FmtCtx) : Bool := f.flags.testBit 1
/-- R296: DRM. -/
def FmtCtx.drm (f : FmtCtx) : Nat := bitsOf f.flags 2 3
/-- R296: RSEN. -/
def FmtCtx.rsen (f : FmtCtx) : Bool := f.flags.testBit 5
/-- R296: CSEN. -/
def FmtCtx.csen (f : FmtCtx) : Bool := f.flags.testBit 6
/-- R296: DFMT. -/
def FmtCtx.dfmt (f : FmtCtx) : Nat := field f.bytes 3 1
/-- R296: REF. -/
def FmtCtx.ref (f : FmtCtx) : Int := signed 16 (field f.bytes 4 2)
/-- R296: M. -/
def FmtCtx.m (f : FmtCtx) : Nat := field f.bytes 6 2
/-- R296: N. -/
def FmtCtx.n (f : FmtCtx) : Nat := field f.bytes 8 2
/-- R296: AREP, 0 read as 1. -/
def FmtCtx.arep (f : FmtCtx) : Nat := max (field f.bytes 10 2) 1
/-- R296: DEPTH. -/
def FmtCtx.depth (f : FmtCtx) : Nat := field f.bytes 12 4
/-- R296: SPILL. -/
def FmtCtx.spill (f : FmtCtx) : Dword := field64 f.bytes 16
/-- R296: SPCAP. -/
def FmtCtx.spcap (f : FmtCtx) : Nat := field f.bytes 24 4
/-- R296: RSCALE. -/
def FmtCtx.rscale (f : FmtCtx) : Dword := field64 f.bytes 32
/-- R296: CSCALE. -/
def FmtCtx.cscale (f : FmtCtx) : Dword := field64 f.bytes 40

/-- R292: bytes of a B group. -/
def FmtCtx.groupB (f : FmtCtx) : Nat := if f.bfmt = 0 then 128 else if f.bfmt = 1 then 256 else 512

/-- R296: n bytes at an EA lie in the slot's private window. That the segment must grant both rights is the model's choice (log entry
103). -/
def State.inPrivate (s : State) (ea : Dword) (n : Nat) : Bool :=
  match segTarget (s.descriptor ea) s.smode .rmw ea n with
  | some (.priv _) => true
  | _ => false

/-- R296: n bytes at an EA lie in one LS window. That the segment must grant reading is the model's choice (log entry 103). -/
def State.inLs (s : State) (ea : Dword) (n : Nat) : Bool :=
  match segTarget (s.descriptor ea) s.smode .load ea n with
  | some (.priv _) => true
  | some (.shared _) => true
  | _ => false

/-- R296: the byte offset of the first bad field of a format context. -/
def State.badFmt (s : State) (f : FmtCtx) : Option Nat :=
  if !fieldZero f.bytes 0 1 then some 0
  else if 2 < f.bfmt then some 1
  else if 128 ≤ f.flags || 5 < f.drm then some 2
  else if 2 < f.dfmt then some 3
  else if f.m = 0 || 128 < f.m then some 6
  else if f.n = 0 || 128 < f.n then some 8
  else if f.depth = 0 then some 12
  else if 0 < f.spcap && f.spcap ≤ 24574 && (f.spill.toNat % 8 != 0 || !s.inPrivate f.spill (8 + 4 * f.spcap)) then some 16
  else if 24574 < f.spcap then some 24
  else if !fieldZero f.bytes 28 4 then some 28
  else if f.rsen && (f.rscale.toNat % 8 != 0 || !s.inLs f.rscale 1024) then some 32
  else if f.csen && (f.cscale.toNat % 8 != 0 || !s.inLs f.cscale 1024) then some 40
  else if !fieldZero f.bytes 48 80 then some 48
  else none

/-! ## The Tray and the spill area (R298, R299) -/

/-- Replaces the focused slot's bank. -/
def State.setBank (s : State) (b : Bank) : State := { s with cpu := { s.cpu with bank := some b } }

/-- R299: the LS offset of the spill area. -/
def State.spillAt (s : State) (f : FmtCtx) : Option Nat :=
  if f.spcap = 0 then none
  else match segTarget (s.descriptor f.spill) s.smode .rmw f.spill (8 + 4 * f.spcap) with
    | some (.priv o) => some o
    | _ => none

/-- R299: USED. -/
def State.spillUsed (s : State) (o : Nat) : Nat := leNat (s.lsRead (.priv o) 4)

/-- R299: entry e of the spill area. -/
def State.spillWord (s : State) (o e : Nat) : Nat := leNat (s.lsRead (.priv (o + 8 + 4 * e)) 4)

/-- R299: the entry word of a cell with a count. -/
def spillEntry (bank row col : Nat) (cnt : Int) : Nat :=
  bank % 4 * 2 ^ 26 + row % 128 * 2 ^ 19 + col % 128 * 2 ^ 12 + wrap 12 cnt

/-- R299: the entry of the spill area that holds a cell. -/
def State.spillFind (s : State) (o bank row col : Nat) : Option Nat :=
  (List.range (s.spillUsed o)).find? (fun e => s.spillWord o e / 2 ^ 12 == spillEntry bank row col 0 / 2 ^ 12)

/-- R298: the spilled count of a cell. -/
def State.spilled (s : State) (f : FmtCtx) (bank row col : Nat) : Int :=
  match s.spillAt f with
  | none => 0
  | some o =>
    match s.spillFind o bank row col with
    | some e => signed 12 (s.spillWord o e)
    | none => 0

/-- R299: writes a spill entry. -/
def State.setSpill (s : State) (o e w : Nat) : State := s.lsWrite (.priv (o + 8 + 4 * e)) (leBytes 4 w)

/-- R299: adds a count to a cell's entry, appended when there is none. -/
def State.spillAdd (s : State) (o bank row col : Nat) (cnt : Int) : State :=
  match s.spillFind o bank row col with
  | some e => s.setSpill o e (spillEntry bank row col (signed 12 (s.spillWord o e) + cnt))
  | none =>
    let u := s.spillUsed o
    (s.setSpill o u (spillEntry bank row col cnt)).lsWrite (.priv o) (leBytes 4 (u + 1))

/-- Puts an entry behind every entry whose key is no greater. -/
def insertKeyed (k : Nat) (t : TrayEntry) : List (Nat × TrayEntry) → List (Nat × TrayEntry)
  | [] => [(k, t)]
  | (j, u) :: r => if j ≤ k then (j, u) :: insertKeyed k t r else (k, t) :: (j, u) :: r

/-- R299, R394: the entries in the order in which the array spills them: no rule gives it, but it depends on the entries alone (log
entry 41). -/
def spillOrder (l : List TrayEntry) : List TrayEntry :=
  (l.zipIdx.foldr (fun p acc => insertKeyed (Config.spillKey p.2 (128 * p.1.row + p.1.col)) p.1 acc) []).map (fun p => p.2)

/-- R299: spills these counts one after the other. -/
def State.spillList (s : State) (o bank : Nat) : List TrayEntry → State
  | [] => s
  | t :: r => (s.spillAdd o bank t.row t.col t.cnt).spillList o bank r

/-- R299: spills these counts. -/
def State.spillAll (s : State) (o bank : Nat) (l : List TrayEntry) : State := s.spillList o bank (spillOrder l)

/-- Whether one cell comes before another: the lower row, within it the lower column (R301). -/
def cellLe (a b : Nat × Nat) : Bool := a.1 < b.1 || (a.1 == b.1 && a.2 ≤ b.2)

/-- R300, R301: when the spill area lacks room for the cells that need an append, the lowest of them. -/
def State.spillShort (s : State) (f : FmtCtx) (bank : Nat) (cells : List (Nat × Nat)) : Option (Nat × Nat) :=
  let lacking := match s.spillAt f with
    | none => cells
    | some o => cells.filter (fun c => (s.spillFind o bank c.1 c.2).isNone)
  let room := match s.spillAt f with
    | none => 0
    | some o => f.spcap - s.spillUsed o
  match lacking with
  | [] => none
  | c :: r => if lacking.length ≤ room then none else some (r.foldl (fun m x => if cellLe m x then m else x) c)

/-- The count of a cell's Tray entry. -/
def trayCount (l : List TrayEntry) (row col : Nat) : Int :=
  match l.find? (fun t => t.row == row && t.col == col) with
  | some t => t.cnt
  | none => 0

/-- R298: adds a carry to a cell's Tray entry, made when there is none. That an entry's own count is unbounded, as long as the cell's total
stays in its range, is the model's choice (log entry 102). -/
def trayAdd (l : List TrayEntry) (row col : Nat) (c : Int) : List TrayEntry :=
  if l.any (fun t => t.row == row && t.col == col) then
    l.map (fun t => if t.row = row ∧ t.col = col then { t with cnt := t.cnt + c } else t)
  else l ++ [{ row := row, col := col, cnt := c }]

/-- R298: the free Tray entries of the focused slot's Enlarger. -/
def State.trayFree (s : State) : Nat :=
  2048 - (s.chunks.filter (fun c => c.core / 4 == s.cpu.core / 4)).foldl
    (fun n c => n + (match c.bank with | some b => b.tray.length | none => 0)) 0

/-- R303: clears a bank: cells, Tray entries, USED, STEPS and MSTART. -/
def State.clearBank (s : State) (b : Bank) (f : FmtCtx) : State :=
  let s := match s.spillAt f with
    | some o => s.lsWrite (.priv o) (leBytes 4 0)
    | none => s
  s.setBank { b with cells := Bank.fresh.cells, tray := [], steps := 0, mstart := 0, blk := 0 }

/-- R300, R303: the A groups before the read position are freed when no replay remains. -/
def Bank.freeA (b : Bank) : Bank :=
  if b.arepleft = 0 then { b with fifoA := b.fifoA.drop (b.readA - b.baseA), baseA := b.readA } else b

/-! ## Faults (R301) -/

/-- R301: tinfo of an Enlarger fault. -/
def enlInfo (reason stream col row kstep : Nat) : Dword :=
  BitVec.ofNat 64 (reason * 2 ^ 50 + stream * 2 ^ 48 + col % 128 * 2 ^ 41 + row % 128 * 2 ^ 34 + kstep % 2 ^ 32)

/-! ## One step group (R292, R297, R300) -/

/-- R292, R297: the weight w[j][4g + m] of a B group. -/
def weight (bfmt : Nat) (g : List Byte) (j m : Nat) : Int :=
  if bfmt = 0 then (t2Value (bitsOf (field g j 1) (2 * m) 2)).getD 0
  else if bfmt = 1 then signed 4 (bitsOf (field g (2 * j) 2) (4 * m) 4)
  else signed 8 (field g (4 * j + m) 1)

/-- R292: the activation a[i][4g + m] of an A group. -/
def activation (g : List Byte) (i m : Nat) : Int := signed 8 (field g (4 * i + m) 1)

/-- The streams at a group: the scale records in force and the two groups. -/
structure StepGroup where
  ea : List Byte
  eb : List Byte
  a  : List Byte
  b  : List Byte
  /-- Bytes that the group takes from each stream, a scale record counted. -/
  na : Nat
  nb : Nat
  deriving DecidableEq, Repr

/-- R292: bytes of the next group in each stream. -/
def Bank.need (b : Bank) (f : FmtCtx) : Nat × Nat :=
  let sc := if f.scen && b.blk % 8 == 0 then 128 else 0
  (512 + sc, f.groupB + sc)

/-- R304: whether both FIFOs hold the next group. -/
def Bank.ready (b : Bank) (f : FmtCtx) : Bool :=
  decide (b.readA - b.baseA + (b.need f).1 ≤ b.fifoA.length) && decide (b.readB - b.baseB + (b.need f).2 ≤ b.fifoB.length)

/-- R292: the next group. -/
def Bank.group (b : Bank) (f : FmtCtx) : StepGroup :=
  let a := b.fifoA.drop (b.readA - b.baseA)
  let w := b.fifoB.drop (b.readB - b.baseB)
  if f.scen && b.blk % 8 == 0 then
    { ea := a.take 128, eb := w.take 128, a := (a.drop 128).take 512, b := (w.drop 128).take f.groupB
      na := 640, nb := 128 + f.groupB }
  else { ea := b.ascale, eb := b.bscale, a := a.take 512, b := w.take f.groupB, na := 512, nb := f.groupB }

/-- R297: the shift s of a cell. -/
def cellShift (f : FmtCtx) (g : StepGroup) (i j : Nat) : Int :=
  if f.scen then (field g.ea i 1 : Int) - 127 + ((field g.eb j 1 : Int) - 127) - f.ref else 0

/-- R297: what a cell receives. -/
def cellSum (f : FmtCtx) (g : StepGroup) (i j : Nat) : Int :=
  (activation g.a i 0 * weight f.bfmt g.b j 0 + activation g.a i 1 * weight f.bfmt g.b j 1
    + activation g.a i 2 * weight f.bfmt g.b j 2 + activation g.a i 3 * weight f.bfmt g.b j 3)
    * 2 ^ (cellShift f g i j).toNat

/-- A cell. -/
def cellAt (cells : List (List (BitVec 16))) (i j : Nat) : BitVec 16 := (cells.getD i []).getD j 0

/-- R297: t of a cell. -/
def cellTotal (f : FmtCtx) (g : StepGroup) (cells : List (List (BitVec 16))) (i j : Nat) : Int :=
  (cellAt cells i j).toInt + cellSum f g i j

/-- R297: the signed carry of t. -/
def carryOf (t : Int) : Int := (t - signed 16 (wrap 16 t)) / 65536

/-- The used cells in row-major order. -/
def usedCells (f : FmtCtx) : List (Nat × Nat) :=
  (List.range f.m).flatMap (fun i => (List.range f.n).map (fun j => (i, j)))

/-- R300: the carries of a group that are not zero, in row-major order. -/
def carries (f : FmtCtx) (g : StepGroup) (cells : List (List (BitVec 16))) : List TrayEntry :=
  (usedCells f).filterMap (fun c =>
    let k := carryOf (cellTotal f g cells c.1 c.2)
    if k = 0 then none else some { row := c.1, col := c.2, cnt := k })

/-- R297: the cells after a group. -/
def stepCells (f : FmtCtx) (g : StepGroup) (cells : List (List (BitVec 16))) : List (List (BitVec 16)) :=
  cells.mapIdx (fun i row => row.mapIdx (fun j a =>
    if i < f.m ∧ j < f.n then BitVec.ofInt 16 (cellTotal f g cells i j) else a))

/-- R300, R301: check 2: the scale byte or code reported, of the failing cell with the lowest row, then column. R301 orders cells only: of
several reserved codes of that cell the model reports the A scale, else the B scale, else the T2 code of the lowest step (log entry 49). -/
def mscaleOf (f : FmtCtx) (g : StepGroup) (steps : Nat) : Option Dword :=
  let badA (i : Nat) : Bool := f.scen && field g.ea i 1 == 255
  let badB (j : Nat) : Bool := f.scen && field g.eb j 1 == 255
  let code (j : Nat) : Option Nat :=
    if f.bfmt = 0 then (List.range 4).find? (fun m => bitsOf (field g.b j 1) (2 * m) 2 == 2) else none
  if badA 0 then some (enlInfo 0 1 0 0 steps)
  else match (List.range f.n).find? (fun j => badB j || (code j).isSome) with
    | some j => if badB j then some (enlInfo 0 2 j 0 steps) else some (enlInfo 0 2 j 0 (steps + (code j).getD 0))
    | none =>
      match (List.range f.m).find? badA with
      | some i => some (enlInfo 0 1 0 i steps)
      | none => none

/-- R300: check 3. -/
def spanOf (f : FmtCtx) (g : StepGroup) (steps : Nat) : Option Dword :=
  match (usedCells f).find? (fun c => cellShift f g c.1 c.2 < 0 || 7 < cellShift f g c.1 c.2) with
  | some c => some (enlInfo 0 0 c.2 c.1 steps)
  | none => none

/-- R298, R300: check 4. -/
def State.totalOver (s : State) (b : Bank) (f : FmtCtx) (cs : List TrayEntry) : Option Dword :=
  match cs.find? (fun t => 2047 < (trayCount b.tray t.row t.col + s.spilled f (s.cpu.core % 4) t.row t.col + t.cnt).natAbs) with
  | some t => some (enlInfo 1 0 t.col t.row b.steps)
  | none => none

/-- The bank after a group is consumed (R292, R300). -/
def Bank.consume (b : Bank) (f : FmtCtx) (g : StepGroup) (cells : List (List (BitVec 16))) (tray : List TrayEntry) : Bank :=
  let readB := b.readB + g.nb
  Bank.freeA { b with
    cells := cells, tray := tray, ascale := if f.scen then g.ea else b.ascale, bscale := if f.scen then g.eb else b.bscale
    readA := b.readA + g.na, readB := readB, fifoB := b.fifoB.drop (readB - b.baseB), baseB := readB
    blk := b.blk + 1, steps := b.steps + 4
    lease := b.lease.map (fun l => (l.1, l.2 - 4)) }

/-- R297-R300: applies the next group, or the fault that leaves it unapplied. -/
def State.applyGroup (s : State) (b : Bank) (f : FmtCtx) : Except (Byte × Dword) State :=
  let g := b.group f
  if f.depth < b.steps + 4 then .error (causeDepth, enlInfo 0 0 0 0 b.steps)
  else match mscaleOf f g b.steps with
  | some i => .error (causeMscale, i)
  | none =>
    match (if f.scen then spanOf f g b.steps else none) with
    | some i => .error (causeSpan, i)
    | none =>
      let cs := carries f g b.cells
      match s.totalOver b f cs with
      | some i => .error (causeTrayfull, i)
      | none =>
        let cells := stepCells f g b.cells
        let fresh := cs.filter (fun t => !(b.tray.any (fun u => u.row == t.row && u.col == t.col)))
        if fresh.length ≤ s.trayFree then
          .ok (State.reap (s.setBank (b.consume f g cells (cs.foldl (fun l t => trayAdd l t.row t.col t.cnt) b.tray))))
        else if f.trapMode then
          match fresh with
          | t :: _ => .error (causeTrayfull, enlInfo 0 0 t.col t.row b.steps)
          | [] => .ok s
        else
          let free := s.trayFree + b.tray.length
          let rest := cs.drop free
          let bank := s.cpu.core % 4
          let direct := rest.filter (fun t => !(b.tray.any (fun u => u.row == t.row && u.col == t.col)))
          match s.spillShort f bank ((b.tray ++ direct).map (fun t => (t.row, t.col))) with
          | some c => .error (causeTrayfull, enlInfo 2 0 c.2 c.1 b.steps)
          | none =>
            let s := match s.spillAt f with
              | some o => (s.spillAll o bank b.tray).spillAll o bank rest
              | none => s
            .ok (State.reap (s.setBank (b.consume f g cells (cs.take free))))

/-! ## Drains (R302) -/

/-- R302: 2^REF × V as an exact value. -/
def scaledTotal (v ref : Int) : Val :=
  if 0 ≤ ref then Val.ofInt (v * 2 ^ ref.toNat) 1 false else Val.ofInt v (2 ^ (-ref).toNat) false

/-- R302: the drained bits and flags of a total. -/
def drainValue (f : FmtCtx) (v : Int) (rs cs : Nat) (r : Rnd) : Nat × BitVec 7 :=
  if f.dfmt = 2 then (wrap 32 v, 0)
  else
    let q := fp64.finish rne (Val.mul (scaledTotal v f.ref) (fp64.decode rs))
    let t := fp64.finish rne (Val.mul (fp64.decode q.1) (fp64.decode cs))
    let o := (if f.dfmt = 1 then bf16 else fp32).ofVal r (fp64.decode t.1)
    (o.1, q.2 ||| t.2 ||| o.2)

/-- FP64 1.0. -/
def one64 : Nat := 0x3FF0000000000000

/-- R302: a scale read from its array when it is enabled. -/
def State.scaleAt (s : State) (on : Bool) (ea : Dword) (i : Nat) : Except Stop Nat :=
  if !on then .ok one64
  else match s.readRecord (ea + BitVec.ofNat 64 (8 * i)) 8 8 with
    | .error e => .error e
    | .ok b => .ok (leNat b)

/-- R302: the total of a cell. -/
def State.cellValue (s : State) (b : Bank) (f : FmtCtx) (i j : Nat) : Int :=
  (cellAt b.cells i j).toInt + 65536 * (trayCount b.tray i j + s.spilled f (s.cpu.core % 4) i j)

/-- R302: the drained values of the first n cells of a row. -/
def State.drainRow (s : State) (b : Bank) (f : FmtCtx) (i : Nat) : Nat → Except Stop (List Nat × BitVec 7)
  | 0 => .ok ([], 0)
  | j + 1 =>
    match s.drainRow b f i j with
    | .error e => .error e
    | .ok (l, fl) =>
      match s.scaleAt f.rsen f.rscale i, s.scaleAt f.csen f.cscale j with
      | .error e, _ => .error e
      | _, .error e => .error e
      | .ok rs, .ok cs =>
        let r : Rnd := { mode := f.drm, key := s.cpu.sbase + BitVec.ofNat 64 (128 * i + j), seed := s.cpu.seed }
        let o := drainValue f (s.cellValue b f i j) rs cs r
        .ok (l ++ [o.1], fl ||| o.2)

/-- R302: sets the spilled counts of the rows that p selects to 0 in place, in the first entries. -/
def State.zeroSpills (s : State) (o bank : Nat) (p : Nat → Bool) : Nat → State
  | 0 => s
  | e + 1 =>
    let s := s.zeroSpills o bank p e
    let w := s.spillWord o e
    if bitsOf w 26 2 = bank ∧ p (bitsOf w 19 7) then s.setSpill o e (w - w % 4096) else s

/-- R302: the spilled counts of drained rows are set to 0 in place. -/
def State.zeroRows (s : State) (f : FmtCtx) (p : Nat → Bool) : State :=
  match s.spillAt f with
  | some o => s.zeroSpills o (s.cpu.core % 4) p (s.spillUsed o)
  | none => s

/-- R302: a drained row is cleared: cells of used columns, Tray entries, spilled counts. -/
def State.clearRow (s : State) (b : Bank) (f : FmtCtx) (i : Nat) : State :=
  (s.zeroRows f (fun k => k == i)).setBank { b with
    cells := b.cells.mapIdx (fun k row => if k = i then row.mapIdx (fun j a => if j < f.n then 0 else a) else row)
    tray := b.tray.filter (fun t => t.row != i) }

/-- R302: the drained rows from 0 on, with their flags. -/
def State.drainRows (s : State) (b : Bank) (f : FmtCtx) : Nat → Except Stop (List (List Nat) × BitVec 7)
  | 0 => .ok ([], 0)
  | i + 1 =>
    match s.drainRows b f i with
    | .error e => .error e
    | .ok (l, fl) =>
      match s.drainRow b f i f.n with
      | .error e => .error e
      | .ok (r, fl') => .ok (l ++ [r], fl ||| fl')

/-- R302: bytes of a drained element. -/
def FmtCtx.outBytes (f : FmtCtx) : Nat := if f.dfmt = 1 then 2 else 4

/-! ## Instructions (R303, R304) -/

/-- R293, R294: an Enlarger instruction that needs the claim (LEASE) and, if asked, a format context (ILLSTATE, 0). -/
def State.withBank (s : State) (k : Bank → Res) : Res :=
  match s.cpu.bank with
  | none => .trap s causeLease 0
  | some b => k b

/-- R294: the bank with its format context. -/
def State.withFmt (s : State) (k : Bank → FmtCtx → Res) : Res :=
  match s.cpu.bank with
  | none => .trap s causeLease 0
  | some b =>
    match b.fmt with
    | none => .trap s causeIllstate 0
    | some f => k b { bytes := f }

/-! ## Leases (R295) -/

/-- R295: whether a chunk has a command ready to run: a parked mstep with its next group's data, or a command that waits for the
lease. -/
def Chunk.leaseReady (c : Chunk) : Bool :=
  match c.park, c.bank with
  | some p, some b =>
    p.kind == .menl || (p.kind == .mstep && (match b.fmt with | some f => b.ready { bytes := f } | none => false))
  | _, _ => false

/-- R295: how far a core comes after the last holder in the round. -/
def turnAfter (last core : Nat) : Nat := (core % 4 + 3 - last % 4) % 4

/-- R295: whether a waiting bank of the same quad is served before the focused one: the head's, else the next in the round. With no last
holder, as after a claim or a resumption, the round begins at bank 0: the model's choice (log entry 94). -/
def State.leaseAhead (s : State) : Bool :=
  let q := s.cpu.core / 4
  let last := ((s.thr.leases.find? (fun p => p.1 == q)).map (fun p => p.2)).getD 3
  let rivals := (s.older ++ s.younger).filter (fun c => c.core / 4 == q && c.leaseReady)
  let head := match s.older with | h :: _ => h | [] => s.cpu
  !s.isHead && (head.core / 4 == q && head.leaseReady || rivals.any (fun c => turnAfter last c.core < turnAfter last s.cpu.core))

/-- R295: whether another bank of the quad holds the lease: one without a command ready to run has lost it. -/
def State.leaseHeld (s : State) : Bool :=
  (s.older ++ s.younger).any (fun c =>
    c.core / 4 == s.cpu.core / 4 && c.leaseReady && (match c.bank with | some b => b.lease.isSome | none => false))

/-- R295: a chunk of the quad gives up its lease. -/
def Chunk.yieldLease (q : Nat) (c : Chunk) : Chunk :=
  if c.core / 4 = q then { c with bank := c.bank.map (fun (b : Bank) => { b with lease := none }) } else c

/-- R295: a lease granted to the focused bank, with a count of commands left. -/
def State.grantLease (s : State) (b : Bank) (commands : Nat) : State :=
  let q := s.cpu.core / 4
  let s := s.setBank { b with lease := some (commands, 4096) }
  { s with
    older := s.older.map (Chunk.yieldLease q), younger := s.younger.map (Chunk.yieldLease q)
    thr := { s.thr with leases := (q, s.cpu.core) :: s.thr.leases.filter (fun p => p.1 != q) } }

/-- R295: one command of the focused bank begins under a lease: the one it holds, or a new one if no other bank holds or is due it;
none when it has to wait. -/
def State.leased (s : State) (b : Bank) : Option State :=
  match b.lease with
  | some (n + 1, k) => some (s.setBank { b with lease := if n = 0 then none else some (n, k) })
  | _ => if s.leaseHeld || s.leaseAhead then none else some (s.grantLease b 7)

/-- R295, R303: a command that runs at once under a lease, else waits for one. -/
def State.underLease (s : State) (b : Bank) (k : State → Bank → Res) : Res :=
  match s.leased b with
  | none => .wait (s.parkAs .menl 0 0 0 0)
  | some t =>
    match t.cpu.bank with
    | none => .wait s
    | some c => k t c

/-! ## The commands (R303, R304) -/

/-- R303: the younger chunk that holds this core's bank. -/
def State.bankHolder (s : State) : Option Nat := s.younger.findIdx? (fun c => c.core == s.cpu.core && c.bank.isSome)

/-- R303: claims the core's bank. -/
def execMclaim (d : Reg) (t : BitVec 2) (s : State) : Host.Outcome State Fault Refusal :=
  issue { writes := [.x d], st := t, again := some .mclaim } noEarly
    (fun s =>
      if s.cpu.bank.isSome then .done (s.wx d 1).advance
      else
        let s := match s.bankHolder with
          | some i => if s.isHead then s.squashFrom i else s
          | none => s
        if s.bankHolder.isSome ∨ s.older.any (fun c => c.core == s.cpu.core && c.bank.isSome) then
          .wait (s.parkAs .mclaim d 0 0 0)
        else .done ((s.setBank Bank.fresh).wx d 0).advance) s

/-- R158, R293, R296, R303: reads and checks a format context, installs it and clears the bank. The record's memory checks come before
the check of the claim (R158). -/
def execMfmt (a : Reg) (t : BitVec 2) (s : State) : Host.Outcome State Fault Refusal :=
  issue { reads := [.x a], st := t, again := some .menl } noEarly
    (fun s =>
      match s.readRecord (s.rx a) 128 64 with
      | .error e => Res.ofStop s e
      | .ok r => s.withBank (fun b =>
        let f : FmtCtx := { bytes := r }
        match s.badFmt f with
        | some off => .trap s causeIllstate (BitVec.ofNat 64 off)
        | none => s.underLease b (fun s b =>
          .done (State.advance (State.reap (s.clearBank
            (Bank.freeA { b with fmt := some r, amark := b.readA, arepleft := 0 }) f)))))) s

/-- R303: clears the bank and steps the replay of the A stream. -/
def execMzero (t : BitVec 2) (s : State) : Host.Outcome State Fault Refusal :=
  issue { st := t, again := some .menl } noEarly
    (fun s => s.withFmt (fun b f => s.underLease b (fun s b =>
      let b :=
        if 0 < b.arepleft then { b with readA := b.amark, arepleft := b.arepleft - 1 }
        else { b with amark := b.readA, fifoA := b.fifoA.drop (b.readA - b.baseA), baseA := b.readA, arepleft := f.arep - 1 }
      .done (State.advance (State.reap (s.clearBank b f)))))) s

/-- R304: whether the next A group lies more than 32 KiB past AMARK while replays remain. -/
def Bank.pastReplay (b : Bank) (f : FmtCtx) : Bool :=
  decide (0 < b.arepleft) && decide (b.amark + 32768 < b.readA + (b.need f).1)

/-- R304: what mstep does before it waits for a group: done, a fault, or nothing. -/
def stepFault (b : Bank) (f : FmtCtx) : Option (Byte × Dword) :=
  if b.pastReplay f then some (causeIllstate, BitVec.ofNat 64 b.mstart) else none

/-- R295: an mstep that begins under a lease its bank holds is one of that lease's commands. -/
def Bank.countStep (b : Bank) : Bank := { b with lease := b.lease.filter (fun l => 0 < l.1) |>.map (fun l => (l.1 - 1, l.2)) }

/-- R304: applies step groups; it parks until ENLARGER_GROUP_APPLY has applied the last one. -/
def execMstep (a : Reg) (t : BitVec 2) (s : State) : Host.Outcome State Fault Refusal :=
  issue { reads := [.x a], st := t } noEarly
    (fun s => s.withFmt (fun b f =>
      let n := (s.rx a).toNat % 65536
      if n = 0 then .done s.advance
      else if n ≤ b.mstart then .trap s causeIllstate (BitVec.ofNat 64 b.mstart)
      else match stepFault b f with
        | some (c, i) => .trap s c i
        | none => .wait ((s.setBank b.countStep).parkAs .mstep 0 0 0 n t))) s

/-- R302, R303: the packed row of a drain: elements 0 to 127, columns at or above N zero. -/
def packRow (bytes : Nat) (l : List Nat) : VReg := BitVec.ofNat 4096 (leNat (l.flatMap (leBytes bytes)))

/-- R303: drains one row into a vector register. -/
def execMdrain (d a : Reg) (t : BitVec 2) (s : State) : Host.Outcome State Fault Refusal :=
  issue { reads := [.x a, .seed, .sbase], writes := [.v d], st := t, again := some .menl } noEarly
    (fun s => s.withFmt (fun b f =>
      let i := (s.rx a).toNat % 128
      if f.m ≤ i then .trap s causeIllstate (BitVec.ofNat 64 i)
      else match s.drainRow b f i f.n with
        | .error e => Res.ofStop s e
        | .ok (l, fl) => s.underLease b (fun s b =>
          .done (((s.clearRow b f i).wv d (packRow f.outBytes l)).addFlags fl).advance))) s

/-- R303: writes drained rows to LS, row i at 128 × i × size. -/
def State.putRows (s : State) (o size : Nat) (l : List (List Nat)) : Except Stop State :=
  runList (fun s r => s.lsStore (.priv (o + 128 * r.2 * size)) (r.1.flatMap (leBytes size))) s l.zipIdx

/-- R302, R303: drains all used rows to LS and clears what is drained, then the bank. The alignment of X[A] is checked before the claim (R158); the window that
it must lie in depends on the format context. -/
def execMdrainl (a : Reg) (t : BitVec 2) (s : State) : Host.Outcome State Fault Refusal :=
  issue { reads := [.x a, .seed, .sbase], st := t, again := some .menl } noEarly
    (fun s =>
      if (s.rx a).toNat % 64 ≠ 0 then .trap s causeAlign (s.rx a)
      else s.withFmt (fun b f =>
        let size := f.outBytes
        match s.resolveLs .store (s.rx a) (128 * (f.m - 1) * size + f.n * size) 64 with
        | .error e => Res.ofStop s e
        | .ok (.priv o) =>
          match s.drainRows b f f.m with
          | .error e => Res.ofStop s e
          | .ok (l, fl) => s.underLease b (fun s b => Res.after s (s.putRows o size l) (fun t =>
            (((t.zeroRows f (fun i => decide (i < f.m))).clearBank b f).addFlags fl).advance))
        | .ok _ => .trap s causeSegv (s.rx a))) s

/-- R291, R303: the claim goes, with the slot's FIFO commands. -/
def State.releaseBank (s : State) : State :=
  let mine (c : CopyCmd) : Bool := c.chunk == s.cpu.num && (c.shape.dkind == 1 || c.shape.dkind == 2)
  let s := s.abortCmds mine
  { s with cpu := { s.cpu with bank := none } }

/-- R303: releases the bank claim. -/
def execMrel (t : BitVec 2) (s : State) : Host.Outcome State Fault Refusal :=
  issue { st := t } noEarly (fun s => s.withBank (fun _ => .done s.releaseBank.advance)) s

/-- R303: the report of mstat. -/
def bankStatus (b : Bank) : Dword :=
  BitVec.ofNat 64 (min b.steps (2 ^ 32 - 1) * 2 ^ 32 + b.tray.length % 4096 * 2 ^ 16 + b.mstart % 65536)

/-- R303: STEPS, Tray entries and MSTART. -/
def execMstat (d : Reg) (t : BitVec 2) (s : State) : Host.Outcome State Fault Refusal :=
  issue { writes := [.x d], st := t } noEarly (fun s => s.withBank (fun b => .done (s.wx d (bankStatus b)).advance)) s

/-- R299, R303: spills every Tray entry of the bank. -/
def execMspill (d : Reg) (t : BitVec 2) (s : State) : Host.Outcome State Fault Refusal :=
  issue { writes := [.x d], st := t, again := some .menl } noEarly
    (fun s => s.withFmt (fun b f => s.underLease b (fun s b =>
      let bank := s.cpu.core % 4
      match s.spillShort f bank (b.tray.map (fun t => (t.row, t.col))) with
      | some c => .trap s causeTrayfull (enlInfo 2 0 c.2 c.1 b.steps)
      | none =>
        let u := match s.spillAt f with
          | some o => s.spillAll o bank b.tray
          | none => s
        .done ((u.setBank { b with tray := [] }).wx d (BitVec.ofNat 64 b.tray.length)).advance))) s

/-! ## Leases and groups (R295, R304) -/

/-- R295: the array lease of the focused bank's quad is granted to it, for the command that waits. -/
def execEnlargerLease (s : State) : Host.Outcome State Fault Refusal :=
  match s.cpu.bank, s.cpu.park with
  | some b, some p =>
    if s.cpu.leaseReady ∧ b.lease.isNone ∧ !s.leaseHeld ∧ !s.leaseAhead then
      .next (s.grantLease b (if p.kind = .menl then 8 else 7))
    else noOccurrence s
  | _, _ => noOccurrence s

/-- R295: a lease ends. -/
def State.endLease (s : State) : State :=
  { s with cpu := { s.cpu with bank := s.cpu.bank.map (fun (b : Bank) => { b with lease := none }) } }

/-- R304: a fault of the parked mstep. -/
def State.stepTrap (s : State) (c : Byte) (i : Dword) : State :=
  let s := s.endLease
  State.raise { s with cpu := { s.cpu with park := none } } c i

/-- R304: after a group: MSTART moves on, and the mstep completes after the last one. -/
def State.stepNext (s : State) (f : FmtCtx) (n : Nat) : State :=
  match s.cpu.bank with
  | none => s
  | some b =>
    if n ≤ b.mstart + 1 then State.finishParked (State.endLease (s.setBank { b with mstart := 0 })) 0 0
    else
      let b := { b with mstart := b.mstart + 1, lease := b.lease.filter (fun l => 0 < l.2) }
      let s := s.setBank b
      match stepFault b f with
      | some (c, i) => s.stepTrap c i
      | none => s

/-- R304: the array applies one group of the parked mstep that holds the lease; without data the lease ends. -/
def execEnlargerGroupApply (s : State) : Host.Outcome State Fault Refusal :=
  match s.cpu.park, s.cpu.bank with
  | some p, some b =>
    match p.kind, b.fmt, b.lease with
    | .mstep, some r, some _ =>
      let f : FmtCtx := { bytes := r }
      if !b.ready f then .next s.endLease
      else match s.applyGroup b f with
        | .error (c, i) => .next (s.stepTrap c i)
        | .ok t => .next (t.stepNext f p.c)
    | _, _, _ => noOccurrence s
  | _, _ => noOccurrence s

end Sys2Proof.Machine
end

