-- ==== Sys2Proof/Machine/Loupe.lean ====
section
/-! DEFINITION. The Loupe and the Proof stage: lcfg, lpred, lproof, lstat, and the completion of a prediction (R306-R321).
-/

namespace Sys2Proof.Machine

/-! ## lcfg (R309-R311) -/

/-- R310, R311: whether list area k is bad at its EA field. That the segment must grant a store in the mode of the lcfg is the model's
choice (log entry 103). -/
def State.badList (s : State) (c : LoupeCfg) (k : Nat) : Bool :=
  let n := if 65536 < c.cap k then 4 else 4 + 2 * c.cap k
  (c.list k).toNat % 4 != 0
    || !(match segTarget (s.descriptor (c.list k)) s.smode .store (c.list k) n with
      | some (.priv _) => true
      | _ => false)

/-- R309: whether ACTEPS is finite with sign 0. -/
def badActeps (v : Nat) : Bool := v.testBit 31 || bitsOf v 23 8 == 255

/-- R311: the byte offset of the first bad field of a configuration. -/
def State.badLoupe (s : State) (c : LoupeCfg) : Option Nat :=
  if c.dw = 0 || 16384 < c.dw then some 0
  else if c.rk < 4 || 256 < c.rk || c.rk % 4 != 0 then some 2
  else if c.nn < 64 || 65536 < c.nn || c.nn % 64 != 0 then some 4
  else if 31 < c.shift then some 8
  else if 8 < c.qexp then some 9
  else if badActeps c.acteps then some 12
  else if c.thhi < c.thlo then some 20
  else if 1 < c.yfmt then some 32
  else if !fieldZero c.bytes 33 3 then some 33
  else if s.badList c 0 then some 40
  else if s.badList c 1 then some 48
  else if s.badList c 2 then some 56
  else if 65536 < c.cap 0 then some 64
  else if 65536 < c.cap 1 then some 68
  else if 65536 < c.cap 2 then some 72
  else if !fieldZero c.bytes 76 52 then some 76
  else none

/-- R307: the DKIND 3 commands of the focused slot. -/
def State.myLoupeCmd (s : State) (c : CopyCmd) : Bool := c.chunk == s.cpu.num && c.shape.dkind == 3

/-- R307: releases the binding: the buffer goes, and outstanding DKIND 3 commands are aborted. -/
def State.releaseLoupe (s : State) : State :=
  let s := s.abortCmds s.myLoupeCmd
  { s with cpu := { s.cpu with loupe := none } }

/-- R311: binds the Loupe with a configuration, everything of an earlier one gone. -/
def State.bindLoupe (s : State) (cfg : List Byte) : State :=
  let s := s.abortCmds s.myLoupeCmd
  { s with cpu := { s.cpu with loupe := some { cfg := cfg, pos := 0, base := 0, buf := [], taken := [], gone := 0, pred := none } } }

/-- R308: the younger chunk that holds the binding. -/
def State.loupeHolder (s : State) : Option Nat := s.younger.findIdx? (fun c => c.loupe.isSome)

/-- R308: an older chunk holds the binding or waits for it. -/
def State.loupeOlder (s : State) : Bool :=
  s.older.any (fun c => c.loupe.isSome || (match c.park with | some p => p.kind == .lcfg | none => false))

/-- R311: binds and configures the Loupe, or releases it. -/
def execLcfg (d a : Reg) (t : BitVec 2) (s : State) : Host.Outcome State Fault Refusal :=
  issue { reads := [.x a], writes := [.x d], st := t, again := some .lcfg } noEarly
    (fun s =>
      if a = 0 then
        .done (if s.cpu.loupe.isSome then (s.releaseLoupe.wx d 0).advance else (s.wx d 1).advance)
      else match s.readRecord (s.rx a) 128 64 with
        | .error e => Res.ofStop s e
        | .ok r =>
          match s.badLoupe { bytes := r } with
          | some off => .trap s causeIllstate (BitVec.ofNat 64 off)
          | none =>
            if s.cpu.loupe.isSome then .done ((s.bindLoupe r).wx d 1).advance
            else if s.loupeOlder then .wait (s.parkAs .lcfg d 0 0 0)
            else
              let s := match s.loupeHolder with
                | some i => s.squashFrom i
                | none => s
              .done ((s.bindLoupe r).wx d 0).advance) s

/-! ## lpred (R313-R316) -/

/-- R316: parks while the Loupe consumes the stream. -/
def execLpred (d a : Reg) (t : BitVec 2) (s : State) : Host.Outcome State Fault Refusal :=
  issue { reads := [.x a], writes := [.x d], st := t } noEarly
    (fun s =>
      match s.cpu.loupe with
      | none => .trap s causeLease 0
      | some _ =>
        let b := (s.rx a).toNat
        if b = 0 ∨ 128 < b then .trap s causeIllstate (s.rx a)
        else match s.thr.cmds.find? (fun c => s.myLoupeCmd c && c.fault.isSome) with
          | some c => .trap s causeEngfault c.ticket
          | none => .wait (s.parkAs .lpred d 0 (s.rx a) b t).loupeConsume) s

/-- R313: byte i of the stream. -/
def streamByte (st : List Byte) (i : Nat) : Nat := (st.getD i 0).toNat

/-- R313: x[b][k]. -/
def loupeX (c : LoupeCfg) (nb : Nat) (st : List Byte) (b k : Nat) : Int :=
  signed 8 (streamByte st (k * (nb + c.rk / 4) + b))

/-- R313: the code of P[k][t]. -/
def loupeP (c : LoupeCfg) (nb : Nat) (st : List Byte) (k t : Nat) : Nat :=
  bitsOf (streamByte st (k * (nb + c.rk / 4) + nb + t / 4)) (2 * (t % 4)) 2

/-- R313: the code of Q[t][j]. -/
def loupeQ (c : LoupeCfg) (nb : Nat) (st : List Byte) (t j : Nat) : Nat :=
  bitsOf (streamByte st (c.dw * (nb + c.rk / 4) + (j / 64 * c.rk + t) * 16 + j % 64 / 4)) (2 * (j % 4)) 2

/-- R316: tinfo of the first reserved code in stream order. -/
def loupeBadCode (c : LoupeCfg) (nb : Nat) (st : List Byte) : Option Dword :=
  let inP := (List.range (c.dw * c.rk)).find? (fun e => loupeP c nb st (e / c.rk) (e % c.rk) == 2)
  match inP with
  | some e => some (BitVec.ofNat 64 (2 ^ 32 + e / c.rk * 2 ^ 16 + e % c.rk))
  | none =>
    let jOf (e : Nat) : Nat := e / (64 * c.rk) * 64 + e % 64
    let tOf (e : Nat) : Nat := e / 64 % c.rk
    match (List.range (c.nn * c.rk)).find? (fun e => loupeQ c nb st (tOf e) (jOf e) == 2) with
    | some e => some (BitVec.ofNat 64 (2 * 2 ^ 32 + tOf e * 2 ^ 16 + jOf e))
    | none => none

/-- The sum of f over the numbers below n. -/
def sumTo (f : Nat → Int) : Nat → Int
  | 0 => 0
  | n + 1 => sumTo f n + f n

/-- R314: y[b][t]. -/
def loupeY (c : LoupeCfg) (nb : Nat) (st : List Byte) (b t : Nat) : Int :=
  let h := sumTo (fun k => loupeX c nb st b k * (t2Value (loupeP c nb st k t)).getD 0) c.dw
  satS 8 (roundInt rne (h < 0) h.natAbs (2 ^ c.shift)).1

/-- R314: the requantised rows, one list of y for each token. -/
def loupeRows (c : LoupeCfg) (nb : Nat) (st : List Byte) : List (List Int) :=
  (List.range nb).map (fun b => (List.range c.rk).map (fun t => loupeY c nb st b t))

/-- R314: s[b][j] from a row of y. -/
def loupeScore (c : LoupeCfg) (nb : Nat) (st : List Byte) (y : List Int) (j : Nat) : Int :=
  sumTo (fun t => y.getD t 0 * (t2Value (loupeQ c nb st t j)).getD 0) c.rk

/-- R315: smax(j). -/
def loupeMax (c : LoupeCfg) (nb : Nat) (st : List Byte) (rows : List (List Int)) (j : Nat) : Int :=
  match rows.map (fun y => loupeScore c nb st y j) with
  | [] => 0
  | x :: r => r.foldl max x

/-- R315: the list of neuron j: 0 FETCH, 1 SAMPLE, 2 REST, none for SKIP. -/
def loupeClass (c : LoupeCfg) (m : Int) (j : Nat) : Option Nat :=
  if c.thhi ≤ m then some 0
  else if c.thlo ≤ m then
    (if (mix64 0 (c.sseed ^^^ BitVec.ofNat 64 j)).toNat % 2 ^ c.qexp = 0 then some 1 else some 2)
  else none

/-- R315: the classes of every neuron. -/
def loupeClasses (c : LoupeCfg) (nb : Nat) (st : List Byte) : List (Option Nat) :=
  let rows := loupeRows c nb st
  (List.range c.nn).map (fun j => loupeClass c (loupeMax c nb st rows j) j)

/-- R316: the neurons of list k, ascending. -/
def listOf (cl : List (Option Nat)) (k : Nat) : List Nat :=
  (cl.zipIdx).filterMap (fun p => if p.1 = some k then some p.2 else none)

/-- R46, R310, R316: writes a list: its full count, and its first CAP indices. -/
def State.putList (s : State) (c : LoupeCfg) (k : Nat) (l : List Nat) : Except Stop State :=
  match s.resolveLs .store (c.list k) (4 + 2 * c.cap k) 4 with
  | .error e => .error e
  | .ok t =>
    if s.sharedLocked t then .error (.trap causeSegv (c.list k))
    else s.lsStore t (leBytes 4 l.length ++ (l.take (c.cap k)).flatMap (leBytes 2))

/-- R319: adds contributions to the chunk's own counters. -/
def State.addLoupe (s : State) (l : List Nat) : State :=
  { s with cpu := { s.cpu with lcnt := s.cpu.lcnt.zipWith (· + ·) l } }

/-- R313, R316: the stream of the lpred is consumed; what it had taken beyond its own bytes goes back to the buffer. -/
def State.loupeAdvance (s : State) (l : LoupeBind) (n : Nat) (pred : Option (Nat × Nat × BitVec 3)) : State :=
  State.reap { s with cpu := { s.cpu with
    loupe := some { l with base := l.base + n, buf := l.taken.drop n ++ l.buf, taken := [], pred := pred } } }

/-- R29, R313: a parked lpred that raises a fault gives back what it has taken of the stream, and is parked no longer. -/
def State.loupeGiveUp (s : State) : State :=
  { s with cpu := { s.cpu with
    park := none, loupe := s.cpu.loupe.map (fun (l : LoupeBind) => { l with buf := l.taken ++ l.buf, taken := [] }) } }

/-- R316: writes the three lists. -/
def State.putLists (s : State) (c : LoupeCfg) (f a r : List Nat) : Except Stop State :=
  match s.putList c 0 f with
  | .error e => .error e
  | .ok s =>
    match s.putList c 1 a with
    | .error e => .error e
    | .ok s => s.putList c 2 r

/-- R29, R316: the results of a prediction; a fault, CMASK the last of them, leaves everything as it was, but for a FMTCODE, which
consumes the stream. -/
def State.loupeResult (s : State) (p : Park) (l : LoupeBind) (c : LoupeCfg) : State :=
  let n := c.need p.c
  match loupeBadCode c p.c l.taken with
  | some info =>
    let s := s.loupeAdvance l n l.pred
    State.raise { s with cpu := { s.cpu with park := none } } causeFmtcode info
  | none =>
    let cl := loupeClasses c p.c l.taken
    let f := listOf cl 0
    let a := listOf cl 1
    let r := listOf cl 2
    let ov := (decide (c.cap 0 < f.length)).toNat + 2 * (decide (c.cap 1 < a.length)).toNat + 4 * (decide (c.cap 2 < r.length)).toNat
    match s.putLists c f a r with
    | .error (.trap cause info) => s.loupeGiveUp.raise cause info
    | .error _ => s
    | .ok t =>
      match s.cmaskOf [.x p.d] with
      | some m => s.loupeGiveUp.raise causeCmask (BitVec.ofNat 64 m)
      | none =>
        let t := t.loupeAdvance l n (some (p.c, a.length, BitVec.ofNat 3 ov))
        (t.addLoupe [1, f.length, a.length + r.length, a.length, 0, 0, 0]).finishParked p.d (BitVec.ofNat 64 ov)

/-- R316: the parked lpred completes once its whole stream is present; a faulted command of the binding is an ENGFAULT at
it. -/
def execLpredCompletion (s : State) : Host.Outcome State Fault Refusal :=
  match s.cpu.park, s.cpu.loupe with
  | some p, some l =>
    if p.kind ≠ .lpred then noOccurrence s
    else match s.thr.cmds.find? (fun c => s.myLoupeCmd c && c.fault.isSome) with
      | some c => .next (s.loupeGiveUp.raise causeEngfault c.ticket)
      | none =>
        let c : LoupeCfg := { bytes := l.cfg }
        if l.taken.length < c.need p.c then noOccurrence s else .next (s.loupeResult p l c)
  | _, _ => noOccurrence s

/-! ## lproof and lstat (R318, R320) -/

/-- R318: whether an exact activation is active: its magnitude passes ACTEPS; a NaN counts as active. -/
def isActive (c : LoupeCfg) (v : Nat) : Bool :=
  let x := if c.yfmt = 0 then Val.ofInt (signed 8 v) 1 false else bf16.decode v
  let m := match x with
    | .fin _ n d => Val.fin false n d
    | .zero _ => .zero false
    | .inf _ => .inf false
    | .nan q => .nan q
  if m.isNan then true else Val.cmp (fp32.decode c.acteps) m == .lt

/-- R318: the token rows, or the fault of the lowest failing one; n rows of len bytes. -/
def State.proofRows (s : State) (ea : Dword) (stride z len : Nat) : Nat → Except Stop (List (List Byte))
  | 0 => .ok []
  | b + 1 =>
    match s.proofRows ea stride z len b with
    | .error e => .error e
    | .ok l =>
      if len = 0 then .ok (l ++ [[]])
      else match s.readRecord (ea + BitVec.ofNat 64 (b * stride)) len z with
        | .error e => .error e
        | .ok r => .ok (l ++ [r])

/-- R318: counts active neurons among the sampled rows and decides replay. -/
def execLproof (d a : Reg) (t : BitVec 2) (s : State) : Host.Outcome State Fault Refusal :=
  issue { reads := [.x a], writes := [.x d], st := t } noEarly
    (fun s =>
      match s.cpu.loupe with
      | none => .trap s causeLease 0
      | some l =>
        match l.pred with
        | none => .trap s causeIllstate (BitVec.allOnes 64)
        | some (nb, sc, ov) =>
          let c : LoupeCfg := { bytes := l.cfg }
          let z := if c.yfmt = 0 then 1 else 2
          let n := min sc (c.cap 1)
          if 1 < nb ∧ c.ystride < n * z then .trap s causeIllstate 36
          else match s.proofRows (s.rx a) c.ystride z (n * z) nb with
            | .error e => Res.ofStop s e
            | .ok rows =>
              let m := ((List.range n).filter (fun e => rows.any (fun r => isActive c (field r (e * z) z)))).length
              let rep := ov.getLsbD 1 || decide (c.ebound < m * 2 ^ c.qexp)
              let s := s.addLoupe [0, 0, 0, 0, m, 1, rep.toNat]
              .done (s.wx d (BitVec.ofNat 64 (min m 65535 * 65536 + rep.toNat))).advance) s

/-- R320: a counter as lstat reads it. -/
def State.loupeCounter (s : State) (k : Nat) : Dword :=
  s.thr.lcnt.toList.getD k 0 + BitVec.ofNat 64 (s.cpu.lcnt.getD k 0)

/-- R320: reads, and optionally clears, a calibration counter. -/
def execLstat (d a : Reg) (t : BitVec 2) (s : State) : Host.Outcome State Fault Refusal :=
  issue { held := true, reads := [.x a], writes := [.x d], st := t } noEarly
    (fun s =>
      let k := (s.rx a).toNat % 8
      if k = 7 then .trap s causeIllstate (s.rx a)
      else
        let v := s.loupeCounter k
        let u := if (s.rx a).getLsbD 3 then
            { s with
              thr := { s.thr with lcnt := s.thr.lcnt.setIfInBounds k 0 }
              cpu := { s.cpu with lcnt := s.cpu.lcnt.set k 0 } }
          else s
        .done (u.wx d v).advance) s

end Sys2Proof.Machine
end

