-- ==== Sys2Proof/Machine/Sync.lean ====
section
/-! DEFINITION. Fences, waiting on a word, groups and the hardware barrier (R132, R215-R222).
-/

namespace Sys2Proof.Machine

/-! ## Fences (R132, R215) -/

/-- R132: what a fence orders: BS is a release, BL an acquire, at its scope. -/
def State.fenced (s : State) (scope : Nat) (bl bs : Bool) : Except Stop State :=
  andThen (if bs then s.release scope else .ok s) (fun s => if bl then s.acquire scope else .ok s)

/-- R132: whether a copy command of the thread still has a group or its completion word to perform. -/
def State.copyBusy (s : State) : Bool := s.thr.cmds.any (fun c => c.committed && !c.done)

/-- R132, R215: orders the thread's accesses and engine commands at a scope. -/
def execFence (scope : BitVec 2) (bl bs e : BitVec 1) (s : State) : Host.Outcome State Fault Refusal :=
  issue { held := true, again := some .fence } noEarly
    (fun s =>
      match (if e = 1 then oldestFault s.thr.cmds (fun _ => true) else none) with
      | some c => .trap s causeEngfault c.ticket
      | none =>
        if (e = 1 ∧ s.copyBusy) ∨ (bs = 1 ∧ s.thr.unacked ≠ 0) then .wait (s.parkAs .fence 0 0 0 e.toNat)
        else Res.after s (s.fenced scope.toNat (bl == 1) (bs == 1)) State.advance) s

/-! ## waitw (R216, R217) -/

/-- R216: n of the size field. -/
def waitBytes (z : BitVec 1) : Nat := if z = 0 then 4 else 8

/-- R216: whether the condition holds of the word and of X[B]. -/
def waitMet (c v b : Nat) : Bool :=
  match c with
  | 0 => v == b
  | 1 => v != b
  | 2 => decide (v < b)
  | _ => decide (b ≤ v)

/-- R217: where the word is read: a TRK page of this package through the ring's cache, with the line joined in S, but never from an
orphaned L1 line; any other at its home. -/
def State.waitAt (s : State) (va : Nat) (m : Mapped) (n : Nat) : Except Stop (List Byte × State) :=
  match m.coh, s.place m.pa with
  | .trk, .hbm _ => s.cachedRead s.engineWho va m n
  | _, _ => s.homeRead m.pa n

/-- R100, R217: where a piece of the word lies: a TRK line that the ring's cache holds needs no translation. -/
def State.waitReach (s : State) (va : Nat) : Except Stop (Mapped × State) :=
  match s.lineHit s.who s.smode (!s.isHead) .load va with
  | some m =>
    match m.coh, s.place m.pa with
    | .trk, .hbm _ => s.reach .gather .load va
    | _, _ => s.trans .gather .load va
  | none => s.trans .gather .load va

/-- R217: the pieces of the word, each where it is current for its page's attribute. -/
def State.waitPieces (s : State) : List (Nat × Nat) → Except Stop (List Byte × State)
  | [] => .ok ([], s)
  | (va, n) :: r =>
    match s.waitReach va with
    | .error e => .error e
    | .ok (m, s) =>
      match s.waitAt va m n with
      | .error e => .error (respond m.page .load va e)
      | .ok (bs, s) =>
        match ((s.noteLoaded va n m).squashOutdated va bs).waitPieces r with
        | .error e => .error e
        | .ok (more, s) => .ok (bs ++ more, s)

/-- R217: reads the word where it is current for the page's attribute. -/
def State.waitRead (s : State) (ea : Dword) (n : Nat) : Except Stop (Nat × State) :=
  match s.resolve .load ea n n with
  | .error e => .error e
  | .ok (.global va) =>
    match s.waitPieces (pieces 2 va n) with
    | .error e => .error e
    | .ok (bs, s) => .ok (leNat (s.seen va bs), s)
  | .ok t => .ok (leNat (s.lsSeen t n), s)

/-- How one read of a waitw ends. -/
inductive WaitEnd where
  | met (s : State)
  | late (s : State)
  | more (s : State)
  | stop (e : Stop)

/-- R216: one turn of the loop: success is an acquire at scope SYS. -/
def State.waitTurn (s : State) (ea b : Dword) (c n : Nat) : WaitEnd :=
  match s.waitRead ea n with
  | .error .wait => .more s
  | .error (.queue q) => .more (s.queueUp q)
  | .error e => .stop e
  | .ok (v, t) =>
    if waitMet c v (b.toNat % 2 ^ (8 * n)) then
      match t.acquire 3 with
      | .ok t => .met t
      | .error .wait => .more s
      | .error (.queue q) => .more (s.queueUp q)
      | .error e => .stop e
    else if t.limitPassed t.thr.wtime then .late t
    else .more t

/-- R216: parks the head until a memory word meets a condition or the limit passes. -/
def execWaitw (d a b : Reg) (c : BitVec 2) (z : BitVec 1) (s : State) : Host.Outcome State Fault Refusal :=
  issue { held := true, reads := [.x a, .x b], writes := [.x d] } noEarly
    (fun s =>
      match s.waitTurn (s.rx a) (s.rx b) c.toNat (waitBytes z) with
      | .met t => .done (t.wx d 0).advance
      | .late t => .done (t.wx d 1).advance
      | .more t => .wait (t.parkAs .waitw d (s.rx a) (s.rx b) (c.toNat * 16 + waitBytes z))
      | .stop e => Res.ofStop s e) s

/-- R217: the parked waitw reads its word again. -/
def State.waitAgain (s : State) (p : Park) : State :=
  match s.waitTurn p.a p.b (p.c / 16) (p.c % 16) with
  | .met t => (s.parkedCmask p.d).getD (t.finishParked p.d 0)
  | .late t => (s.parkedCmask p.d).getD (t.finishParked p.d 1)
  | .more t => t
  | .stop (.memerr pa) => s.memoryError pa
  | .stop e =>
    match Res.ofStop { s with cpu := { s.cpu with park := none } } e with
    | .trap t c i => t.raise c i
    | _ => s

/-- R217: a parked waitw re-reads its word. -/
def execWaitwReread (s : State) : Host.Outcome State Fault Refusal :=
  match s.cpu.park with
  | some p => if p.kind = .waitw then .next (s.present.waitAgain p) else noOccurrence s
  | none => noOccurrence s

/-- R216: a parked waitw reaches its limit: a last read decides, success first. -/
def execWaitwTimeout (s : State) : Host.Outcome State Fault Refusal :=
  match s.cpu.park with
  | some p => if p.kind = .waitw ∧ s.limitPassed s.thr.wtime then .next (s.present.waitAgain p) else noOccurrence s
  | none => noOccurrence s

/-! ## Groups (R219-R222) -/

/-- The thread as a member of groups. -/
def State.member (s : State) : Nat × Nat := (s.thr.lid, s.thr.tix)

/-- R220: joins a group. -/
def execGjoin (d a : Reg) (s : State) : Host.Outcome State Fault Refusal :=
  issue { held := true, reads := [.x a], writes := [.x d] } noEarly
    (fun s =>
      let id := (s.rx a).toNat
      let st := groupJoinStatus s.host.groups id s.thr.asid s.member
      let t := if st = 0 then { s with host := { s.host with groups := groupJoin s.host.groups id s.thr.asid s.member } } else s
      .done (t.wx d (BitVec.ofNat 64 st)).advance) s

/-- R220, R221: whether a thread is a member of a group. -/
def isMember (l : List Group) (id : Nat) (m : Nat × Nat) : Bool :=
  match groupFind l id with
  | some g => g.members.contains m
  | none => false

/-- R220: leaves a group. -/
def execGleave (d a : Reg) (s : State) : Host.Outcome State Fault Refusal :=
  issue { held := true, reads := [.x a], writes := [.x d] } noEarly
    (fun s =>
      let id := (s.rx a).toNat
      if 64 ≤ id then .done (s.wx d 2).advance
      else if !isMember s.host.groups id s.member then .done (s.wx d 1).advance
      else .done (State.advance (State.wx { s with host := { s.host with groups := groupLeave s.cyc s.host.groups id s.member } } d 0))) s

/-- R221: arrival, with the last cycle of the limit if there is one; the last arrival completes the instance. -/
def groupArrive (cyc : Nat) (l : List Group) (id : Nat) (m : Nat × Nat) (limit : Option Nat) : List Group :=
  l.map (fun (g : Group) =>
    if g.id = id then
      Group.settle cyc
        { g with arrived := addNew m g.arrived, limits := g.limits.filter (fun x => x.1 != m) ++ (limit.map (fun n => (m, n))).toList }
    else g)

/-- R221, R222: withdrawal from the arrived set. -/
def groupWithdraw (l : List Group) (id : Nat) (m : Nat × Nat) : List Group :=
  l.map (fun (g : Group) => if g.id = id then { g with arrived := g.arrived.filter (fun x => x != m) } else g)

/-- R221: whether a member's instance has completed and its gbar has still to return. -/
def groupReleased (l : List Group) (id : Nat) (m : Nat × Nat) : Bool :=
  match groupFind l id with
  | some g => g.release.contains m
  | none => false

/-- R221: a member's gbar returns. -/
def groupReturn (l : List Group) (id : Nat) (m : Nat × Nat) : List Group :=
  (l.map (fun (g : Group) => if g.id = id then { g with release := g.release.filter (fun x => x != m) } else g)).filter
    (fun g => !(g.members.isEmpty && g.release.isEmpty))

/-- R221: the last cycle of the limit X[B], none for no limit. -/
def State.gbarLimit (s : State) (lim : Dword) : Option Nat := if lim = 0 then none else some (s.cyc + lim.toNat)

/-- R221: arrives at a group barrier, a release at scope PKG, and waits. An X[D] outside the create mask, which every outcome
writes, is a CMASK before the arrival (R29, log entry 17). -/
def execGbar (d a b : Reg) (s : State) : Host.Outcome State Fault Refusal :=
  issue { held := true, reads := [.x a, .x b], writes := [.x d] } noEarly
    (fun s =>
      let id := (s.rx a).toNat
      if 64 ≤ id ∨ !isMember s.host.groups id s.member then .done (s.wx d 2).advance
      else match s.cmaskOf [.x d] with
        | some r => .trap s causeCmask (BitVec.ofNat 64 r)
        | none =>
          match s.release 2 with
          | .error e => Res.ofStop s e
          | .ok t =>
            let gs := groupArrive t.cyc t.host.groups id s.member (s.gbarLimit (s.rx b))
            .wait (State.parkAs { t with host := { t.host with groups := gs } } .gbar d (s.rx a) (s.rx b) id)) s

/-- R221: the gbar parked in the focused slot returns, an acquire at scope PKG having been performed. -/
def State.gbarEnd (s : State) (p : Park) (groups : List Group) (v : Dword) : State :=
  match State.acquire { s with host := { s.host with groups := groups } } 2 with
  | .error e => s.orStop e
  | .ok t => t.finishParked p.d v

/-- R221: the parked gbar of the focused thread returns 0 once its instance has completed. -/
def State.gbarReturn (s : State) (p : Park) : State := s.gbarEnd p (groupReturn s.host.groups p.c s.member) 0

/-- R221: the return of a completed gbar. -/
def execGbarComplete (group : Nat) (s : State) : Host.Outcome State Fault Refusal :=
  match s.cpu.park with
  | some p =>
    if p.kind = .gbar ∧ p.c = group ∧ groupReleased s.host.groups group s.member then .next (s.gbarReturn p)
    else noOccurrence s
  | none => noOccurrence s

/-- R221: a parked gbar whose instance has not completed times out: withdrawn, X[D] := 1, and the acquire of R138. -/
def execGbarTimeout (s : State) : Host.Outcome State Fault Refusal :=
  match s.cpu.park with
  | some p =>
    if p.kind = .gbar ∧ !groupReleased s.host.groups p.c s.member ∧ s.limitPassed p.b then
      .next (s.gbarEnd p (groupWithdraw s.host.groups p.c s.member) 1)
    else noOccurrence s
  | none => noOccurrence s

end Sys2Proof.Machine
end

