-- ==== Sys2Proof/Machine/System.lean ====
section
/-! DEFINITION. System instructions of major 0x3E: status registers (R149-R151, R336), calls and returns (R337, R338),
segment registers (R339), pflush (R340), idle (R342), ssync (R344); and interrupts (R329-R331).
-/

namespace Sys2Proof.Machine

/-! ## Pending interrupts (R329) -/

/-- R329: TIMER: tmcmp is not 0 and cyc has reached it. -/
def State.timerPend (s : State) : Bool := s.thr.tmcmp != 0 && decide (s.thr.tmcmp.toNat ≤ s.cyc)

/-- R329: the ipend register. -/
def State.ipend (s : State) : Dword :=
  BitVec.ofNat 64 (s.timerPend.toNat + 2 * (decide (s.messageBits s.thr ≠ 0)).toNat + 4 * s.thr.hostirq.isSome.toNat)

/-! ## Status registers (R149-R151) -/

/-- R149: the assigned numbers. -/
def sregKnown (n : Nat) : Bool :=
  n ≤ 0x016 || n == 0x018 || n == 0x019 || n == 0x01A || (0x020 ≤ n && n ≤ 0x027) || n == 0x030 || n == 0x031 || n == 0x040
    || (0x050 ≤ n && n ≤ 0x056)

/-- R149: the registers marked S as a whole. -/
def sregS (n : Nat) : Bool :=
  (0x001 ≤ n && n ≤ 0x006) || n == 0x015 || n == 0x016 || n == 0x019 || n == 0x01A || n == 0x030 || n == 0x031

/-- R149: the registers that are RO in a mode. -/
def sregRo (n : Nat) (smode : Bool) : Bool :=
  (!smode && (n == 0x008 || n == 0x00F)) || (0x010 ≤ n && n ≤ 0x014) || n == 0x016 || n == 0x018 || (0x020 ≤ n && n ≤ 0x027)
    || n == 0x040 || 0x050 ≤ n

/-- R150: MODE, IE and DET of stat. -/
def statS : Dword := 0xB

/-- R151: the checks of an access to register n, with the value to write, if it writes. -/
def sregCheck (n : Nat) (v : Option Dword) (s : State) : Option (Byte × Dword) :=
  if !sregKnown n then some (causeIllop, s.irInfo)
  else if sregS n && !s.smode then some (causePriv, s.irInfo)
  else match v with
    | none => none
    | some w =>
      if sregRo n s.smode then some (causeIllop, s.irInfo)
      else if n = 0 ∧ !s.smode ∧ (w ^^^ s.cpu.stat) &&& statS ≠ 0#64 then some (causePriv, s.irInfo)
      else none

/-- R336: the value of a status register. -/
def State.readSreg (s : State) (n : Nat) : Dword :=
  match n with
  | 0x000 => s.cpu.stat
  | 0x001 => s.thr.tsave
  | 0x002 => s.thr.tloc
  | 0x003 => s.thr.tcause
  | 0x004 => s.thr.tinfo
  | 0x005 => s.thr.tvec
  | 0x006 => s.thr.tscr
  | 0x007 => s.readFlags.setWidth 64
  | 0x008 => s.cpu.vl.setWidth 64
  | 0x009 => s.cpu.vstart.setWidth 64
  | 0x00A => s.cpu.seed
  | 0x00B => s.cpu.sbase
  | 0x00C => s.cpu.fxs.setWidth 64
  | 0x00D => s.thr.wtime
  | 0x00E => s.cpu.rptst
  | 0x00F => s.cpu.vew.setWidth 64
  | 0x010 => BitVec.ofNat 64 s.ring
  | 0x011 => s.plat.pkid.setWidth 64
  | 0x012 => BitVec.ofNat 64 s.thr.lid
  | 0x013 => BitVec.ofNat 64 s.thr.tix
  | 0x014 => BitVec.ofNat 64 s.cyc
  | 0x015 => s.thr.tmcmp
  | 0x016 => s.ipend
  | 0x018 => Config.netcap
  | 0x019 => s.thr.asid.setWidth 64
  | 0x01A => s.thr.pgroot
  | 0x030 => s.thr.mbase
  | 0x031 => s.thr.parkr
  | 0x040 => s.pwrgrant
  | n =>
    if 0x020 ≤ n ∧ n ≤ 0x027 then BitVec.ofNat 64 (barrierCount s.thr.cmds (n - 0x020))
    else if 0x050 ≤ n ∧ n ≤ 0x056 then s.thr.spec.toList.getD (n - 0x050) 0
    else 0

/-- R335: fetch may go on using what a register held before a change of it. -/
def State.keepFetch (s : State) (f : FetchOld → FetchOld) : State := { s with thr := { s.thr with fetchOld := f s.thr.fetchOld } }

/-- R150: the fields of stat; the bits of Z fields are ignored. -/
def State.writeStat (s : State) (v : Dword) : State := { s with cpu := { s.cpu with stat := v &&& 0x77F } }

/-- R79: the thread's flags are set and the head's own accumulation is cleared. -/
def State.writeFlags (s : State) (v : Dword) : State :=
  { s with thr := { s.thr with fflags := v.setWidth 7 }, cpu := { s.cpu with fflags := 0 } }

/-- R323, R336: tmcmp; TIMER follows at once, since it is a level. -/
def State.writeTmcmp (s : State) (v : Dword) : State := { s with thr := { s.thr with tmcmp := v } }

/-- R223: mbase: EN = 1 binds the endpoint. -/
def State.writeMbase (s : State) (v : Dword) : State :=
  let v := v &&& (bitMask 63 63 ||| bitMask 0 56)
  let s := if mbaseEn v then s.bindEndpoint s.thr v else s.releaseEndpoint s.thr.lid s.thr.tix
  { s with thr := { s.thr with mbase := v } }

/-- R91, R335: asid. -/
def State.writeAsid (s : State) (v : Dword) : State :=
  let s := s.keepFetch (fun f => { f with asid := addNew s.thr.asid f.asid })
  { s with thr := { s.thr with asid := v.setWidth 12 } }

/-- R91, R335: pgroot. -/
def State.writePgroot (s : State) (v : Dword) : State :=
  let s := s.keepFetch (fun f => { f with root := addNew s.thr.pgroot f.root })
  { s with thr := { s.thr with pgroot := v &&& bitMask 16 51 } }

/-- R336: register n := v, with its special effects; the bits of Z fields are ignored. -/
def State.writeSreg (s : State) (n : Nat) (v : Dword) : State :=
  match n with
  | 0x000 => s.writeStat v
  | 0x001 => { s with thr := { s.thr with tsave := v } }
  | 0x002 => { s with thr := { s.thr with tloc := v } }
  | 0x003 => { s with thr := { s.thr with tcause := v &&& bitMask 0 7 } }
  | 0x004 => { s with thr := { s.thr with tinfo := v } }
  | 0x005 => { s with thr := { s.thr with tvec := v &&& bitMask 2 63 } }
  | 0x006 => { s with thr := { s.thr with tscr := v } }
  | 0x007 => s.writeFlags v
  | 0x008 => { s with cpu := { s.cpu with vl := v.setWidth 10 } }
  | 0x009 => { s with cpu := { s.cpu with vstart := v.setWidth 10 } }
  | 0x00A => { s with cpu := { s.cpu with seed := v } }
  | 0x00B => { s with cpu := { s.cpu with sbase := v } }
  | 0x00C => { s with cpu := { s.cpu with fxs := v.setWidth 8 } }
  | 0x00D => { s with thr := { s.thr with wtime := v } }
  | 0x00E => { s with cpu := { s.cpu with rptst := v &&& bitMask 4 16 } }
  | 0x00F => { s with cpu := { s.cpu with vew := v.setWidth 2 } }
  | 0x015 => s.writeTmcmp v
  | 0x019 => s.writeAsid v
  | 0x01A => s.writePgroot v
  | 0x030 => s.writeMbase v
  | 0x031 => { s with thr := { s.thr with parkr := v &&& (bitMask 63 63 ||| bitMask 6 56) } }
  | _ => s

/-- R29: the members of every create mask among the status registers, which younger chunks do not copy. -/
def sregFixed (n : Nat) : Bool := n == 0x008 || n == 0x009 || n == 0x00A || n == 0x00B || n == 0x00C || n == 0x00F

/-- R42, R79, R91: whether a write of register n squashes the younger chunks: fflags, asid and pgroot always, another that
they copied at creation when it changes; of stat, FRM and VRM are members of every create mask. -/
def State.sregSquashes (s : State) (n : Nat) (v : Dword) : Bool :=
  let t := s.writeSreg n v
  if n = 0x007 ∨ n = 0x019 ∨ n = 0x01A then true
  else if sregFixed n then false
  else if n = 0 then (t.cpu.stat ^^^ s.cpu.stat) &&& (bitMask 0 3) != 0#64
  else t.readSreg n != s.readSreg n

/-- R42, R336: writes a status register; younger chunks are squashed before it acts. -/
def State.setSreg (s : State) (n : Nat) (v : Dword) : State :=
  (if s.sregSquashes n v then s.squashYounger else s).writeSreg n v

/-- The member of a create mask that a status register is, for what a region remembers of writes (R30). -/
def sregWrites (n : Nat) : List RegName :=
  match n with
  | 0x000 => [.frm, .vrm]
  | 0x008 => [.vl]
  | 0x009 => [.vstart]
  | 0x00A => [.seed]
  | 0x00B => [.sbase]
  | 0x00C => [.fxs]
  | 0x00F => [.vew]
  | _ => []

/-- R336: X[D] := the register. -/
def execSregR (d : Reg) (n : BitVec 10) (s : State) : Host.Outcome State Fault Refusal :=
  issue { held := true, writes := [.x d] } (sregCheck n.toNat none)
    (fun s => .done (s.wx d (s.readSreg n.toNat)).advance) s

/-- R336: the register := X[A]. -/
def execSregW (a : Reg) (n : BitVec 10) (s : State) : Host.Outcome State Fault Refusal :=
  issue { held := true, reads := [.x a], writes := sregWrites n.toNat } (fun s => sregCheck n.toNat (some (s.rx a)) s)
    (fun s => .done (s.setSreg n.toNat (s.rx a)).advance) s

/-- R336: exchanges X[A] and the register, the old value going to X[D]. -/
def execSregX (d a : Reg) (n : BitVec 10) (s : State) : Host.Outcome State Fault Refusal :=
  issue { held := true, reads := [.x a], writes := .x d :: sregWrites n.toNat } (fun s => sregCheck n.toNat (some (s.rx a)) s)
    (fun s => .done ((s.setSreg n.toNat (s.rx a)).wx d (s.readSreg n.toNat)).advance) s

/-- The write that an sreg.w or sreg.x of the head makes to register n, as a step of its own: the checks of R151, then the
effect. -/
def registerStep (n : Nat) (v : Dword) (s : State) : Host.Outcome State Fault Refusal :=
  if s.notReady none || !s.isHead then noOccurrence s
  else match sregCheck n (some v) s with
    | some (c, i) => .next (s.raise c i)
    | none => .next (s.setSreg n v)

/-- R150: a write of stat. -/
def execStatWrite (v : BitVec 64) (s : State) : Host.Outcome State Fault Refusal := registerStep 0x000 v s

/-- R79: a write of fflags. -/
def execFflagsWrite (v : BitVec 64) (s : State) : Host.Outcome State Fault Refusal := registerStep 0x007 v s

/-- R336: a write of tmcmp. -/
def execTmcmpWrite (v : BitVec 64) (s : State) : Host.Outcome State Fault Refusal := registerStep 0x015 v s

/-- R223: a write of mbase. -/
def execMbaseWrite (v : BitVec 64) (s : State) : Host.Outcome State Fault Refusal := registerStep 0x030 v s

/-- R91: a write of asid. -/
def execAsidWrite (v : BitVec 64) (s : State) : Host.Outcome State Fault Refusal := registerStep 0x019 v s

/-- R91: a write of pgroot. -/
def execPgrootWrite (v : BitVec 64) (s : State) : Host.Outcome State Fault Refusal := registerStep 0x01A v s

/-! ## Calls, breakpoints and returns (R337, R338) -/

/-- R337: a trap whose location is the next instruction. -/
def callTrap (cause : Byte) (n : BitVec 10) (s : State) : Host.Outcome State Fault Refusal :=
  issue { held := true } noEarly
    (fun s => .done (s.raiseAt cause (s.cpu.pc + 4) (n.setWidth 64))) s

/-- R337: SCALL with a call code. -/
def execScall (n : BitVec 10) (s : State) : Host.Outcome State Fault Refusal := callTrap causeScall n s

/-- R337: BRK with a break code. -/
def execBrk (n : BitVec 10) (s : State) : Host.Outcome State Fault Refusal := callTrap causeBrk n s

/-- R338, R158: tret in U mode is ILLOP. -/
def tretEarly (s : State) : Option (Byte × Dword) := if s.smode then none else some (causeIllop, s.irInfo)

/-- R338: returns from a handler. -/
def execTret (s : State) : Host.Outcome State Fault Refusal :=
  issue { held := true, writes := [.frm, .vrm] } tretEarly
    (fun s =>
      if s.thr.tsave &&& (bitMask 11 63 ||| bitMask 7 7) ≠ 0#64 then .trap s causeIllstate s.thr.tsave
      else if s.thr.tloc &&& 3#64 ≠ 0#64 then .trap s causeIllstate s.thr.tloc
      else .done (trapReturn s)) s

/-- R157: a word that the decoder rejects. -/
def execIllop (w : BitVec 32) (s : State) : Host.Outcome State Fault Refusal :=
  if s.notReady none then .next s else .next (s.raise causeIllop (w.setWidth 64))

/-! ## Segment registers (R339) -/

/-- R335, R339: sgN := the two words; fetch may go on with the old one when pc selects it. -/
def State.setSegment (s : State) (n : BitVec 3) (v : Dword × Dword) : State :=
  let s :=
    if bitsOf s.cpu.pc.toNat 61 3 = n.toNat then s.keepFetch (fun f => { f with sg := addNew (n, s.thr.sg.get n.toFin) f.sg }) else s
  { s with thr := { s.thr with sg := s.thr.sg.set n.toFin.val v n.toFin.isLt } }

/-- R339: loads a segment register by two accesses of 8 bytes; younger chunks are squashed when it changes (R42). -/
def execSgld (n : BitVec 3) (a : Reg) (s : State) : Host.Outcome State Fault Refusal :=
  issue { held := true, reads := [.x a] } needS
    (fun s => match s.load .gather (s.rx a) 8 16 with
      | .error e => Res.ofStop s e
      | .ok (b0, t) =>
        match t.load .gather (s.rx a + 8) 8 8 with
        | .error e => Res.ofStop s e
        | .ok (b1, t) =>
          let v := (field64 b0 0, field64 b1 0)
          let t := if t.thr.sg.get n.toFin != v then t.squashYounger else t
          .done (t.setSegment n v).advance) s

/-- R339: stores a segment register by two accesses of 8 bytes; a fault of the second leaves the first undone (R44). -/
def execSgst (n : BitVec 3) (a : Reg) (s : State) : Host.Outcome State Fault Refusal :=
  issue { held := true, reads := [.x a] } needS
    (fun s =>
      let d := s.thr.sg.get n.toFin
      Res.after s
        (andThen (s.store .gather (s.rx a) (leBytes 8 d.1.toNat) 16) (fun t => t.store .gather (s.rx a + 8) (leBytes 8 d.2.toNat) 8))
        State.advance) s

/-! ## pflush, idle and ssync -/

/-- R340: performs a shootdown and parks until every die has acknowledged it. -/
def execPflush (a : Reg) (s : State) : Host.Outcome State Fault Refusal :=
  issue { held := true, reads := [.x a] } needS
    (fun s => .wait (State.parkAs { s with coh := { s.coh with shoots := s.coh.shoots ++ [shootOf s.ring s.tick (s.rx a)] } } .pflush 0 0 0 s.tick)) s

/-- R342: parks until an interrupt is pending. -/
def execIdle (d : Reg) (s : State) : Host.Outcome State Fault Refusal :=
  issue { held := true, writes := [.x d], again := some .idle } needS
    (fun s => if s.ipend = 0 then .wait (s.parkAs .idle d 0 0 0) else .done (s.wx d s.ipend).advance) s

/-- R329, R342: time passes until cyc reaches tmcmp; a parked idle completes. -/
def execTimerPending (s : State) : Host.Outcome State Fault Refusal :=
  if !s.live || s.thr.tmcmp = 0 then noOccurrence s
  else
    let s := { s with cyc := max s.cyc s.thr.tmcmp.toNat }
    match s.cpu.park with
    | some p => .next (if p.kind = .idle then s.finishParked p.d s.ipend else s)
    | none => .next s

/-- R335, R344: waits for earlier instructions and stores, then fetch uses the current address space. -/
def execSsync (s : State) : Host.Outcome State Fault Refusal :=
  issue { held := true } noEarly
    (fun s =>
      if s.thr.unacked ≠ 0 ∨ !s.cpu.flight.isEmpty then .wait s
      else .done (State.advance { s with thr := { s.thr with fetchOld := FetchOld.empty } })) s

/-! ## Interrupt entry (R328-R331) -/

/-- R328: the interrupt that an entry takes: HOSTIRQ, then TIMER, then MSGIRQ. -/
def State.interruptCause (s : State) : Option (Byte × Dword) :=
  match s.thr.hostirq with
  | some v => some (causeHostirq, v)
  | none =>
    if s.timerPend then some (causeTimer, BitVec.ofNat 64 s.cyc)
    else if s.messageBits s.thr ≠ 0 then some (causeMsgirq, BitVec.ofNat 64 (s.messageBits s.thr))
    else none

/-- R329, R330: entry on an interrupt: HOSTIRQ is cleared by its entry. -/
def State.enterInterrupt (s : State) (c : Byte × Dword) : State :=
  let s := s.saveFrame
  let s := if c.1 = causeHostirq then { s with thr := { s.thr with hostirq := none } } else s
  takeTrap { cause := c.1, loc := s.cpu.pc, info := c.2 } s

/-- R331: the head as an interrupt finds it: none where the interrupt waits, else the state at the boundary where it is
taken. A load, store or atomic whose request waits completes first; a gbar whose instance has completed returns first (R222); a parked
idle completes, and its chunk may end there. -/
def State.atBoundary (s : State) : Option State :=
  if !s.live || !s.isHead || s.cpu.ended || s.cpu.squashed || (s.cpu.park.isNone && !s.cpu.held.isEmpty && !s.cpu.fetching) then none
  else match s.cpu.park with
    | none => some s
    | some p =>
      let un := { s with cpu := { s.cpu with park := none } }
      match p.kind with
      | .idle => some ((s.finishParked p.d s.ipend).settle s.cpu.pc)
      | .gbar =>
        if groupReleased s.host.groups p.c s.member then none
        else some { un with host := { un.host with groups := groupWithdraw un.host.groups p.c s.member } }
      | .lpred => none
      | .menl => none
      | .pflush => none
      | .cflush => none
      | _ => some un

/-- R330, R331: a pending interrupt is taken at a head instruction boundary when stat.IE is set; the pre-emption that a yield has asked for
comes first (R328). -/
def execInterruptEntry (s : State) : Host.Outcome State Fault Refusal :=
  if !statIe s.cpu.stat || s.thr.leaving then noOccurrence s
  else match s.interruptCause, s.atBoundary with
    | some c, some t => .next (if statIe t.cpu.stat && !t.cpu.ended then t.enterInterrupt c else t)
    | _, _ => noOccurrence s

/-! ## Results that arrive (R16, R175) -/

/-- R175: the data of the oldest outstanding load or atomic is there. -/
def execLoadResultReturn (s : State) : Host.Outcome State Fault Refusal :=
  match takeFirst (fun (f : Flight) => f.kind == .memory) s.cpu.flight.reverse with
  | none => noOccurrence s
  | some (_, rest) => .next { s with cpu := { s.cpu with flight := rest.reverse } }

/-- R175: the result of a divide, remainder, fdiv or fsqrt is there and its slot is free. -/
def execLongOpResult (s : State) : Host.Outcome State Fault Refusal :=
  match takeFirst (fun (f : Flight) => f.kind == .long) s.cpu.flight.reverse with
  | none => noOccurrence s
  | some (_, rest) => .next { s with cpu := { s.cpu with flight := rest.reverse } }

end Sys2Proof.Machine
end

