-- ==== Sys2Proof/Machine/Save.lean ====
section
/-! DEFINITION. Saving a thread and giving it a ring again (R345-R353): the save block, the pre-emption sequence and
resumption; and the write-back of host lines that goes with it (R379).
-/

namespace Sys2Proof.Machine

/-! ## Host lines (R378, R379) -/

/-- R379: the host lines of the rings that p selects are written back and invalidated, in ring caches and L1s. -/
def State.flushHost (s : State) (p : Nat → Bool) : State :=
  let lines := (s.coh.dir.map (fun d => d.line)).filter hostLine
  let t := lines.foldl (fun s line => s.dropFrom line (fun m => p m.ring)) s
  let t := t.sivPut false (fun l => hostLine l.line && p l.ring)
  let gone (l : L1Line) : Bool := p l.ring && hostLine ((l.page.mapped (64 * l.va)).pa / 64)
  { t with coh := { t.coh with l1 := t.coh.l1.filter (fun l => !gone l) } }

/-! ## The save block (R348, R349) -/

/-- n zero bytes: a Z field. -/
def zeros (n : Nat) : List Byte := List.replicate n 0

/-- A record padded with zeros to n bytes. -/
def padTo (n : Nat) (l : List Byte) : List Byte := l ++ zeros (n - l.length)

/-- R348: RDESC. -/
def State.regionImage (s : State) : List Byte :=
  match s.thr.region with
  | none => zeros 64
  | some g =>
    leBytes 8 (match g.kind with | .loop => 1 | .cut => 2) ++ leBytes 8 g.first.toNat ++ leBytes 8 g.last.toNat
      ++ leBytes 8 g.mask.toNat ++ leBytes 4 g.grain ++ leBytes 4 s.cpu.left ++ leBytes 8 s.cpu.num ++ zeros 16

/-- R348: LCFG to LPOS. That LCNT holds the thread's counters (R319) also where FLAGS.LOUPE is 0 is the model's choice (log entry 104). -/
def State.loupeImage (s : State) : List Byte :=
  let counters := (List.range 7).flatMap (fun k => leBytes 8 (s.loupeCounter k).toNat)
  match s.cpu.loupe with
  | none => zeros 128 ++ counters ++ zeros 16
  | some l =>
    let pred := match l.pred with
      | some (b, sc, ov) => b % 2 ^ 8 + sc % 2 ^ 25 * 2 ^ 16 + ov.toNat * 2 ^ 48
      | none => 0
    padTo 128 l.cfg ++ counters ++ leBytes 8 pred ++ leBytes 8 l.base

/-- R348: FCTX to BSCALE. -/
def Bank.image (b : Bank) : List Byte :=
  padTo 128 (b.fmt.getD []) ++ leBytes 8 b.steps ++ leBytes 4 b.mstart ++ leBytes 2 b.arepleft ++ leBytes 2 b.tray.length
    ++ leBytes 8 b.readA ++ leBytes 8 b.amark ++ leBytes 8 b.readB ++ leBytes 8 b.blk ++ padTo 128 b.ascale ++ padTo 128 b.bscale

/-- R348: a status register as SREG holds it. -/
def State.sregImage (s : State) (n : Nat) : Nat :=
  if (0x010 ≤ n ∧ n ≤ 0x014) ∨ n = 0x018 ∨ n = 0x040 then 0
  else if n = 0x016 then 4 * s.thr.hostirq.isSome.toNat
  else (s.readSreg n).toNat

/-- R349: an entry of the command table. -/
def CopyCmd.image (c : CopyCmd) : List Byte :=
  leBytes 8 c.ticket.toNat ++ leBytes 1 c.fn ++ leBytes 1 (c.acq.toNat + 2 * c.rel.toNat + 4 * (c.scope % 4)) ++ leBytes 1 c.quad
    ++ leBytes 1 c.core ++ zeros 4 ++ leBytes 8 c.soff ++ zeros 40 ++ padTo 256 c.record

/-- R348: FLAGS. -/
def State.saveFlags (s : State) (halted : Bool) : Nat :=
  s.cpu.bank.isSome.toNat + 2 * s.cpu.loupe.isSome.toNat + 4 * s.thr.region.isSome.toNat
    + 8 * (s.thr.susp && s.thr.region.isSome).toNat + 16 * halted.toNat

/-- R348, R349: what a save writes, as pieces at offsets of the save block; a dead vector register is not written. -/
def State.saveImage (s : State) (halted : Bool) : List (Nat × List Byte) :=
  let bank := match s.cpu.bank with
    | some b => b.image
    | none => zeros 432
  let tray := match s.cpu.bank with
    | some b => b.tray.flatMap (fun t => leBytes 4 (spillEntry (s.cpu.core % 4) t.row t.col t.cnt))
    | none => []
  let cells := match s.cpu.bank with
    | some b => b.cells.flatMap (fun r => r.flatMap (fun c => leBytes 2 c.toNat))
    | none => []
  let live := (List.range 32).filter (fun n => !s.cpu.vdead.getLsbD n)
  [(0x0000, leBytes 4 1 ++ leBytes 4 (~~~s.cpu.vdead).toNat ++ leBytes 8 s.cpu.pc.toNat ++ leBytes 2 s.thr.cmds.length
      ++ leBytes 1 (s.saveFlags halted) ++ leBytes 1 s.thr.cores ++ leBytes 1 s.cpu.core ++ zeros 43),
   (0x0040, (List.range 31).flatMap (fun i => leBytes 8 (s.cpu.x.toList.getD (i + 1) 0).toNat) ++ zeros 8),
   (0x0140, s.cpu.k.toList.flatMap (fun k => leBytes 64 k.toNat)),
   (0x0340, (List.range 0x60).flatMap (fun n => leBytes 8 (s.sregImage n))),
   (0x0640, s.thr.sg.toList.flatMap (fun d => leBytes 8 d.1.toNat ++ leBytes 8 d.2.toNat)),
   (0x06C0, s.regionImage),
   (0x0700, s.loupeImage ++ zeros 56),
   (0x0800, bank ++ zeros 1616),
   (0x1000, padTo 8192 tray)]
  ++ live.map (fun n => (0x3000 + 512 * n, leBytes 512 (s.cpu.v.toList.getD n 0).toNat))
  ++ [(0x7000, padTo 32768 cells),
   (0xF000, zeros 4096),
   (0x1_0000, (List.range 98304).map s.cpu.lsByte),
   (0x2_8000, Memory.getBytes s.thr.shared 0x2_0000 131072),
   (0x4_8000, s.thr.cmds.flatMap CopyCmd.image)]

/-- R348: the physical address of a save block: 65,536-byte aligned, in the reserved region. -/
def blockAddr (block : Nat) : Nat := Config.rsvBase + block * 0x6_0000

/-- R368: the number of save blocks. -/
def saveBlocks : Nat := 40960

/-- R348, R368: a free save block, if there is one; which one is open (log entry 36). -/
def State.freeBlock (s : State) : Option Nat :=
  let used := s.saved.filterMap (fun v => v.block)
  if saveBlocks ≤ used.length then none
  else
    ((List.range saveBlocks).find? (fun i => !used.contains ((Config.saveBlock s.tick + i) % saveBlocks))).map
      (fun i => (Config.saveBlock s.tick + i) % saveBlocks)

/-- Whether a line of a save block belongs to a stack that does not serve now: the save, or the resumption, waits (R404). -/
def State.blockWaits (s : State) (block : Nat) : Bool :=
  (!s.plat.queued.isEmpty || s.plat.stk.toList.any (fun k => k.refresh || !k.training.isEmpty))
    && (List.range 5888).any (fun i => match s.deviceStop (blockAddr block + 64 * i) with
        | some (.queue _) => true
        | _ => false)

/-- The pieces of a save as writes of whole lines. -/
def saveLines (ps : List (Nat × List Byte)) : List (Nat × List Byte) :=
  ps.flatMap (fun p => (List.range (p.2.length / 64)).map (fun i => (p.1 + 64 * i, (p.2.drop (64 * i)).take 64)))

/-- R346: writes the pieces of a save at its block; an uncorrectable error is charged to the thread's address space (R405). -/
def State.writeSave (s : State) (block : Nat) (ps : List (Nat × List Byte)) : State :=
  (saveLines ps).foldl
    (fun t p => t.homePut (plainWrite (blockAddr block + p.1) p.2 (some s.thr.asid) (srcCode 1 s.thr.asid 0xFF))) s

/-- R403, R405: where reading a save block meets an uncorrectable error: a poisoned codeword, or a line of a stack whose self-refresh has
lasted too long. -/
def State.blockLost (s : State) (block : Nat) : Option Nat :=
  match s.plat.poison.find? (fun c => decide (blockAddr block ≤ 32 * c) && decide (32 * c < blockAddr block + 0x6_0000)) with
  | some c => some (32 * c)
  | none =>
    if s.plat.stk.toList.any (fun k => k.expired) then
      (List.range 5888).findSome? (fun i => match s.deviceStop (blockAddr block + 64 * i) with
        | some (.memerr a) => some a
        | _ => none)
    else none

/-! ## The pre-emption sequence (R346, R347) -/

/-- R222, R331, R346, R405: whether the head can be brought to an instruction boundary now: a pflush, cflush or cinv, an Enlarger
instruction that waits for a lease, and a gbar whose instance has completed complete first, and so does a request of the head or of one
of the thread's commands that waits in a controller's queue. -/
def State.canSave (s : State) : Bool :=
  s.live && s.isHead && !s.cpu.ended && !s.cpu.squashed && s.cpu.asked.isNone && (s.cpu.held.isEmpty || s.cpu.park.isSome)
    && s.thr.cmds.all (fun c => !c.committed || c.asked.isNone)
    && (match s.cpu.park with
        | none => true
        | some p => p.kind != .pflush && p.kind != .cflush && p.kind != .menl
            && !(p.kind == .gbar && groupReleased s.host.groups p.c s.member))

/-- R44, R210, R222, R331: the head at the boundary where a pre-emption takes it: a gbar is withdrawn, a recorded fault is taken,
and what else is parked is abandoned. -/
def State.toBoundary (s : State) : State :=
  let s := match s.cpu.park with
    | none => s
    | some p =>
      if p.kind = ParkKind.gbar then { s with host := { s.host with groups := groupWithdraw s.host.groups p.c s.member } } else s
  let s := { s with cpu := { s.cpu with park := none } }.saveFrame
  match s.cpu.trap with
  | some t => takeTrap t s
  | none => s

/-- R347, R349, R350, R353: an outstanding command as a save leaves it: it will be accepted again, whole, with no fault
record, in the k-th entry of its core. What it has performed it performs a second time (R387). -/
def CopyCmd.again (c : CopyCmd) (k : Nat) : CopyCmd :=
  { c with
    entry := 16 * (c.core % 4) + k % 16
    active := false, pos := 0, scaled := false, ahead := [], left := c.shape.pending c.fn, fault := none
    kept := 0, next := c.soff, bits := 0, part := 0, counted := [], asked := none, held := [], dirty := false, done := false
    once := if c.streams || c.pos = 0 then c.once else c.once ++ [(0, c.pos)] ++ c.ahead }

/-- R350: every command accepted again in table order. -/
def againAll (done : List CopyCmd) : List CopyCmd → List CopyCmd
  | [] => []
  | c :: r => c.again (done.filter (fun d => d.core == c.core)).length :: againAll (c :: done) r

/-- R347: every command as the save counts it, with its ticket as it was. -/
def savedCmds (l : List CopyCmd) : List CopyCmd := l.map (fun c => { c.again 0 with entry := c.entry })

/-- R350, R351: a bank with empty FIFOs, which begin at the kept points. -/
def Bank.kept (b : Bank) : Bank :=
  { b with fifoA := [], fifoB := [], baseA := if 0 < b.arepleft then b.amark else b.readA, baseB := b.readB, lease := none }

/-- R350, R351: a Loupe binding with an empty buffer. -/
def LoupeBind.kept (l : LoupeBind) : LoupeBind := { l with buf := [], taken := [] }

/-- R346: what is left of the thread once its engines have stopped and its stores have drained: its commands outstanding and whole,
no speculation, no buffered byte. Commands that a second performance shows not to be idempotent are a breach (R8, R387). What it has sent for its successor is handed over when that is created again (R28). -/
def State.settledDown (s : State) : State :=
  let s := if s.thr.cmds.any (fun c => c.dirty && (c.pos != 0 || !c.ahead.isEmpty)) then s.breach s.thr.asid else s
  { s with
    thr := { s.thr with
      cmds := savedCmds s.thr.cmds, leaving := false, snaps := [], preds := [], leases := [], unacked := 0, fetchOld := FetchOld.empty, freeing := [] }
    cpu := { s.cpu with
      bank := s.cpu.bank.map Bank.kept, loupe := s.cpu.loupe.map LoupeBind.kept, pend := [], flight := [], outbox := [], inbox := []
      asked := none, held := [], fetching := false, ver := [], stores := [], touches := [], loaded := false, reads := [], seen := [], loads := [], upds := [], pred := [], wait := [], used := [], made := [] } }

/-- R346: steps 1 to 4: younger chunks, boundary, quiet engines and drained stores, and the fence. -/
def State.quiesce (s : State) : Except Stop State :=
  match andThen (s.discardYounger.toBoundary.release 3) (fun t => t.acquire 3) with
  | .error e => .error e
  | .ok t => .ok t.settledDown

/-- R346: saves the focused thread at its head and releases its ring; it waits while no save block is free (R368) or one of the
stacks that it writes does not serve (R404). -/
def State.saveThread (s : State) (st : ThreadSt) : Except Stop State :=
  match s.freeBlock with
  | none => .error .wait
  | some b =>
    if s.blockWaits b then .error .wait
    else match s.quiesce with
    | .error e => .error e
    | .ok t =>
      let t := t.flushHost (fun r => r == t.ring)
      let t := t.writeSave b (t.saveImage (decide (st = ThreadSt.halted)))
      let v : Saved := { thr := { t.thr with st := st, lastRing := some t.ring }, head := t.cpu, block := some b }
      .ok (State.vacate { t with saved := t.saved ++ [v] })

/-! ## Resumption and first start (R350, R363) -/

/-- R232, R350, R363: gives a thread a ring that holds none: an acquire at scope SYS first, with the write-backs that the ring's
last thread has left; a first start has an undefined private window (R45). It waits while its save block cannot be read (R404). -/
def State.resumeOn (s : State) (v : Saved) (ring : Nat) : Option State :=
  if v.block.any s.blockWaits then none
  else
    let s := State.focus { s with saved := s.saved.filter (fun w => w != v) } ring 0
    let s := (s.dropOrphans ring).sivPut false (fun x => x.ring == ring)
    let head := if v.block.isSome then v.head else { v.head with lsTag := s.newTag 0 }
    some { s with
      live := true, older := [], younger := [], cpu := head
      thr := { v.thr with st := .running, cmds := againAll [] v.thr.cmds, slice := s.cyc } }

/-! ## halt and DOUBLE (R332, R343) -/

/-- R332, R343: the thread is saved with HALT and its launch is told. -/
def State.haltThread (s : State) (event : State → List Byte) : Except Stop State :=
  let t := s.thr
  match s.saveThread .halted with
  | .error e => .error e
  | .ok s =>
    let s := s.countEnd t.lid false true
    .ok ((s.post (event s)).launchSettle t.lid)

/-- R327: discards a suspended descriptor. -/
def State.dropSuspended (s : State) : State :=
  if s.thr.susp then { s with thr := { s.thr with region := none, susp := false } } else s

/-- R327, R343: stops the thread for inspection; a suspended descriptor is discarded. -/
def execHalt (a : Reg) (s : State) : Host.Outcome State Fault Refusal :=
  issue { held := true, reads := [.x a] } needS
    (fun s =>
      let (q, tag) := s.launchTag s.thr.lid
      match s.dropSuspended.advance.haltThread (fun u => eventRecord u 2 q s.thr.lid s.thr.tix ((s.rx a).toNat % 2 ^ 32) 0 0 0 tag) with
      | .ok t => .gone t
      | .error e => Res.ofStop s e) s

/-- R332: the fetch of a handler's first instruction failed: the thread halts with DOUBLE. -/
def State.doubleTrap (s : State) (at_ : Dword) : State :=
  let (q, tag) := s.launchTag s.thr.lid
  match s.haltThread (fun u => eventRecord u 3 q s.thr.lid s.thr.tix 0 s.thr.tloc s.thr.tcause at_ tag) with
  | .ok t => t
  | .error e => s.orStop e

end Sys2Proof.Machine
end

