-- ==== Sys2Proof/Machine/HostPort.lean ====
section
/-! DEFINITION. The host's side: the register aperture (R354, R355, R367), queues and completion records (R356, R357), host
accesses and snoops (R377-R380), and requests of peer packages (R198, R381).
-/

namespace Sys2Proof.Machine

/-! ## Queue blocks (R355) -/

/-- R355: a queue block after a start. -/
def Queue.blank (id : Nat) : Queue where
  id := id
  qbase := 0
  qctl := 0
  qtaila := 0
  qhead := 0
  qstat := 0
  qroot := 0
  qtvec := 0
  qsegs := 0
  held := none
  waits := []
  stalled := false

/-- The block of queue q. -/
def State.queue (s : State) (q : Nat) : Queue := (s.host.queues.find? (fun b => b.id == q)).getD (Queue.blank q)

/-- Replaces the block of a queue. -/
def State.setQueue (s : State) (b : Queue) : State :=
  { s with host := { s.host with queues := b :: s.host.queues.filter (fun x => x.id != b.id) } }

/-- R355: QCTL.EN. -/
def Queue.en (b : Queue) : Bool := b.qctl.getLsbD 63
/-- R355: QCTL.PRIVQ. -/
def Queue.priv (b : Queue) : Bool := b.qctl.getLsbD 62
/-- R355: QCTL.ASID. -/
def Queue.asid (b : Queue) : BitVec 12 := b.qctl.extractLsb' 32 12
/-- R355: QCTL.PMAX. -/
def Queue.pmax (b : Queue) : Nat := bitsOf b.qctl.toNat 16 4
/-- R355: QCTL.LSIZE. -/
def Queue.lsize (b : Queue) : Nat := bitsOf b.qctl.toNat 0 5
/-- R355: QSTAT.ERR. -/
def Queue.err (b : Queue) : Bool := b.qstat.getLsbD 63

/-! ## Commands and completions (R357) -/

/-- R357: OPC. -/
def cmdOpc (c : List Byte) : Nat := field c 0 1
/-- R357: FLAGS. -/
def cmdFlags (c : List Byte) : Nat := field c 1 1
/-- R357: ASID. -/
def cmdAsid (c : List Byte) : BitVec 12 := BitVec.ofNat 12 (field c 2 2)
/-- R357: TAG. -/
def cmdTag (c : List Byte) : Dword := field64 c 24
/-- R357: an n-byte payload field. -/
def cmdArg (c : List Byte) (off n : Nat) : Nat := field c (32 + off) n

/-- R357: CEN. -/
def cmdCen (c : List Byte) : Bool := (cmdFlags c).testBit 0
/-- R356: BAR. -/
def cmdBar (c : List Byte) : Bool := (cmdFlags c).testBit 1

/-- A write of whole bytes by Pronor at a physical address, which it does not wait for: the line's copies are purged (R105), and the
bytes come to their home once it serves (R400, R404). -/
def State.pronorPut (s : State) (asid : BitVec 12) (pa : Nat) (bs : List Byte) : State :=
  let s := if purging s.coh.dir (pa / 64) then s else s.purgeLine (pa / 64)
  s.homePut (plainWrite pa bs none (srcCode 1 asid 0xFF))

/-- R357, R407: the completion record: STATUS, then CVAL. One that gets an error response is dropped, and logged. -/
def State.complete (s : State) (c : List Byte) (code detail : Nat) : State :=
  let pa := field c 8 8
  if !cmdCen c || pa % 16 != 0 then s
  else
    let s := s.pronorPut (cmdAsid c) (pa + 8) (leBytes 8 (code % 2 ^ 16 + detail % 2 ^ 32 * 2 ^ 16))
    s.pronorPut (cmdAsid c) pa (leBytes 8 (field c 16 8))

/-! ## Fetching (R355, R356) -/

/-- R355, R373: the queue stops with a code. -/
def State.stopQueue (s : State) (q code : Nat) : State :=
  let b := s.queue q
  let s := s.setQueue { b with qstat := BitVec.ofNat 64 (2 ^ 63 + code) }
  s.post (eventRecord s 6 q 0 0 code 0 0 0 0)

/-- How one attempt to fetch ends. -/
inductive Fetched where
  | got (s : State)
  | none (s : State)

/-- R356, R404: a read of the queue waits: it is tried again. -/
def State.stallQueue (s : State) (b : Queue) : State := s.setQueue { b with stalled := true }

/-- R356: the queue's next command is fetched, when it has none that has not started. -/
def State.fetchCommand (s : State) (q : Nat) : Fetched :=
  let b := s.queue q
  if !b.en || b.err || b.held.isSome then .none s
  else if b.lsize < 4 || 16 < b.lsize then .none (s.stopQueue q 2)
  else match s.pronorRead b.asid b.qtaila.toNat 8 0 with
    | .error .wait => .none (s.stallQueue b)
    | .error (.fail _ _ t) => .none (t.stopQueue q 3)
    | .ok (tw, s) =>
      let waiting := (BitVec.ofNat 64 (leNat tw) - b.qhead).toNat
      if waiting = 0 then .none s
      else if 2 ^ b.lsize < waiting then .none (s.stopQueue q 1)
      else match s.pronorRead b.asid (b.qbase.toNat + 128 * (b.qhead.toNat % 2 ^ b.lsize)) 128 0 with
        | .error .wait => .none (s.stallQueue b)
        | .error (.fail _ _ t) => .none (t.stopQueue q 3)
        | .ok (c, s) => .got (s.setQueue { b with held := some c, qhead := b.qhead + 1 })

/-- R356: whether a fetched command may start. -/
def Queue.startable (b : Queue) (c : List Byte) : Bool := !(cmdBar c && !b.waits.isEmpty)

/-- R358: an opcode that Pronor implements. -/
def opcKnown (n : Nat) : Bool := 1 ≤ n && n ≤ 0x0B

/-- R356, R358: fetches as long as it can; a command with an unknown opcode completes with BADCMD when its turn comes. The
fuel bounds the commands that one call disposes of. -/
def State.pump (s : State) (q : Nat) : Nat → State
  | 0 => s
  | fuel + 1 =>
    let b := s.queue q
    match b.held with
    | some c =>
      if opcKnown (cmdOpc c) || !b.startable c then s
      else State.pump ((s.setQueue { b with held := none }).complete c stBadcmd 0) q fuel
    | none =>
      match s.fetchCommand q with
      | .got s => s.pump q fuel
      | .none s => s

/-- R356: lets a queue fetch. -/
def State.kick (s : State) (q : Nat) : State := s.pump q 131074

/-- R356, R404: queues whose reads have had to wait try again. -/
def State.retryFetch (s : State) : State :=
  (s.host.queues.filter (fun b => b.stalled)).foldl (fun s b => State.kick (s.setQueue { b with stalled := false }) b.id) s

/-- R356: lets every active queue fetch whose tail word lies in a range that was written. -/
def State.kickTails (s : State) (pa n : Nat) : State :=
  let hit (b : Queue) : Bool := b.en && decide (b.qtaila.toNat < pa + n) && decide (pa < b.qtaila.toNat + 8)
  ((s.host.queues.filter hit).map (fun b => b.id)).foldl (fun s q => s.kick q) s

/-- R356: whether a queue's tail word differs between two states. -/
def State.tailMoved (s before : State) (b : Queue) : Bool :=
  let tail (t : State) : List Byte := Memory.getBytes t.mem ((t.key b.qtaila.toNat).getD b.qtaila.toNat) 8
  b.en && tail s != tail before

/-- R356: every active queue whose tail word anything has written since an earlier state reads it again; what such a queue does may move
another tail word. The fuel bounds the rounds. -/
def State.kickMoved (s before : State) : Nat → State
  | 0 => s
  | fuel + 1 =>
    match (s.host.queues.filter (s.tailMoved before)).map (fun b => b.id) with
    | [] => s
    | q :: r => State.kickMoved ((q :: r).foldl (fun t i => t.kick i) s) s fuel

/-! ## The aperture (R354, R355, R367) -/

/-- R355: the register at an offset of a queue block. -/
def Queue.read (b : Queue) (off : Nat) : Dword :=
  match off / 8 with
  | 0 => b.qbase
  | 1 => b.qctl
  | 2 => b.qtaila
  | 3 => b.qhead
  | 4 => b.qstat
  | 5 => b.qroot
  | 6 => b.qtvec
  | _ => b.qsegs

/-- R355: a write of QCTL: EN = 1 clears QHEAD and QSTAT; EN = 0 stops the queue. That a command fetched ahead and not started goes with
either is the model's choice (log entries 47 and 95), and so is that a stop by EN = 0 posts no KIND 6 event (R373, log entry 105). -/
def State.writeQctl (s : State) (q : Nat) (v : Dword) : State :=
  let v := v &&& (bitMask 62 63 ||| bitMask 32 43 ||| bitMask 16 19 ||| bitMask 0 4)
  let b := s.queue q
  if v.getLsbD 63 then (s.setQueue { b with qctl := v, qhead := 0, qstat := 0, held := none }).kick q
  else s.setQueue { b with qctl := v, held := none }

/-- R355: a write into a queue block. -/
def State.writeQueue (s : State) (q off : Nat) (v : Dword) : State :=
  let b := s.queue q
  match off / 8 with
  | 0 => s.setQueue { b with qbase := v }
  | 1 => s.writeQctl q v
  | 2 => (s.setQueue { b with qtaila := v }).kick q
  | 5 => s.setQueue { b with qroot := v &&& bitMask 16 51 }
  | 6 => s.setQueue { b with qtvec := v &&& bitMask 2 63 }
  | 7 => s.setQueue { b with qsegs := v }
  | _ => s

/-- R354: the table's offsets. -/
def apertureKnown (off : Nat) : Bool :=
  off % 8 == 0 && (off < 0x10000 || (0x10000 ≤ off && off < 0x10050) || (0x10100 ≤ off && off < 0x10300))

/-- Replaces the scheduler registers. -/
def State.setRegs (s : State) (r : SchedRegs) : State := { s with host := { s.host with regs := r } }

/-- R367, R384: the value of an aperture register. -/
def State.readAperture (s : State) (off : Nat) : Dword :=
  let r := s.host.regs
  if off < 0x10000 then (s.queue (off / 64)).read (off % 64)
  else if 0x10100 ≤ off then field64 (s.host.errlog.toList.getD ((off - 0x10100) / 32) []) ((off - 0x10100) % 32)
  else match (off - 0x10000) / 8 with
    | 0 => r.tslice
    | 1 => r.wpark
    | 2 => r.eqbase
    | 3 => r.eqctl
    | 4 => r.eqtail
    | 5 => r.eqhead
    | 6 => r.evlost
    | 7 => r.errcnt
    | 8 => BitVec.ofNat 64 Config.rsvBase
    | _ => BitVec.ofNat 64 Config.rsvSize

/-- R355, R367, R373: a write of an aperture register; a read-only one ignores it. Events that wait go out when EQCTL or
EQHEAD lets them. -/
def State.writeAperture (s : State) (off : Nat) (v : Dword) : State :=
  let r := s.host.regs
  if off < 0x10000 then s.writeQueue (off / 64) (off % 64) v
  else if 0x10100 ≤ off then s
  else match (off - 0x10000) / 8 with
    | 0 => s.setRegs { r with tslice := v &&& bitMask 0 31 }
    | 1 => s.setRegs { r with wpark := v &&& bitMask 0 31 }
    | 2 => s.setRegs { r with eqbase := v }
    | 3 => (s.setRegs { r with eqctl := v &&& (bitMask 63 63 ||| bitMask 0 4) }).drainEvents s.host.events.length
    | 5 => (s.setRegs { r with eqhead := v }).drainEvents s.host.events.length
    | _ => s

/-! ## Host accesses (R354, R377, R383) -/

/-- R384: SRC of a host access. R377 gives a host line its port, PA [12]: that a device access of the host is logged with the port of its
own PA [12] is the model's choice (log entry 96). -/
def hostSrc (pa : Nat) : Nat := srcCode 2 0 (bitsOf pa 12 1)

/-- R377: what the host agent sees. -/
def State.replied (s : State) (v : Option (BitVec 512)) : State := { s with host := { s.host with reply := v } }

/-- R383, R384: the link's error response. -/
def State.hostError (s : State) (pa code : Nat) : State := (s.logError pa (hostSrc pa) code).replied none

/-- R354, R368: whether a host access of n bytes gets an error response, and its CODE. -/
def State.hostRefused (s : State) (pa n : Nat) : Option Nat :=
  if bitsOf pa 50 2 = 1 then
    if bitsOf pa 40 10 = 0 ∧ n = 8 ∧ apertureKnown (bitsOf pa 0 40) then none else some 2
  else match s.place pa with
    | .error c => some c
    | .hbm a => if inReserved a || inReserved (a + n - 1) then some 5 else none
    | _ => none

/-- R377: the link agent as a member of a chain: a ring number that no ring has. -/
def linkRing : Nat := 256

/-- R377: the link agent's request for a line of a TRK page. -/
def linkReq (line : Nat) (own : Bool) : LineReq :=
  { ring := linkRing, asid := 0, va := line, page := { level := 3, addr := 0, entry := 0, rep := none, root := 0 }, own := own }

/-- R377: whether a device line belongs to a TRK page, as far as the package knows: a ring holds it in its chain, or a port holds a TRK
translation of its page (log entry 80). -/
def State.trkLine (s : State) (line : Nat) : Bool :=
  !(chainOf s.coh.dir line).isEmpty || s.coh.tlb.any (fun t =>
    let first := (t.leaf.mapped (t.vpn * 2 ^ pageBits t.leaf.level)).pa / 64
    pteCoh t.leaf.entry == .trk && decide (first ≤ line) && decide (line < first + 2 ^ pageBits t.leaf.level / 64))

/-- R377: a host read of n bytes: a whole line of a TRK page of device memory joins the link agent to the line's chain, anything else is read at its
home and not cached. -/
def State.hostFetch (s : State) (pa n : Nat) : Except Stop (List Byte × State) :=
  if n = 64 ∧ pa % 64 = 0 ∧ !hostLine (pa / 64) ∧ s.trkLine (pa / 64) then
    let r := linkReq (pa / 64) false
    s.cachedRead r.who pa (r.target (pa / 64)) 64
  else s.paRead (pieces (n + 1) pa n)

/-- R377: a host write: within a line of a TRK page of device memory the link agent takes the line in M first; anything else is written at its home. -/
def State.hostPut (s : State) (pa : Nat) (bs : List Byte) : Except Stop State :=
  if pa % 64 + bs.length ≤ 64 ∧ !hostLine (pa / 64) ∧ s.trkLine (pa / 64) then
    let r := linkReq (pa / 64) true
    s.cachedWrite r.who pa { r.target (pa / 64) with pa := pa } bs
  else s.paWrite bs (pieces (bs.length + 1) pa bs.length)

/-- R377: a host agent reads device memory, at most a line, or an aperture register. An uncorrectable error is charged to nobody
(R403). -/
def execHostRead (pa size : Nat) (s : State) : Host.Outcome State Fault Refusal :=
  if !s.plat.started || !s.plat.hostLink || size = 0 || 64 < size then noOccurrence s
  else match s.hostRefused pa size with
    | some c => .next (s.hostError pa c)
    | none =>
      if bitsOf pa 50 2 = 1 then .next (s.replied (some ((s.readAperture (bitsOf pa 0 40)).setWidth 512)))
      else match s.hostFetch pa size with
        | .error .wait => noOccurrence s
        | .error (.memerr a) => .next ((s.chargeMemerr none a).replied none)
        | .error (.noMemory a c) => .next (s.hostError a c)
        | .error _ => noOccurrence s
        | .ok (b, t) => .next (t.replied (some (BitVec.ofNat 512 (leNat b))))

/-- R377: a host agent writes memory, at most a line, or an aperture register; a queue whose tail word it writes fetches (R356). -/
def State.hostStore (s : State) (pa size : Nat) (v : BitVec 512) : State :=
  if !s.plat.started || !s.plat.hostLink || size = 0 || 64 < size then s
  else match s.hostRefused pa size with
    | some c => s.hostError pa c
    | none =>
      if bitsOf pa 50 2 = 1 then s.writeAperture (bitsOf pa 0 40) (v.setWidth 64)
      else match s.hostPut pa (leBytes size v.toNat) with
        | .error (.memerr a) => (s.chargeMemerr none a).replied none
        | .error (.noMemory a c) => s.hostError a c
        | .error _ => s
        | .ok t => t.kickTails pa size

/-- R354: a host agent writes an 8-byte register of the aperture. -/
def State.hostRegister (s : State) (off : Nat) (v : Dword) : State := s.hostStore (2 ^ 50 + off % 2 ^ 40) 8 (v.setWidth 512)

/-- R377: a host agent writes device memory. -/
def execHostWrite (pa size : Nat) (v : BitVec 512) (s : State) : Host.Outcome State Fault Refusal := .next (s.hostStore pa size v)

/-- R355: the host writes QCTL. -/
def execQctlWrite (queue : Nat) (v : BitVec 64) (s : State) : Host.Outcome State Fault Refusal :=
  .next (s.hostRegister (64 * queue + 8) v)

/-- R373: the host writes EQHEAD. -/
def execEqheadWrite (v : BitVec 64) (s : State) : Host.Outcome State Fault Refusal := .next (s.hostRegister 0x10028 v)

/-- R373: the host writes EQCTL. -/
def execEqctlWrite (v : BitVec 64) (s : State) : Host.Outcome State Fault Refusal := .next (s.hostRegister 0x10018 v)

/-- R356: the host writes a queue's tail word. -/
def execQueueTailWrite (queue : Nat) (tail : BitVec 64) (s : State) : Host.Outcome State Fault Refusal :=
  .next (s.hostStore (s.queue queue).qtaila.toNat 8 (tail.setWidth 512))

/-! ## Snoops (R378, R380) -/

/-- R378, R380: the copies of a host line are written back, and invalidated when the snoop asks for it. -/
def State.snoopLine (s : State) (line : Nat) (invalidate : Bool) : State :=
  if invalidate then s.recallHost line
  else (s.cleanLine line).sivPut true (fun l => l.line == line)

/-- R378, R380: the host snoops a line: answered as not held when the filter has no entry. The reply says whether it was
held. -/
def execHostSnoop (line : Nat) (invalidate : Bool) (s : State) : Host.Outcome State Fault Refusal :=
  if s.snoopFilter.any (fun e => e.1 == line) then .next ((s.snoopLine line invalidate).replied (some 1))
  else .next (s.replied (some 0))

/-! ## Requests of peer packages (R198, R381) -/

/-- R195: the operations that an atomic request may carry, numbered from 2. -/
def peerOp (n : Nat) : Option RmwOp :=
  [RmwOp.swap, .add, .and, .or, .xor, .min, .max, .minu, .maxu][n]?

/-- R198: a peer's atomic, at the home slice. -/
def State.peerRmw (s : State) (pa size : Nat) (f : Nat → Nat) : Except Stop (Nat × State) :=
  match s.homeRead pa size with
  | .error e => .error e
  | .ok (b, s) =>
    match s.homeWrite pa (leBytes size (f (leNat b))) with
    | .error e => .error e
    | .ok t => .ok (leNat b, t.purgeLine (pa / 64))

/-- R198, R381: one request of a peer to this package's memory: 0 a read, 1 a write of v, 2-10 an atomic of R195 with v, 11 a
compare-and-swap of v for w. Only local HBM is reached over UALink. -/
def State.peerAccess (s : State) (op pa size : Nat) (v w : Dword) : Except Stop (Nat × State) :=
  if op = 0 then
    match s.homeRead pa size with
    | .error e => .error e
    | .ok (b, t) => .ok (leNat b, t)
  else if op = 1 then
    match s.homeWrite pa (leBytes size v.toNat) with
    | .error e => .error e
    | .ok t => .ok (0, t.purgeLine (pa / 64))
  else match peerOp (op - 2) with
    | some o => s.peerRmw pa size (fun old => rmwInt o size old v.toNat)
    | none => s.peerRmw pa size (fun old => if old = v.toNat % 2 ^ (8 * size) then w.toNat else old)

/-- R198, R381: a peer package's read, write or atomic arrives. -/
def execPeerRequest (op pa size : Nat) (v w : BitVec 64) (s : State) : Host.Outcome State Fault Refusal :=
  if !s.plat.started || 11 < op || 2 ^ 40 ≤ pa || !([1, 2, 4, 8].contains size) || pa % size != 0 then noOccurrence s
  else match s.peerAccess op pa size v w with
    | .error (.memerr a) => .next ((s.chargeMemerr none a).replied none)
    | .error _ => noOccurrence s
    | .ok (r, t) => .next (t.replied (some (BitVec.ofNat 512 r)))

end Sys2Proof.Machine
end

