-- ==== Sys2Proof/Machine/Platform.lean ====
section
/-! DEFINITION. The platform: power levels (R375, R412, R413), HBM stacks (R400-R405), die reset and gating (R379), management
registers (R401), starts (R406-R408), firmware (R409) and SPDM (R411).
-/

namespace Sys2Proof.Machine

/-! ## Power (R375, R412, R413) -/

/-- R375, R412: one evaluation of a die: one level up when a measured limit is passed, one down after ten evaluations below
90 % of every limit. -/
def Die.evaluate (d : Die) (m : List (Nat × Nat)) : Die :=
  if m.any (fun p => decide (p.2 < p.1)) then { d with level := min 5 (d.level + 1), calm := 0 }
  else if m.all (fun p => decide (10 * p.1 < 9 * p.2)) then
    (if 9 ≤ d.calm then { d with level := d.level - 1, calm := 0 } else { d with calm := d.calm + 1 })
  else { d with calm := 0 }

/-- R11, R375: what die i is measured against: the package, the die itself, and the two stacks whose quadrants it homes. -/
def State.measured (s : State) (pkg : Nat) (dieW stackW : List Nat) (i : Nat) : List (Nat × Nat) :=
  let g := s.plat.mgmt
  [(pkg, g.pkglim.toNat), (dieW.getD i 0, g.dielim.toNat), (stackW.getD (i / 4) 0, g.stklim.toNat),
   (stackW.getD (i / 4 + 8) 0, g.stklim.toNat)]

/-- Replaces the dies. -/
def State.setDies (s : State) (d : Vector Die 32) : State := { s with plat := { s.plat with dies := d } }

/-- R375, R412: the power controller evaluates its limits. -/
def execPowerEvaluation (pkg : Nat) (dieW stackW : List Nat) (s : State) : Host.Outcome State Fault Refusal :=
  if !s.plat.started then noOccurrence s
  else .next (s.setDies (s.plat.dies.mapFinIdx (fun i d _ => d.evaluate (s.measured pkg dieW stackW i))))

/-- Changes one die. -/
def State.mapDie (s : State) (die : Nat) (f : Die → Die) : State :=
  s.setDies (s.plat.dies.mapFinIdx (fun i d _ => if i = die then f d else d))

/-- R412: a junction above 105 °C moves the die to level 5 at once. -/
def execDieJunctionHot (die : Nat) (s : State) : Host.Outcome State Fault Refusal :=
  if !s.plat.started then noOccurrence s else .next (s.mapDie die (fun d => { d with level := 5, calm := 0 }))

/-- R405: a stack across a start: self-refresh goes on with the time it has lasted. -/
def Stack.restart (k : Stack) (cyc : Nat) : Stack :=
  { k with training := [], spent := k.spent + (cyc - k.since), since := 0, cool := 0, trained := [] }

/-- R403: the errors that write-backs have met are charged, and those that the writes of ending launches meet then; the fuel bounds the
rounds. -/
def State.chargeAll (s : State) : Nat → State
  | 0 => s
  | fuel + 1 => if s.plat.due.isEmpty then s else s.chargeDue.chargeAll fuel

/-- R406, R407: what the logic of the package holds after it has been reset: no thread, empty caches, reset interface. Errors that are
still to be charged are charged first (R403). HBM, the platform's registers and the environment's turns stay. -/
def State.resetLogic (s : State) : State :=
  let s := s.chargeAll (s.host.launches.length + 1)
  { State.reset with
    mem := s.mem, tick := s.tick, agenda := s.agenda
    plat := { s.plat with
      dies := s.plat.dies.map (fun d => { d with level := 0, calm := 0, inService := true })
      stk := s.plat.stk.map (fun k => k.restart s.cyc)
      due := [] } }

/-- R412, R413: the power stages go off: everything stops and the links drop. -/
def State.powerOff (s : State) : State :=
  let s := s.resetLogic
  { s with plat := { s.plat with power := false, started := false, hostLink := false, keys := false } }

/-- R412: a junction above 120 °C trips the power stages off. -/
def execDieJunctionTrip (_die : Nat) (s : State) : Host.Outcome State Fault Refusal :=
  if !s.plat.power then noOccurrence s else .next s.powerOff

/-- R413: the input voltages at which the stages may be on. -/
def inputOk (volts : Nat) : Bool := decide (40 ≤ volts) && decide (volts ≤ 60)

/-- R413: the input voltage changes; outside 40 V to 60 V the stages go off. -/
def execInputOutOfRange (volts : Nat) (s : State) : Host.Outcome State Fault Refusal :=
  let t := { s with plat := { s.plat with volts := volts } }
  .next (if inputOk volts then t else t.powerOff)

/-! ## HBM stacks (R400-R405) -/

/-- The stack of a number. -/
def State.stack (s : State) (k : Nat) : Stack := s.plat.stk.toList.getD k Stack.serving

/-- Replaces a stack. -/
def State.setStack (s : State) (k : Nat) (v : Stack) : State := { s with plat := { s.plat with stk := s.plat.stk.setIfInBounds k v } }

/-- R2: cycles of 940 MHz in a number of microseconds. -/
def microseconds (n : Nat) : Nat := 940 * n

/-- R401: RTI and TSRMAX in cycles: values below 1,000 act as 1,000. -/
def intervalOf (v : Dword) : Nat := microseconds (max 1000 v.toNat)

/-- R400: the cycle at which a channel's next burst falls due. -/
def State.burstDue (s : State) (k : Stack) (chan : Nat) : Nat :=
  ((k.trained.find? (fun c => c.1 == chan)).map (fun c => c.2)).getD 0 + intervalOf s.plat.mgmt.rti

/-- R400: time passes until a channel's interval ends, and its burst starts; in self-refresh it is deferred. -/
def execHbmRetrain (stack chan : Nat) (s : State) : Host.Outcome State Fault Refusal :=
  let k := s.stack stack
  if !s.plat.started || k.refresh || 32 ≤ chan || 16 ≤ stack then noOccurrence s
  else
    let cyc := max s.cyc (s.burstDue k chan)
    let k := { k with training := addNew chan k.training, trained := (chan, cyc) :: k.trained.filter (fun c => c.1 != chan) }
    .next { s.setStack stack k with cyc := cyc }

/-- R400: a burst ends; the requests that waited are served as they are tried again. -/
def execHbmRetrainEnd (stack chan : Nat) (s : State) : Host.Outcome State Fault Refusal :=
  let k := s.stack stack
  if k.training.contains chan then .next (s.setStack stack { k with training := k.training.filter (fun c => c != chan) })
  else noOccurrence s

/-- R404: the critical-temperature signal rises: every channel of the stack goes into self-refresh. -/
def execStackCriticalTemp (stack : Nat) (s : State) : Host.Outcome State Fault Refusal :=
  let k := s.stack stack
  if !s.plat.power || 16 ≤ stack then noOccurrence s
  else if k.refresh then .next (s.setStack stack { k with critical := true })
  else .next (s.setStack stack { k with critical := true, refresh := true, training := [], since := s.cyc, spent := 0 })

/-- R405: the signal falls. -/
def execCriticalTemperatureCleared (stack : Nat) (s : State) : Host.Outcome State Fault Refusal :=
  let k := s.stack stack
  if k.critical then .next (s.setStack stack { k with critical := false, cool := s.cyc }) else noOccurrence s

/-- R405: the cycle at which a stack whose signal has fallen leaves self-refresh: 1 ms later. -/
def Stack.exitAt (k : Stack) : Nat := k.cool + microseconds 1000

/-- R404, R405: the stack's lines that have stayed dirty in the LLC are written back. -/
def State.unpinLines (s : State) (stack : Nat) : State :=
  { s with coh := { s.coh with llc := s.coh.llc.map (fun l => if stackOf (64 * l.1) = stack then (l.1, false) else l) } }

/-- R405: the cycle at which self-refresh has lasted TSR_MAX. -/
def State.expiryOf (s : State) (k : Stack) : Nat := k.since + (intervalOf s.plat.mgmt.tsrmax - k.spent)

/-- R403, R405: the requests of ring threads that wait for a stack's DRAM, with the address space that an error is charged to. What a
speculative chunk's request would have charged waits until the chunk is head (R9, log entry 65). -/
def State.waitingFor (s : State) (stack : Nat) : List (Option (BitVec 12) × Nat) :=
  let ofRing (t : Thread) (head : Chunk) : List (Option (BitVec 12) × Nat) :=
    (head.asked.toList ++ (t.cmds.filter (fun c => c.committed)).filterMap (fun c => c.asked)).map (fun q => (some t.asid, q.1))
  let all := ofRing s.thr (s.older.headD s.cpu) ++ s.others.flatMap (fun r => (r.chunks.head?.map (fun c => ofRing r.thr c)).getD [])
  all.filter (fun q => bitsOf q.2 50 2 == 0 && stackOf q.2 == stack && !s.llcHolds (q.2 / 64))

/-- R403, R405: self-refresh has lasted TSR_MAX: every request then waiting for the stack's DRAM meets an uncorrectable error, and so
does every later one, until the stack leaves self-refresh. -/
def State.expire (s : State) (stack : Nat) : State :=
  let k := s.stack stack
  let t : State := { s.setStack stack { k with expired := true } with cyc := max s.cyc (s.expiryOf k) }
  let u := t.serveQueued
  State.chargeDue { u with plat := { u.plat with due := u.plat.due ++ t.waitingFor stack } }

/-- R405: time passes until self-refresh has lasted TSR_MAX. A stack that leaves self-refresh first, or in the same cycle, does not get
there. -/
def execTsrMaxExpiry (stack : Nat) (s : State) : Host.Outcome State Fault Refusal :=
  let k := s.stack stack
  if !k.refresh || k.expired || (!k.critical && decide (max s.cyc k.exitAt ≤ s.expiryOf k)) then noOccurrence s
  else .next (s.expire stack)

/-- R405: time passes until the stack has been below the threshold for 1 ms: it leaves self-refresh. If that has lasted TSR_MAX before
then, the waiting requests fail first. -/
def execSelfRefreshExit (stack : Nat) (s : State) : Host.Outcome State Fault Refusal :=
  let k := s.stack stack
  if k.refresh && !k.critical then
    let s := if !k.expired && s.expiryOf k < max s.cyc k.exitAt then s.expire stack else s
    let t := (s.setStack stack { k with refresh := false, expired := false }).unpinLines stack
    .next { t with cyc := max s.cyc k.exitAt }
  else noOccurrence s

/-- R402, R403: the patrol scrubber reads a codeword: a correctable symbol is corrected and counted, a poisoned codeword is an
error charged to nobody. -/
def execPatrolScrub (pa : Nat) (s : State) : Host.Outcome State Fault Refusal :=
  if !s.plat.started || 2 ^ 40 ≤ pa || (s.stack (stackOf pa)).refresh then noOccurrence s
  else if s.poisoned pa 1 then .next (s.chargeMemerr none pa)
  else if Config.badSymbol s.tick then
    .next { s with plat := { s.plat with mgmt := { s.plat.mgmt with cecnt := s.plat.mgmt.cecnt + 1 } } }
  else .next s

/-- The bytes of a line that lie in the codeword of an address, as a mask. -/
def codewordMask (pa : Nat) : BitVec 64 := 0xFFFFFFFF#64 <<< (pa % 64 / 32 * 32)

/-- R402: the SIV copies with modified bytes in the codeword. -/
def State.dirtyCopies (s : State) (pa : Nat) : List SivLine :=
  s.coh.siv.filter (fun x => x.line == pa / 64 && x.dirty &&& codewordMask pa != 0)

/-- R402: whether a ring's cache holds modified bytes of the codeword. -/
def State.dirtyWord (s : State) (pa : Nat) : Bool :=
  (chainOf s.coh.dir (pa / 64)).any (fun m => m.st != .shared) || !(s.dirtyCopies pa).isEmpty

/-- R402: one SIV copy loses its modified bytes of a codeword, and is evicted: its other modified bytes go home. -/
def State.strike (s : State) (pa : Nat) (x : SivLine) : State :=
  let left := x.dirty &&& ~~~codewordMask pa
  let t := { s with coh := { s.coh with siv := s.coh.siv.filter (fun y => y != x) } }
  if left = 0 then t else t.homePut { x with dirty := left }.write

/-- R402: a soft error destroys the modified bytes of a codeword in one ring's cache, and the codeword stays lost until it is written
whole again; which SIV copy of several is struck is free (log entry 38). -/
def State.softError (s : State) (pa : Nat) : State :=
  let t := { s with plat := { s.plat with soft := addNew ((s.key pa).getD pa / 32) s.plat.soft } }
  let l := s.dirtyCopies pa
  match l[Config.softCopy s.tick % l.length]? with
  | some x => t.strike pa x
  | none => t

/-- R402, R403: an uncorrectable error arises: in HBM, whose codeword is poisoned, or in a modified line of a ring's cache, of HBM or of
host memory. The error is charged to the line's physical page. -/
def execMemerr (pa : Nat) (charged : Bool) (asid : BitVec 12) (s : State) : Host.Outcome State Fault Refusal :=
  let who := if charged then some asid else none
  if !s.plat.started then noOccurrence s
  else if (pa < 2 ^ 40 && Config.softError s.tick || hostLine (pa / 64)) && s.dirtyWord pa then
    .next ((s.softError pa).chargeMemerr who pa)
  else if pa < 2 ^ 40 then
    .next (State.chargeMemerr { s with plat := { s.plat with poison := addNew (pa / 32) s.plat.poison } } who pa)
  else noOccurrence s

/-! ## Die reset and gating (R379, R380) -/

/-- The rings of a die. -/
def onDie (die ring : Nat) : Bool := dieOf ring == die

/-- R379, R380: a die leaves service once its caches are written back and empty, and returns with empty caches. A die on which
a thread runs is not taken (log entry 39). -/
def State.dieService (s : State) (die : Nat) : Host.Outcome State Fault Refusal :=
  match s.plat.dies.toList[die]? with
  | none => noOccurrence s
  | some d =>
    if !s.plat.started || s.busyRings.any (onDie die) then noOccurrence s
    else if d.inService then
      let t := s.dropCovered (fun ring _ _ _ => onDie die ring)
      let t := { t with coh := { t.coh with
        tlb := t.coh.tlb.filter (fun e => e.die != die), walks := t.coh.walks.filter (fun w => w.die != die) } }
      .next (t.mapDie die (fun d => { d with inService := false }))
    else .next (s.mapDie die (fun d => { d with inService := true }))

/-- R379: a compute die is reset, or returns to service. -/
def execDieReset (die : Nat) (s : State) : Host.Outcome State Fault Refusal := s.dieService die

/-- R379: a compute die is power-gated, or woken. -/
def execDiePowerGating (die : Nat) (s : State) : Host.Outcome State Fault Refusal := s.dieService die

/-- R407: Aeleadel Link goes down. -/
def execHostLinkDown (s : State) : Host.Outcome State Fault Refusal := .next { s with plat := { s.plat with hostLink := false } }

/-! ## Starts (R406-R409) -/

/-- R406: the steps that a start runs. -/
def startSteps (cold : Bool) : List Nat := if cold then [1, 2, 3, 4, 5, 6, 7, 8] else [1, 2, 3, 8]

/-- R406: the REASON of a step that fails by itself. -/
def stepReasons (step : Nat) : List Nat :=
  match step with
  | 1 => [1]
  | 3 => [4]
  | 4 => [5]
  | 5 => [6]
  | 6 => [7]
  | 7 => [8]
  | _ => []

/-- R406: whether a step may fail with a reason: its own, or 9 for any step that does not finish. Step 2's own outcome is the
firmware image's (R409). -/
def mayFail (step reason : Nat) : Bool := reason == 9 || (stepReasons step).contains reason

/-- R409: whether the firmware image's signature is good (log entry 16). -/
def State.firmwareSigned (s : State) : Bool :=
  match s.plat.fwImage with
  | some i => Config.signatureValid i
  | none => true

/-- R409: the reason for which the firmware image is refused. -/
def State.firmwareReason (s : State) : Option Nat :=
  if !s.firmwareSigned then some 2 else if s.plat.fwVersion < s.plat.fwMin then some 3 else none

/-- R403, R406: a full scrub: HBM holds zero with good ECC; host memory is not touched. -/
def State.scrub (s : State) : State :=
  { s with
    mem := s.mem.filter (fun c => decide (2 ^ 40 ≤ c.1))
    plat := { s.plat with
      poison := [], soft := s.plat.soft.filter (fun c => decide (2 ^ 35 ≤ c))
      queued := s.plat.queued.filter (fun w => decide (2 ^ 40 ≤ w.pa)) } }

/-- R411: the measurements: Pronor's ROM, the firmware image, and the fuse configuration with PKID. -/
def State.measurements (s : State) : List (List Byte) :=
  [Config.digest Config.romImage, Config.digest (s.plat.fwImage.getD []),
   Config.digest (leBytes 8 s.plat.fwMin ++ leBytes 8 s.plat.pkid.toNat)]

/-- R410: the identity and alias keys are derived: the alias key from the identity key and the measurements. -/
def State.deriveKeys (s : State) : State :=
  { s with plat := { s.plat with keys := true, aliasKey := Config.aliasKey Config.identityKey s.measurements.flatten } }

/-- R406: what a step that succeeds does. -/
def State.startStep (s : State) (step : Nat) : State :=
  match step with
  | 2 => { s with plat := { s.plat with fwMin := max s.plat.fwMin s.plat.fwVersion } }
  | 4 => s.scrub
  | 6 => { s with plat := { s.plat with pkid := s.plat.mgmt.pkid.setWidth 10, hostLink := true } }
  | 7 => s.deriveKeys
  | _ => s

/-- R406: STARTST.STEP. -/
def State.setStep (s : State) (step : Nat) : State := { s with plat := { s.plat with mgmt := { s.plat.mgmt with step := step } } }

/-- R406: runs the steps of a start; the reason with which it fails, if it does. -/
def State.runSteps (s : State) (fail : Option (Nat × Nat)) : List Nat → State × Option Nat
  | [] => (s, none)
  | k :: r =>
    let s := s.setStep k
    let own := match fail with
      | some f => if f.1 = k && mayFail k f.2 then some f.2 else none
      | none => none
    match (match own with | some x => some x | none => if k = 2 then s.firmwareReason else none) with
    | some x => (s, some x)
    | none => (s.startStep k).runSteps fail r

/-- R4, R401: the management registers when a start begins: a cold start gives RTI, TSRMAX and the limits their reset values; PKID,
which a cold start takes, is kept (log entry 81). -/
def MgmtRegs.restart (g : MgmtRegs) (cold : Bool) : MgmtRegs :=
  let r := MgmtRegs.reset
  if cold then { g with recov := false, rti := r.rti, tsrmax := r.tsrmax, pkglim := r.pkglim, dielim := r.dielim, stklim := r.stklim }
  else { g with recov := false }

/-- R406, R379, R365: before a start: every thread ends without a save, every host line is written back, and the logic is
reset. A cold start drops the links. -/
def State.stopAll (s : State) (cold : Bool) : State :=
  let ts := s.threads
  let s := (s.removeThreads (fun _ => true)).endThreads ts 0
  let s := (s.flushHost (fun _ => true)).resetLogic
  { s with plat := { s.plat with
      started := false
      hostLink := if cold then false else s.plat.hostLink
      keys := if cold then false else s.plat.keys
      mgmt := s.plat.mgmt.restart cold } }

/-- R408: a successful start. -/
def State.startOk (s : State) : State :=
  { s with plat := { s.plat with started := true, mgmt := { s.plat.mgmt with reason := 0, fails := 0, recov := false } } }

/-- R408: a failed start. -/
def State.startFailed (s : State) (reason : Nat) : State :=
  let g := s.plat.mgmt
  let n := min 15 (g.fails + 1)
  { s with plat := { s.plat with started := false, mgmt := { g with reason := reason, fails := n, recov := decide (3 ≤ n) } } }

/-- R406, R408: a start and its retries; `fails` says at which step, and why, each attempt fails beyond what the firmware
decides; the fuel bounds the attempts. -/
def State.attempts (s : State) (cold : Bool) (fails : List (Nat × Nat)) : Nat → State
  | 0 => s
  | fuel + 1 =>
    match (s.stopAll cold).runSteps fails.head? (startSteps cold) with
    | (s, none) => s.startOk
    | (s, some reason) =>
      let s := s.startFailed reason
      if s.plat.mgmt.recov then s else s.attempts true fails.tail fuel

/-- R406: a start of a package whose stages are on. -/
def State.start (s : State) (cold : Bool) (fails : List (Nat × Nat)) : State := s.attempts cold fails 3

/-- R401, R406, R413: power-on, when the input is in range: the management registers take their reset values, and a cold start
follows. -/
def execPowerOn (fails : List (Nat × Nat)) (s : State) : Host.Outcome State Fault Refusal :=
  if s.plat.power || !inputOk s.plat.volts then noOccurrence s
  else
    let g : MgmtRegs := { MgmtRegs.reset with step := 0 }
    .next (State.start { s with plat := { s.plat with power := true, mgmt := g } } true fails)

/-- R406: a warm start from STARTCMD. -/
def execStartcmdWarm (fails : List (Nat × Nat)) (s : State) : Host.Outcome State Fault Refusal :=
  if s.plat.power then .next (s.start false fails) else noOccurrence s

/-- R406: a cold start from STARTCMD. -/
def execStartcmdCold (fails : List (Nat × Nat)) (s : State) : Host.Outcome State Fault Refusal :=
  if s.plat.power then .next (s.start true fails) else noOccurrence s

/-- R406: a cold start whose step does not finish within 10 s fails with REASON 9. -/
def execStartStepTimeout (step : Nat) (fails : List (Nat × Nat)) (s : State) : Host.Outcome State Fault Refusal :=
  if s.plat.power && 1 ≤ step && step ≤ 8 then .next (s.start true ((step, 9) :: fails)) else noOccurrence s

/-- R408: the management controller writes a firmware image in recovery. -/
def execFirmwareStagingWrite (version : Nat) (image : List (BitVec 8)) (s : State) : Host.Outcome State Fault Refusal :=
  if s.plat.power && s.plat.mgmt.recov then .next { s with plat := { s.plat with fwVersion := version, fwImage := some image } }
  else noOccurrence s

/-! ## Management registers (R401) -/

/-- R401: the transfer of the low word of a management register: every writable field lies there. -/
def State.writeMgmtLow (s : State) (off : Nat) (v : Dword) : State :=
  let g := s.plat.mgmt
  let put (g : MgmtRegs) : State := { s with plat := { s.plat with mgmt := g } }
  match off with
  | 0x08 => if bitsOf v.toNat 0 2 = 1 then s.start false [] else if bitsOf v.toNat 0 2 = 2 then s.start true [] else s
  | 0x10 => put { g with rti := v &&& bitMask 0 31 }
  | 0x18 => put { g with tsrmax := v &&& bitMask 0 31 }
  | 0x20 => put { g with pkglim := BitVec.ofNat 64 (min 6600 (bitsOf v.toNat 0 16)) }
  | 0x28 => put { g with dielim := v &&& bitMask 0 15 }
  | 0x30 => put { g with stklim := v &&& bitMask 0 15 }
  | 0x38 => put { g with pkid := v &&& bitMask 0 9 }
  | _ => s

/-- R401: one 4-byte transfer to a management register: the high word holds Z bits alone, which ignore writes. -/
def State.writeMgmt4 (s : State) (off : Nat) (w : Word) : State := if off % 8 = 0 then s.writeMgmtLow off (w.setWidth 64) else s

/-- R401: a write of a management register: two 4-byte transfers, the low word first. -/
def State.writeMgmt (s : State) (off : Nat) (v : Dword) : State :=
  if off % 8 = 0 then (s.writeMgmt4 off (v.setWidth 32)).writeMgmt4 (off + 4) ((v >>> 32).setWidth 32) else s

/-- R401: the value of a management register, as the management controller reads it by two 4-byte transfers; a read changes
nothing. -/
def State.readMgmt (s : State) (off : Nat) : Dword :=
  let g := s.plat.mgmt
  match off with
  | 0x00 => BitVec.ofNat 64 (g.recov.toNat * 2 ^ 20 + g.fails % 16 * 2 ^ 16 + g.step % 256 * 2 ^ 8 + g.reason % 256)
  | 0x10 => g.rti
  | 0x18 => g.tsrmax
  | 0x20 => g.pkglim
  | 0x28 => g.dielim
  | 0x30 => g.stklim
  | 0x38 => g.pkid
  | 0x40 => g.cecnt
  | 0x48 => BitVec.ofNat 64 s.plat.retired.length
  | _ => 0

/-- R4, R354, R401: a write to an aperture or management register; both transfers of R401 are one step (log entry 83). -/
def execRegisterWrite (mgmt : Bool) (off : Nat) (v : BitVec 64) (s : State) : Host.Outcome State Fault Refusal :=
  if mgmt then (if s.plat.power then .next (s.writeMgmt off v) else noOccurrence s)
  else .next (s.hostRegister off v)

/-! ## SPDM (R411) -/

/-- The codes by which SPDM 1.2 names the requests that R411 lists (log entry 15). -/
def spdmCodes : List Nat := [0x84, 0xE1, 0xE3, 0x81, 0x82, 0x83, 0xE0]

/-- The request code of an SPDM request (log entry 15). -/
def spdmCode (req : List Byte) : Nat := field req 1 1

/-- R411: whether the device supports a request: one of the list, and GET_CERTIFICATE for slot 0 alone (log entry 15). -/
def spdmSupported (req : List Byte) : Bool := spdmCodes.contains (spdmCode req) && !(spdmCode req == 0x82 && field req 2 1 % 16 != 0)

/-- R411: the SPDM error UnsupportedRequest (log entry 15). -/
def spdmUnsupported (req : List Byte) : List Byte := leBytes 1 0x12 ++ leBytes 1 0x7F ++ leBytes 1 0x07 ++ leBytes 1 (spdmCode req)

/-- R411: the response to NEGOTIATE_ALGORITHMS selects, of the algorithms that the request names, ECDSA on P-256 and SHA-256 alone; the
rest of it is as given (log entry 15). -/
def spdmOffer (req rsp : List Byte) : List Byte :=
  if spdmCode req = 0xE3 then
    padTo 8 (rsp.take 8) ++ leBytes 4 (2 * (field req 6 1 % 2)) ++ leBytes 4 (field req 8 4 / 16 % 2 * 16) ++ leBytes 4 (field req 12 4 % 2)
      ++ rsp.drop 20
  else rsp

/-- R411: one request on a connection, and its response: UnsupportedRequest, or bytes that the spec does not give, which depend on the
chain, the alias key and the measurements, but for the algorithms offered (log entry 15). -/
def State.spdm (s : State) (attest : Bool) (req : List Byte) : List Byte × State :=
  let seen := if attest then s.host.spdmAttest else s.host.spdmI3c
  let rsp :=
    if spdmSupported req then
      spdmOffer req (Config.spdmResponse attest seen (Config.certChain Config.identityKey) s.plat.aliasKey s.measurements.flatten req)
    else spdmUnsupported req
  (rsp, if attest then { s with host := { s.host with spdmAttest := seen ++ [spdmCode req] } }
    else { s with host := { s.host with spdmI3c := seen ++ [spdmCode req] } })

/-- R408, R411: a request of a given code arrives: over I3C at any time, in recovery too; of ATTEST only while the package
runs. -/
def spdmRequest (codes : List Nat) (attest : Bool) (req : List Byte) (s : State) : Host.Outcome State Fault Refusal :=
  if !s.plat.power || (attest && !s.plat.started) || !codes.contains (spdmCode req) then noOccurrence s
  else
    let (rsp, t) := s.spdm attest req
    .next { t with host := { t.host with spdmOut := rsp } }

/-- R411: GET_VERSION. -/
def execGetVersion (attest : Bool) (req : List (BitVec 8)) (s : State) : Host.Outcome State Fault Refusal := spdmRequest [0x84] attest req s

/-- R411: GET_CAPABILITIES. -/
def execGetCapabilities (attest : Bool) (req : List (BitVec 8)) (s : State) : Host.Outcome State Fault Refusal :=
  spdmRequest [0xE1] attest req s

/-- R411: NEGOTIATE_ALGORITHMS. -/
def execNegotiateAlgorithms (attest : Bool) (req : List (BitVec 8)) (s : State) : Host.Outcome State Fault Refusal :=
  spdmRequest [0xE3] attest req s

/-- R411: GET_DIGESTS. -/
def execGetDigests (attest : Bool) (req : List (BitVec 8)) (s : State) : Host.Outcome State Fault Refusal := spdmRequest [0x81] attest req s

/-- R411: GET_CERTIFICATE. -/
def execGetCertificate (attest : Bool) (req : List (BitVec 8)) (s : State) : Host.Outcome State Fault Refusal :=
  spdmRequest [0x82] attest req s

/-- R411: CHALLENGE. -/
def execChallenge (attest : Bool) (req : List (BitVec 8)) (s : State) : Host.Outcome State Fault Refusal := spdmRequest [0x83] attest req s

/-- R411: GET_MEASUREMENTS. -/
def execGetMeasurements (attest : Bool) (req : List (BitVec 8)) (s : State) : Host.Outcome State Fault Refusal :=
  spdmRequest [0xE0] attest req s

/-- R411: any other request receives the SPDM error UnsupportedRequest. -/
def execUnsupportedRequest (attest : Bool) (req : List (BitVec 8)) (s : State) : Host.Outcome State Fault Refusal :=
  spdmRequest ((List.range 256).filter (fun c => !spdmCodes.contains c)) attest req s

end Sys2Proof.Machine
end

