-- ==== Sys2Proof/Machine/Scheduler.lean ====
section
/-! DEFINITION. The ring scheduler: spawn, rexit and yield (R232-R234, R362), placement (R365, R366), slices, priority and
parking (R367), the EARLY quota and boost (R371), and dependences (R364).
-/

namespace Sys2Proof.Machine

/-! ## Quotas (R371) -/

/-- R360: the fields of AFF: AROW, ACOL, NROW, NCOL, AMODE. -/
def affOf (aff : Dword) : Nat × Nat × Nat × Nat × Nat :=
  (bitsOf aff.toNat 0 4, bitsOf aff.toNat 4 4, bitsOf aff.toNat 8 4 + 1, bitsOf aff.toNat 12 4 + 1, bitsOf aff.toNat 16 2)

/-- R371: A: the rings that a launch's AMODE permits. -/
def ringsPermitted (aff : Dword) : Nat :=
  let (_, _, nrow, ncol, mode) := affOf aff
  if mode = 2 then nrow * ncol else 256

/-- R371: an EARLY launch may have one more running thread. -/
def State.quotaOk (s : State) (lid : Nat) : Bool :=
  match s.launchOf lid with
  | none => true
  | some l =>
    match l.early with
    | none => true
    | some p =>
      s.unended p == 0
        || decide ((s.running.filter (fun r => r.2.1.lid == lid)).length + s.unended p < ringsPermitted l.aff)

/-! ## Rings (R360, R366) -/

/-- R12, R360: a ring lies in a launch's rectangle. -/
def inRect (aff : Dword) (ring : Nat) : Bool :=
  let (arow, acol, nrow, ncol, _) := affOf aff
  decide (arow ≤ ring / 16) && decide (ring / 16 < arow + nrow) && decide (acol ≤ ring % 16) && decide (ring % 16 < acol + ncol)

/-- R360: a launch's AMODE permits a thread a ring. -/
def State.permits (s : State) (t : Thread) (ring : Nat) : Bool :=
  match s.launchOf t.lid with
  | none => true
  | some l =>
    let (arow, acol, _, _, mode) := affOf l.aff
    if mode = 2 then inRect l.aff ring
    else if mode = 3 && t.lastRing.isNone then decide (ring = (16 * arow + acol + t.tix) % 256)
    else true

/-- R379: a ring's die is in service. -/
def State.inService (s : State) (ring : Nat) : Bool :=
  match s.plat.dies.toList[dieOf ring]? with
  | some d => d.inService
  | none => false

/-- R366: the rings available to a thread. -/
def State.available (s : State) (t : Thread) : List Nat :=
  (List.range Config.rings).filter (fun r => !s.busyRings.contains r && s.inService r && s.permits t r)

/-- R366: how little a thread prefers a ring: the ring it left, then its die, then the rectangle. -/
def State.dislike (s : State) (t : Thread) (ring : Nat) : Nat :=
  let rect := match s.launchOf t.lid with
    | some l => bitsOf l.aff.toNat 16 2 == 0 || inRect l.aff ring
    | none => true
  let here := match t.lastRing with
    | some r => (!(r == ring)).toNat * 4 + (!(dieOf r == dieOf ring)).toNat * 2
    | none => 0
  here + (!rect).toNat

/-- R366: the ring that a thread is placed on: one of those it prefers; which of them is open (log entry 36). -/
def State.bestRing (s : State) (t : Thread) : Option Nat :=
  let l := s.available t
  match (l.map (s.dislike t)).min? with
  | none => none
  | some d =>
    let best := l.filter (fun r => s.dislike t r == d)
    best[Config.ringChoice s.tick % best.length]?

/-! ## Placement (R365, R366) -/

/-- The first thread of a priority that can be placed, with its ring. -/
def State.candidateAt (s : State) (p : Nat) : Option (Saved × Nat) :=
  s.saved.findSome? (fun v =>
    if v.thr.st == .ready && s.prioOf v.thr.lid == p && s.quotaOk v.thr.lid then (s.bestRing v.thr).map (fun r => (v, r)) else none)

/-- R366: the thread placed next: of the highest priority, then in queue order. -/
def State.candidateThread (s : State) : Option (Saved × Nat) :=
  [7, 6, 5, 4, 3, 2, 1, 0].findSome? (fun p => s.candidateAt p)

/-- R350, R363, R403, R405: a thread gets a ring; one whose save block holds an uncorrectable error, or lies in a stack whose self-refresh
has lasted too long, is charged with it. -/
def State.placeOn (s : State) (v : Saved) (ring : Nat) : State :=
  match v.block.bind s.blockLost with
  | some a => s.chargeMemerr (some v.thr.asid) a
  | none => (s.resumeOn v ring).getD s

/-- R366: a ready thread is placed on a ring. -/
def execPlaceThread (s : State) : Host.Outcome State Fault Refusal :=
  match s.candidateThread with
  | some (v, r) => .next (s.placeOn v r)
  | none => noOccurrence s

/-- R350: a saved thread resumes: the placement of that thread. -/
def execResume (lid tix : Nat) (s : State) : Host.Outcome State Fault Refusal :=
  match s.candidateThread with
  | some (v, r) => if v.thr.lid = lid ∧ v.thr.tix = tix ∧ v.block.isSome then .next (s.placeOn v r) else noOccurrence s
  | none => noOccurrence s

/-! ## Pre-emption (R345, R367) -/

/-- A ready thread that satisfies p, may run, and is permitted on the focused ring. -/
def State.contender (s : State) (p : Saved → Bool) : Bool :=
  s.saved.any (fun v => v.thr.st == .ready && s.quotaOk v.thr.lid && s.permits v.thr s.ring && p v)

/-- R346: the focused thread is pre-empted, when its head can be brought to a boundary and a save block is free. -/
def State.preempted (s : State) : Host.Outcome State Fault Refusal :=
  if !s.canSave then noOccurrence s
  else match s.saveThread .ready with
    | .ok t => .next t
    | .error e => .next (s.orStop e)

/-- R367: the end of the focused thread's slice. -/
def State.sliceEnd (s : State) : Nat :=
  let w := match s.launchOf s.thr.lid with
    | some l => l.weight
    | none => 1
  s.thr.slice + w * max s.host.regs.tslice.toNat 94000

/-- R367: the slice ends: a ready thread of the same priority pre-empts, or a new slice begins. -/
def execSliceExpiry (s : State) : Host.Outcome State Fault Refusal :=
  if !s.live || !s.isHead then noOccurrence s
  else
    let s := { s with cyc := max s.cyc s.sliceEnd }
    if s.contender (fun v => s.prioOf v.thr.lid == s.prioOf s.thr.lid) then s.preempted
    else .next { s with thr := { s.thr with slice := s.cyc } }

/-- R367: a head parked for more than WPARK cycles may be pre-empted by a ready thread of equal or higher priority that
finds no ring. -/
def execWparkExpiry (s : State) : Host.Outcome State Fault Refusal :=
  match s.cpu.park with
  | none => noOccurrence s
  | some p =>
    if !s.live || !s.isHead then noOccurrence s
    else
      let s := { s with cyc := max s.cyc (p.since + s.host.regs.wpark.toNat + 1) }
      if s.longParked s.cpu
          && s.contender (fun v => decide (s.prioOf s.thr.lid ≤ s.prioOf v.thr.lid) && (s.available v.thr).isEmpty) then s.preempted
      else .next s

/-- R367: how a running thread ranks as a victim of a ready one of priority p: parked first, then lowest priority, then the
slice that began last; none when it is no victim. -/
def State.victimRank (s : State) (p : Nat) (t : Thread) (head : Chunk) : Option (Nat × Nat × Nat) :=
  let q := s.prioOf t.lid
  if s.longParked head && decide (q ≤ p) then some (0, q, s.cyc - t.slice)
  else if q < p then some (1, q, s.cyc - t.slice)
  else none

/-- Lexicographic order of ranks. -/
def rankLt (a b : Nat × Nat × Nat) : Bool :=
  decide (a.1 < b.1) || (a.1 == b.1 && (decide (a.2.1 < b.2.1) || (a.2.1 == b.2.1 && decide (a.2.2 < b.2.2))))

/-- R367: the focused thread is the victim of a ready thread that finds no available ring. -/
def State.isVictimOf (s : State) (v : Saved) : Bool :=
  let p := s.prioOf v.thr.lid
  match s.victimRank p s.thr s.headChunk with
  | none => false
  | some mine =>
    (s.available v.thr).isEmpty
      && !(s.running.any (fun r => s.permits v.thr r.1 && (match s.victimRank p r.2.1 r.2.2 with
          | some k => rankLt k mine
          | none => false)))

/-- R345, R346, R367: the scheduler pre-empts the focused thread for a ready thread of higher priority. -/
def execPreempt (s : State) : Host.Outcome State Fault Refusal :=
  if s.live && s.isHead && s.contender s.isVictimOf then s.preempted else noOccurrence s

/-! ## yield and rexit (R233, R234) -/

/-- R234: a yield that another thread answers: X[D] := 1, and the thread is pre-empted at the boundary after it; where its chunk
ends there, or a request of its commands waits, once that chunk has committed (R222) and the request is served (R405). -/
def State.yieldTo (s : State) (d : Reg) : Res :=
  let t := (s.wx d 1).advance
  let u := (t.noteWrites [.x d]).settle s.cpu.pc
  let later : Res := .done { t with thr := { t.thr with leaving := true } }
  if u.cpu.ended || !u.canSave then later
  else match u.saveThread .ready with
    | .ok u => .gone u
    | .error _ => later

/-- R234: offers the ring: the thread is pre-empted after the yield when a thread of its priority or a higher one is ready. -/
def execYield (d : Reg) (s : State) : Host.Outcome State Fault Refusal :=
  issue { held := true, writes := [.x d] } noEarly
    (fun s =>
      let s := s.squashYounger
      if s.contender (fun v => decide (s.prioOf s.thr.lid ≤ s.prioOf v.thr.lid)) then s.yieldTo d
      else .done (s.wx d 0).advance) s

/-- R233, R365: the thread leaves its ring and ends with a code. -/
def State.exitThread (s : State) (code : Nat) : State := State.endThread s.vacate s.thr code

/-- R233: ends the thread, after the fence it performs. -/
def execRexit (a : Reg) (s : State) : Host.Outcome State Fault Refusal :=
  issue { held := true, reads := [.x a] } noEarly
    (fun s =>
      let s := if s.thr.region.isSome then s.closeRegion else s
      match oldestFault s.thr.cmds (fun _ => true) with
      | some c => .trap s causeEngfault c.ticket
      | none =>
        if s.copyBusy ∨ s.thr.unacked ≠ 0 then .wait s
        else match s.fenced 3 true true with
          | .error e => Res.ofStop s e
          | .ok t => .gone (t.exitThread ((s.rx a).toNat % 2 ^ 32))) s

/-! ## spawn (R232, R362) -/

/-- R362: what a spawn asks of the scheduler. -/
def State.spawnAdmit (s : State) (r : LaunchRec) : Admit :=
  let (q, tag) := s.launchTag s.thr.lid
  let own := match s.launchOf s.thr.lid with
    | some l => l.prio
    | none => 0
  { record := r, asid := s.thr.asid, cmd := s.thr.asid, root := s.thr.pgroot, tvec := if r.tvec = 0 then s.thr.tvec else r.tvec, sg := s.thr.sg
    prio := min r.prio own, det := r.flags.testBit 0 || statDet s.cpu.stat, queue := q, tag := tag
    parent := some (s.thr.lid, s.thr.tix, s.thr.spawns) }

/-- R362, R364: the offset that a spawn reports when Pronor cannot take the launch. -/
def spawnInfo (code detail : Nat) : Dword :=
  if code = stGroup then 0x18 else if code = stBadrec then BitVec.ofNat 64 detail else 0x68

/-- R232, R360: a spawn whose record may be judged: X[D] is the child's launch id, or all ones when no launch is free. That a bad record
is not judged while no launch is free, and that such a spawn does not count among those committed before a later one, is the model's
choice (log entry 100). -/
def State.spawnRecord (s : State) (d : Reg) (r : LaunchRec) : Res :=
  if 4096 ≤ s.host.launches.length then .done (s.wx d (BitVec.allOnes 64)).advance
  else match s.badRec r [s.thr.asid] none with
    | some off => .trap s causeIllstate (BitVec.ofNat 64 off)
    | none =>
      match s.admitLaunch (s.spawnAdmit r) with
      | .error .wait => .wait s
      | .error (.fail code detail t) => .trap t causeIllstate (spawnInfo code detail)
      | .ok (lid, t) => .done (State.advance (State.wx { t with thr := { t.thr with spawns := t.thr.spawns + 1 } } d (BitVec.ofNat 64 lid)))

/-- R232: creates a launch from a record in LS; a release at scope SYS. -/
def execSpawn (d a : Reg) (s : State) : Host.Outcome State Fault Refusal :=
  issue { held := true, reads := [.x a], writes := [.x d] } noEarly
    (fun s =>
      match s.readRecord (s.rx a) 256 64 with
      | .error e => Res.ofStop s e
      | .ok b =>
        let r : LaunchRec := { bytes := b }
        if !s.smode && (r.stat.getLsbD 0 || r.tvec != 0) then .trap s causePriv s.irInfo
        else match s.release 3 with
          | .error e => Res.ofStop s e
          | .ok t => t.spawnRecord d r) s

/-! ## Dependences (R364) -/

/-- R365, R372: every thread of a launch ends, with no exit event. -/
def State.endLaunch (s : State) (lid : Nat) : State :=
  let ts := s.threads.filter (fun t => t.lid == lid)
  (s.removeThreads (fun t => t.lid == lid)).endThreads ts 0

/-- R365: the threads of a launch become ready. -/
def State.readyThreads (s : State) (lid : Nat) : State :=
  { s with saved := s.saved.map (fun v =>
      if v.thr.lid = lid ∧ v.thr.st = .new then { v with thr := { v.thr with st := .ready } } else v) }

/-- R364: the dependences of a launch are read again: met ones go, and a failure ends the launch. -/
def execDependenceReread (lid : Nat) (s : State) : Host.Outcome State Fault Refusal :=
  match s.launchOf lid with
  | none => noOccurrence s
  | some l =>
    if l.deps.isEmpty || l.early.isSome then noOccurrence s
    else match s.unmetDeps l.root l.sg 0 l.deps with
      | .error (.wait, _) => noOccurrence s
      | .error (e, i) =>
        let s := match s.pronorStop l.cmd 0 e with
          | .fail _ _ t => t
          | .wait => s
        let ea := (l.deps.getD i (0, 0)).1
        .next ((s.post (eventRecord s 9 l.queue lid 0 0 0 0 ea l.tag)).endLaunch lid)
      | .ok (unmet, t) =>
        let t := { t with host := { t.host with launches := t.host.launches.map (fun (k : Launch) => if k.lid = lid then { k with deps := unmet } else k) } }
        .next (if unmet.isEmpty then t.readyThreads lid else t)

end Sys2Proof.Machine
end

