-- ==== Sys2Proof/Machine/Commands.lean ====
section
/-! DEFINITION. Pronor's commands (R357-R361): each runs when it is the fetched command of its queue.
-/

namespace Sys2Proof.Machine

/-! ## Running a command (R356-R358) -/

/-- How a command that passed its checks goes on. -/
inductive CmdRun where
  /-- Completes with OK and a detail. -/
  | done (detail : Nat) (s : State)
  /-- Completes with another status, or waits before its effect. -/
  | stop (e : CmdStop)
  /-- Started, and completes later (WAITEV). -/
  | later (s : State)

/-- R357: the first bad field among those before the payload. -/
def headBad (c : List Byte) : Option Nat :=
  if cmdFlags c / 4 ≠ 0 then some 1
  else if field c 2 2 / 4096 ≠ 0 then some 2
  else if field c 4 4 ≠ 0 then some 4
  else if cmdCen c && field c 8 8 % 16 != 0 then some 8
  else none

/-- R357: the first bad payload field of a list of (offset, bad). -/
def argBad (l : List (Nat × Bool)) : Option Nat := (l.find? (fun p => p.2)).map (fun p => 32 + p.1)

/-- R357: whether payload bytes from one offset to before another, which no row uses, are not zero. -/
def argZ (c : List Byte) (lo hi : Nat) : Nat × Bool := (lo, cmdArg c lo (hi - lo) != 0)

/-- R357: a command completes. -/
def State.endCommand (s : State) (q : Nat) (c : List Byte) (code detail : Nat) : State :=
  let s := s.setQueue { s.queue q with held := none }
  (s.complete c code detail).kick q

/-- R356-R358: the fetched command of a queue starts, when it is the one meant: BADCMD for a bad field, PERM for what a
non-privileged queue may not do, else its effect. R358 orders the first two nowhere: that BADCMD comes first is the model's choice (log
entry 105). -/
def command (q : Nat) (mine : List Byte → Bool) (priv : Bool) (args : List Byte → List (Nat × Bool))
    (run : Queue → List Byte → State → CmdRun) (s : State) : Host.Outcome State Fault Refusal :=
  let b := s.queue q
  match b.held with
  | none => noOccurrence s
  | some c =>
    if !mine c || !b.startable c then noOccurrence s
    else match (match headBad c with | some o => some o | none => argBad (args c)) with
      | some o => .next (s.endCommand q c stBadcmd o)
      | none =>
        if !b.priv && (priv || cmdAsid c != b.asid) then .next (s.endCommand q c stPerm 0)
        else match run b c s with
          | .done d t => .next (t.endCommand q c stOk d)
          | .stop (.fail code d t) => .next (t.endCommand q c code d)
          | .stop .wait => noOccurrence s
          | .later t =>
            let b := t.queue q
            .next (State.kick (t.setQueue { b with held := none, waits := b.waits ++ [c] }) q)

/-- R358: a command of one opcode. -/
def isOpc (n : Nat) (c : List Byte) : Bool := cmdOpc c == n

/-! ## LAUNCH (R360, R361) -/

/-- R361: the segment template of a queue, none when it cannot be read; a queue with PRIVQ = 1 uses none. -/
def State.template (s : State) (b : Queue) (asid : BitVec 12) : Except CmdStop (Option (Vector (Dword × Dword) 8) × State) :=
  if b.priv then .ok (none, s)
  else match s.pronorRead asid b.qsegs.toNat 128 0 with
  | .ok (t, s) => .ok (some (segsOf t 0), s)
  | .error (.fail _ _ t) => .ok (none, t)
  | .error .wait => .error .wait

/-- R361: whether a queue with PRIVQ = 0 refuses a record. -/
def launchRefused (b : Queue) (r : LaunchRec) (t : Option (Vector (Dword × Dword) 8)) : Bool :=
  r.asid % 4096 != b.asid.toNat || r.stat.getLsbD 0 || r.pgroot != 0 || r.tvec != 0 || b.qroot == 0 || b.qtvec == 0
    || (match t with
        | none => true
        | some v => (List.range 8).any (fun n => v.toList.getD n (0, 0) != (0, 0) && r.segs.toList.getD n (0, 0) != (0, 0)))

/-- R361: the segments of a launch from a queue with PRIVQ = 0. -/
def mergedSegs (r : LaunchRec) (t : Vector (Dword × Dword) 8) : Vector (Dword × Dword) 8 :=
  Vector.ofFn (fun n => if t.get n != (0, 0) then t.get n else r.segs.get n)

/-- R361: what a LAUNCH of a queue asks of the scheduler. -/
def launchAdmit (q : Nat) (b : Queue) (c : List Byte) (r : LaunchRec) (t : Option (Vector (Dword × Dword) 8)) : Admit :=
  let asid : BitVec 12 := BitVec.ofNat 12 r.asid
  { record := r, asid := asid, cmd := cmdAsid c, root := if b.priv then r.pgroot else b.qroot, tvec := if b.priv then r.tvec else b.qtvec
    sg := match t with | some v => mergedSegs r v | none => r.segs
    prio := r.prio, det := r.flags.testBit 0, queue := q, tag := cmdTag c, parent := none }

/-- R358, R360: the effect of LAUNCH, failures in the order of R358. -/
def runLaunch (q : Nat) (b : Queue) (c : List Byte) (s : State) : CmdRun :=
  if 4096 ≤ s.host.launches.length then .stop (.fail stNoent 0 s)
  else match s.pronorRead (cmdAsid c) (cmdArg c 0 8) 256 32 with
    | .error e => .stop e
    | .ok (bytes, s) =>
      let r : LaunchRec := { bytes := bytes }
      match s.badRec r (BitVec.ofNat 12 r.asid :: (if b.priv then [] else [b.asid])) (some b.pmax) with
      | some o => .stop (.fail stBadrec o s)
      | none =>
        match s.template b (cmdAsid c) with
        | .error e => .stop e
        | .ok (t, s) =>
          if !b.priv && launchRefused b r t then .stop (.fail stPerm 0 s)
          else match s.admitLaunch (launchAdmit q b c r t) with
            | .error e => .stop e
            | .ok (lid, s) => .done lid s

/-- R360: LAUNCH. -/
def execLaunch (queue : Nat) (s : State) : Host.Outcome State Fault Refusal :=
  command queue (isOpc 0x01) false (fun c => [(0, cmdArg c 0 8 % 64 != 0), argZ c 8 96]) (runLaunch queue) s

/-! ## SIGNAL and WAITEV -/

/-- R358: LID of a SIGNAL that names no thread. -/
def noThread : Nat := 0xFFFFFFFF

/-- R329, R358: HOSTIRQ of a thread is set, in its save block too. -/
def State.raiseHostirq (s : State) (lid tix : Nat) (v : Dword) : State :=
  let s := s.mapThread lid tix (fun t => { t with hostirq := some v })
  match s.saved.find? (fun w => w.thr.lid == lid && w.thr.tix == tix) with
  | some w =>
    match w.block with
    | some b =>
      let a := blockAddr b + 0x340 + 8 * 0x16
      s.homePut (plainWrite a [Memory.get s.mem a ||| 4] none (srcCode 1 w.thr.asid 0xFF))
    | none => s
  | none => s

/-- R358: the effect of SIGNAL. -/
def runSignal (_b : Queue) (c : List Byte) (s : State) : CmdRun :=
  let lid := cmdArg c 0 4
  let tix := cmdArg c 4 4
  let target := s.threads.find? (fun t => t.lid == lid && t.tix == tix)
  let refuse : Option Nat :=
    if lid = noThread then none
    else match target with
      | none => some stNoent
      | some t => if t.asid ≠ cmdAsid c then some stPerm else if t.hostirq.isSome then some stBusy else none
  match refuse with
  | some code => .stop (.fail code 0 s)
  | none =>
    let wrote := if cmdArg c 16 8 = 0 then Except.ok s
      else s.pronorWrite (cmdAsid c) (cmdArg c 16 8) (leBytes 8 (cmdArg c 24 8)) 48
    match wrote with
    | .error e => .stop e
    | .ok s => .done 0 (if lid = noThread then s else s.raiseHostirq lid tix (BitVec.ofNat 64 (cmdArg c 8 8)))

/-- R329, R358: SIGNAL. -/
def execSignal (queue : Nat) (s : State) : Host.Outcome State Fault Refusal :=
  command queue (isOpc 0x02) false (fun c => [argZ c 32 96]) runSignal s

/-- R358, R364: one read of a WAITEV's word. -/
def State.waitevMet (s : State) (c : List Byte) : Except CmdStop (Bool × State) :=
  match s.pronorRead (cmdAsid c) (cmdArg c 0 8) 8 32 with
  | .error e => .error e
  | .ok (b, s) => .ok (decide (cmdArg c 8 8 ≤ leNat b), s)

/-- R358: the effect of WAITEV: done at once when the word is there. -/
def runWaitev (_b : Queue) (c : List Byte) (s : State) : CmdRun :=
  match s.waitevMet c with
  | .error e => .stop e
  | .ok (true, s) => .done 0 s
  | .ok (false, s) => .later s

/-- R358: WAITEV. -/
def execWaitev (queue : Nat) (s : State) : Host.Outcome State Fault Refusal :=
  command queue (isOpc 0x03) false (fun c => [argZ c 16 96]) runWaitev s

/-- R364: a waiting WAITEV is read again; met or failed, it completes. -/
def State.waitevAgain (s : State) (q : Nat) (c : List Byte) : State :=
  let b := s.queue q
  let gone (t : State) : State := t.setQueue { t.queue q with waits := b.waits.erase c }
  match s.waitevMet c with
  | .error .wait => s
  | .error (.fail code d t) => ((gone t).complete c code d).kick q
  | .ok (true, t) => ((gone t).complete c stOk 0).kick q
  | .ok (false, t) => t

/-- R364: the words of a queue's waiting WAITEVs are read again. -/
def execWaitevReread (queue : Nat) (s : State) : Host.Outcome State Fault Refusal :=
  .next (((s.queue queue).waits.filter (isOpc 0x03)).foldl (fun s c => s.waitevAgain queue c) s)

/-! ## MAP, UNMAP and MIGRATE (R358, R359, R368) -/

/-- R368: the page of a leaf at this level lies in the reserved region, wholly or in part; a table is a page of level 3. -/
def State.namesReserved (s : State) (level base : Nat) : Bool :=
  match s.place base with
  | .hbm a => decide (a < Config.rsvBase + Config.rsvSize) && decide (Config.rsvBase < a + 2 ^ pageBits level)
  | _ => false

/-- R358: how the walk of MAP, UNMAP and MIGRATE ends: the entry's address, the entry and its level. -/
inductive Slot where
  | at_ (addr : Nat) (e : Dword) (level : Nat)
  /-- No pointer at this level. -/
  | missing (level : Nat)
  | stop (e : Stop)

/-- R358: walks from a table at a level down to the level asked for; with leafOk a leaf found on the way ends the walk. -/
def State.slotFrom (s : State) (va want : Nat) (leafOk : Bool) : Nat → Nat → Nat → Slot
  | 0, level, _ => .missing level
  | fuel + 1, level, table =>
    let addr := table + 8 * vaIndex level va
    match s.agentRead addr 8 with
    | .error e => .stop e
    | .ok (b, _) =>
      let e : Dword := BitVec.ofNat 64 (leNat b)
      if level = want then .at_ addr e level
      else if leafOk && pteV e && pteRights e && 2 ≤ level && !pteBad s level e then .at_ addr e level
      else if !pteV e || pteRights e || pteBad s level e then .missing level
      else s.slotFrom va want leafOk fuel (level + 1) (pteBase e)

/-- R114, R358: the shootdown of an entry's page; of a level-2 entry, of every page that it maps or that its table maps. -/
def State.pageShoot (s : State) (asid : BitVec 12) (level va : Nat) : Shootdown :=
  { client := 256, id := s.tick, asid := asid, all := false, vpn := va / 2 ^ 16, wide := decide (level = 2), left := [] }

/-- R114, R358: the page of an entry is shot down on every die. -/
def State.shootPage (s : State) (asid : BitVec 12) (level va : Nat) : State := s.shootAll (s.pageShoot asid level va)

/-- The table that PGROOT names. -/
def rootPa (c : List Byte) : Nat := bitsOf (cmdArg c 8 8) 16 36 * 2 ^ 16

/-- R115, R358: writes an entry: MAP shoots the page down first when the old entry was valid, UNMAP afterwards whatever it held. The command
waits while a die has accesses with an old translation to complete. -/
def State.putEntry (s : State) (c : List Byte) (addr : Nat) (old new : Dword) (level : Nat) (after : Bool) : CmdRun :=
  let va := cmdArg c 0 8 % 2 ^ 57
  if (pteV old || after) && !s.shootReady (s.pageShoot (cmdAsid c) level va) then .stop .wait
  else
  let s := if pteV old && !after then s.shootPage (cmdAsid c) level va else s
  match s.pronorWrite (cmdAsid c) addr (leBytes 8 new.toNat) 40 with
  | .error e => .stop e
  | .ok s => .done 0 (if after then s.shootPage (cmdAsid c) level va else s)

/-- R358: finds the entry that a command names, and goes on with it. -/
def State.withSlot (s : State) (c : List Byte) (want : Nat) (leafOk : Bool) (k : Nat → Dword → Nat → CmdRun) : CmdRun :=
  match s.slotFrom (cmdArg c 0 8 % 2 ^ 57) want leafOk 4 0 (rootPa c) with
  | .stop e => .stop (s.pronorStop (cmdAsid c) 40 e)
  | .missing level => .stop (.fail stNotable level s)
  | .at_ addr e level => k addr e level

/-- R358, R368: the effect of MAP. -/
def runMap (_b : Queue) (c : List Byte) (s : State) : CmdRun :=
  let leaf : Dword := BitVec.ofNat 64 (cmdArg c 16 8)
  let level := cmdArg c 24 1
  if !pteRep leaf && s.namesReserved (if pteRights leaf then level else 3) (pteBase leaf) then .stop (.fail stPerm 0 s)
  else s.withSlot c level false (fun addr e level => s.putEntry c addr e leaf level false)

/-- R358: MAP. -/
def execMap (queue : Nat) (s : State) : Host.Outcome State Fault Refusal :=
  command queue (isOpc 0x04) true
    (fun c => [(24, decide (cmdArg c 24 1 ≠ 2 ∧ cmdArg c 24 1 ≠ 3)), argZ c 25 96]) runMap s

/-- R358: the effect of UNMAP: V is cleared, then the page is shot down. -/
def runUnmap (_b : Queue) (c : List Byte) (s : State) : CmdRun :=
  s.withSlot c (cmdArg c 24 1) false (fun addr e level => s.putEntry c addr e (e &&& ~~~(1#64)) level true)

/-- R358: UNMAP. -/
def execUnmap (queue : Nat) (s : State) : Host.Outcome State Fault Refusal :=
  command queue (isOpc 0x05) true
    (fun c => [argZ c 16 24, (24, decide (cmdArg c 24 1 ≠ 2 ∧ cmdArg c 24 1 ≠ 3)), argZ c 25 96]) runUnmap s

/-- R359: a migration starts: its page is held and shot down on every die. -/
def State.startMove (s : State) (q : Nat) (c : List Byte) (f : Leaf) : State :=
  let t := { s with host := { s.host with moves := s.host.moves ++ [{ queue := q, cmd := c, leaf := f : Migration }] } }
  t.shootPage (cmdAsid c) f.level (cmdArg c 0 8 % 2 ^ 57)

/-- R359, R368: the start of MIGRATE: a REP leaf, and a NEWPA that is not the address of such a page, are bad fields; a malformed leaf, such as
one that names the reserved region, ends the walk as a missing one does; while four migrations run, or a die has accesses with an old
translation to complete (R115), it waits. -/
def runMigrate (q : Nat) (_b : Queue) (c : List Byte) (s : State) : CmdRun :=
  let dst := cmdArg c 16 8
  if 4 ≤ s.host.moves.length then .stop .wait
  else s.withSlot c 3 true (fun addr e level =>
    if !pteV e then .stop (.fail stNotable level s)
    else if pteRep e then .stop (.fail stBadcmd 32 s)
    else if pteBad s level e then .stop (.fail stNotable level s)
    else if dst % 2 ^ pageBits level ≠ 0 ∨ 2 ^ 52 ≤ dst then .stop (.fail stBadcmd 48 s)
    else if s.namesReserved level dst then .stop (.fail stPerm 0 s)
    else if !s.shootReady (s.pageShoot (cmdAsid c) level (cmdArg c 0 8 % 2 ^ 57)) then .stop .wait
    else .later (s.startMove q c { level := level, addr := addr, entry := e, rep := none, root := BitVec.ofNat 64 (rootPa c) }))

/-- R359: the end of a migration: the page is copied and its leaf rewritten; a lifted hold is the caller's. -/
def State.movePage (s : State) (c : List Byte) (f : Leaf) : Except CmdStop State :=
  let asid := cmdAsid c
  let dst := cmdArg c 16 8
  match s.pronorRead asid (pteBase f.entry) (2 ^ pageBits f.level) 32 with
  | .error e => .error e
  | .ok (bs, s) =>
    match s.pronorWrite asid dst bs 48 with
    | .error e => .error e
    | .ok s => s.pronorWrite asid f.addr (leBytes 8 (setField f.entry 16 36 (bitsOf dst 16 36)).toNat) 40

/-- R359: the hold of a migration is lifted and its command completes. -/
def State.endMove (s : State) (m : Migration) (code detail : Nat) : State :=
  let t := { s with host := { s.host with moves := s.host.moves.erase m } }
  let b := t.queue m.queue
  ((t.setQueue { b with waits := b.waits.erase m.cmd }).complete m.cmd code detail).kick m.queue

/-- R359: the oldest migration of a queue ends, when its page can be copied. -/
def State.finishMove (s : State) (m : Migration) : Host.Outcome State Fault Refusal :=
  match s.movePage m.cmd m.leaf with
  | .ok t => .next (t.endMove m stOk 0)
  | .error (.fail code detail t) => .next (t.endMove m code detail)
  | .error .wait => noOccurrence s

/-- R359: MIGRATE: the fetched command of the queue starts, or a migration of the queue ends; where both can happen a free value says
which (log entry 34). -/
def execMigrate (queue : Nat) (s : State) : Host.Outcome State Fault Refusal :=
  let begin := command queue (isOpc 0x06) true (fun c => [argZ c 24 96]) (runMigrate queue)
  match s.host.moves.find? (fun m => m.queue == queue) with
  | none => begin s
  | some m =>
    if (s.queue queue).held.any (isOpc 0x06) && s.host.moves.length < 4 && Config.migrateStarts s.tick then begin s else s.finishMove m

/-! ## COPY, QUERY, RESET, ATTEST and LOADIMG -/

/-- R368: a range touches the reserved region. -/
def State.touchesReserved (s : State) (pa n : Nat) : Bool :=
  match s.place pa with
  | .hbm a => decide (0 < n) && decide (a < Config.rsvBase + Config.rsvSize) && decide (Config.rsvBase < a + n)
  | _ => false

/-- R358: the effect of COPY: overlapping ranges leave free bytes in the destination (log entry 19). -/
def runCopy (_b : Queue) (c : List Byte) (s : State) : CmdRun :=
  let src := cmdArg c 0 8
  let dst := cmdArg c 8 8
  let n := cmdArg c 16 8
  if s.touchesReserved src n || s.touchesReserved dst n then .stop (.fail stPerm 0 s)
  else match s.pronorRead (cmdAsid c) src n 32 with
    | .error e => .stop e
    | .ok (bs, s) =>
      let bs := if src < dst + n ∧ dst < src + n then (List.range n).map (Config.copyOverlap s.tick) else bs
      match s.pronorWrite (cmdAsid c) dst bs 40 with
      | .error e => .stop e
      | .ok s => .done 0 s

/-- R358: COPY. -/
def execCopy (queue : Nat) (s : State) : Host.Outcome State Fault Refusal :=
  command queue (isOpc 0x07) true (fun c => [(16, decide (2 ^ 32 ≤ cmdArg c 16 8)), argZ c 24 96]) runCopy s

/-- R358: what a QUERY names is unknown, or is not of the command's address space on a non-privileged queue. -/
def State.queryRefused (s : State) (b : Queue) (c : List Byte) : Option Nat :=
  let other (asid : BitVec 12) : Option Nat := if !b.priv && asid != cmdAsid c then some stPerm else none
  match cmdArg c 0 1 with
  | 0 => none
  | 1 => match s.launchOf (cmdArg c 4 4) with
    | none => some stNoent
    | some l => other l.asid
  | _ => match s.threads.find? (fun t => t.lid == cmdArg c 4 4 && t.tix == cmdArg c 8 4) with
    | none => some stNoent
    | some t => other t.asid

/-- R365: the number of a thread's state. -/
def ThreadSt.code : ThreadSt → Nat
  | .new => 0
  | .ready => 1
  | .running => 2
  | .halted => 3

/-- The ring that a thread runs on, if it runs. -/
def State.ringOfThread (s : State) (t : Thread) : Option Nat :=
  (s.running.find? (fun r => r.2.1.lid == t.lid && r.2.1.tix == t.tix)).map (fun r => r.1)

/-- How many of some threads are in each state. -/
def stateCounts (l : List Thread) : List Nat :=
  [ThreadSt.new, .ready, .running, .halted].map (fun k => (l.filter (fun t => t.st == k)).length)

/-- R358, R403: what a QUERY reports: the state, or the counts of threads in each state, the ring id of a thread, and cyc; KIND 0 also
the retired pages. -/
def State.queryContents (s : State) (c : List Byte) : List Nat :=
  let kind := cmdArg c 0 1
  let of_ (p : Thread → Bool) : List Thread := s.threads.filter p
  let body : List Nat :=
    if kind = 0 then stateCounts s.threads ++ s.plat.retired
    else if kind = 1 then
      stateCounts (of_ (fun t => t.lid == cmdArg c 4 4)) ++ (match s.launchOf (cmdArg c 4 4) with | some l => [l.ended] | none => [])
    else match of_ (fun t => t.lid == cmdArg c 4 4 && t.tix == cmdArg c 8 4) with
      | t :: _ => [t.st.code, (s.ringOfThread t).getD Config.rings]
      | [] => []
  kind :: s.cyc :: body

/-- R358: the effect of QUERY: a report of 64 bytes, in which the spec lays no field out: each byte is a free function of the contents
(log entry 20). -/
def runQuery (b : Queue) (c : List Byte) (s : State) : CmdRun :=
  match s.queryRefused b c with
  | some code => .stop (.fail code 0 s)
  | none =>
    match s.pronorWrite (cmdAsid c) (cmdArg c 16 8) ((List.range 64).map (Config.queryByte (s.queryContents c))) 48 with
    | .error e => .stop e
    | .ok s => .done 0 s

/-- R358: QUERY. -/
def execQuery (queue : Nat) (s : State) : Host.Outcome State Fault Refusal :=
  command queue (isOpc 0x08) false
    (fun c => [(0, decide (2 < cmdArg c 0 1)), argZ c 1 4, argZ c 12 16, argZ c 24 96]) runQuery s

/-- R358: the payload of RESET. -/
def resetArgs (c : List Byte) : List (Nat × Bool) := [(0, decide (2 < cmdArg c 0 1)), argZ c 1 4, argZ c 8 96]

/-- R358, R365: the effect of RESET with SCOPE 0. -/
def runResetLaunch (b : Queue) (c : List Byte) (s : State) : CmdRun :=
  match s.launchOf (cmdArg c 4 4) with
  | none => .stop (.fail stNoent 0 s)
  | some l => if !b.priv && l.asid != cmdAsid c then .stop (.fail stPerm 0 s) else .done 0 (s.endLaunch (cmdArg c 4 4))

/-- R365: RESET with SCOPE 0, or with a SCOPE that is none. -/
def execResetLaunch (queue : Nat) (s : State) : Host.Outcome State Fault Refusal :=
  command queue (fun c => isOpc 0x09 c && (cmdArg c 0 1 == 0 || decide (2 < cmdArg c 0 1))) false resetArgs runResetLaunch s

/-- R407: the effect of RESET with SCOPE 1 or 2: a start, whose outcome the completion carries. -/
def runStart (cold : Bool) (fails : List (Nat × Nat)) (_b : Queue) (_c : List Byte) (s : State) : CmdRun :=
  let t := s.start cold fails
  if t.plat.started then .done 0 t else .stop (.fail stFailed (bitsOf (t.readMgmt 0).toNat 0 16) t)

/-- R406: RESET with SCOPE 1. -/
def execResetWarm (queue : Nat) (fails : List (Nat × Nat)) (s : State) : Host.Outcome State Fault Refusal :=
  command queue (fun c => isOpc 0x09 c && cmdArg c 0 1 == 1) true resetArgs (runStart false fails) s

/-- R406: RESET with SCOPE 2. -/
def execResetCold (queue : Nat) (fails : List (Nat × Nat)) (s : State) : Host.Outcome State Fault Refusal :=
  command queue (fun c => isOpc 0x09 c && cmdArg c 0 1 == 2) true resetArgs (runStart true fails) s

/-- R411: the effect of ATTEST. -/
def runAttest (_b : Queue) (c : List Byte) (s : State) : CmdRun :=
  match s.pronorRead (cmdAsid c) (cmdArg c 0 8) (cmdArg c 8 8) 32 with
  | .error e => .stop e
  | .ok (req, s) =>
    let (rsp, s) := s.spdm true req
    if cmdArg c 24 8 < rsp.length then .stop (.fail stBadcmd 56 s)
    else match s.pronorWrite (cmdAsid c) (cmdArg c 16 8) rsp 48 with
      | .error e => .stop e
      | .ok s => .done rsp.length s

/-- R411: ATTEST. -/
def execAttest (queue : Nat) (s : State) : Host.Outcome State Fault Refusal :=
  command queue (isOpc 0x0A) false
    (fun c => [(8, decide (cmdArg c 8 8 < 4 ∨ 4096 < cmdArg c 8 8)), argZ c 32 96]) runAttest s

/-- R358, R166-R172: the effect of LOADIMG. -/
def runLoadimg (_b : Queue) (c : List Byte) (s : State) : CmdRun :=
  match s.freshHandle with
  | none => .stop (.fail stNoent 0 s)
  | some h =>
    match s.pronorRead (cmdAsid c) (cmdArg c 0 8) (cmdArg c 8 8) 32 with
    | .error e => .stop e
    | .ok (f, s) =>
      match ikxParse f with
      | .error i => .stop (.fail stImgfail i s)
      | .ok x =>
        let root : Dword := BitVec.ofNat 64 (bitsOf (cmdArg c 16 8) 16 36 * 2 ^ 16)
        match s.placeSections (cmdAsid c) root (cmdArg c 24 8 % 2 ^ 57) x.secs with
        | .error e => .stop (s.pronorStop (cmdAsid c) 56 e)
        | .ok s =>
          .done h { s with host := { s.host with images := s.host.images ++
            [x.image h (cmdAsid c) root (BitVec.ofNat 64 (cmdArg c 24 8))] } }

/-- R358: LOADIMG. -/
def execLoadimg (queue : Nat) (s : State) : Host.Outcome State Fault Refusal :=
  command queue (isOpc 0x0B) false (fun c => [argZ c 32 96]) runLoadimg s

end Sys2Proof.Machine
end

