-- ==== Sys2Proof/Machine/FpScalar.lean ====
section
/-! DEFINITION. Scalar floating point: majors 0x0D and 0x0E (R184-R189).
-/

namespace Sys2Proof.Machine

/-- R184: the format of a width code. -/
def scalarFmt (w : BitVec 2) : Fmt := if w = 0 then fp32 else if w = 1 then fp64 else if w = 2 then bf16 else fp16

/-- R184: X[n] read at a format's width. -/
def State.rf (s : State) (f : Fmt) (n : Reg) : Nat := (s.rx n).toNat % 2 ^ f.width

/-- R184, R189: writes a result and its flags. -/
def State.wf (s : State) (d : Reg) (r : Nat × BitVec 7) : State := ((s.wx d (BitVec.ofNat 64 r.1)).addFlags r.2).advance

/-- R185, R189: a scalar FP instruction of latency one turn, with the check of its rounding mode. -/
def scalarFp (d : Reg) (reads : List RegName) (check : State → Option (Byte × Dword)) (f : State → Nat × BitVec 7) (s : State) :
    Host.Outcome State Fault Refusal :=
  issue { reads := reads, writes := [.x d] } check (fun s => .done (s.wf d (f s))) s

/-- R175: the interlocked forms. -/
def longFp (d : Reg) (reads : List RegName) (check : State → Option (Byte × Dword)) (f : State → Nat × BitVec 7) (s : State) :
    Host.Outcome State Fault Refusal :=
  issue { reads := reads, writes := [.x d], flight := some .long } check (fun s => .done (s.wf d (f s))) s

/-- R75: a comparison's result as a 64-bit integer. -/
def boolFp (r : Bool × BitVec 7) : Nat × BitVec 7 := (r.1.toNat, r.2)

/-- R188: the mode is stat.FRM. -/
def frmCheck (s : State) : Option (Byte × Dword) := scalarModeCheck 7 s

/-- R188: a fused form. -/
def scalarFma (d a b c : Reg) (w : BitVec 2) (np na : Bool) (s : State) : Host.Outcome State Fault Refusal :=
  scalarFp d ([.x a, .x b, .x c] ++ roundReads 7) frmCheck
    (fun s => (scalarFmt w).fma (s.scalarRnd 7) np na (s.rf (scalarFmt w) a) (s.rf (scalarFmt w) b) (s.rf (scalarFmt w) c)) s

/-- R187: the width in bits of an integer kind. -/
def kindBits (k : BitVec 2) : Nat := if k = 0 ∨ k = 1 then 64 else 32

/-- R187: whether an integer kind is signed. -/
def kindSigned (k : BitVec 2) : Bool := k == 0 || k == 2

/-- R187: an integer of a kind, read from a register. -/
def kindValue (k : BitVec 2) (v : Dword) : Int :=
  if kindSigned k then signed (kindBits k) v.toNat else ((v.toNat % 2 ^ kindBits k : Nat) : Int)

/-- R187: the written form of a converted integer: w and wu are Sext and Zext of 32 bits. -/
def kindResult (k : BitVec 2) (r : Nat × BitVec 7) : Nat × BitVec 7 :=
  (if k = 2 then wrap 64 (signed 32 r.1) else r.1, r.2)

/-- R186: Round(a + b). -/
def execFadd (d a b : Reg) (r : BitVec 3) (w : BitVec 2) (s : State) : Host.Outcome State Fault Refusal :=
  scalarFp d ([.x a, .x b] ++ roundReads r) (scalarModeCheck r)
    (fun s => (scalarFmt w).add (s.scalarRnd r) (s.rf (scalarFmt w) a) (s.rf (scalarFmt w) b)) s

/-- R186: Round(a - b). -/
def execFsub (d a b : Reg) (r : BitVec 3) (w : BitVec 2) (s : State) : Host.Outcome State Fault Refusal :=
  scalarFp d ([.x a, .x b] ++ roundReads r) (scalarModeCheck r)
    (fun s => (scalarFmt w).sub (s.scalarRnd r) (s.rf (scalarFmt w) a) (s.rf (scalarFmt w) b)) s

/-- R186: Round(a x b). -/
def execFmul (d a b : Reg) (r : BitVec 3) (w : BitVec 2) (s : State) : Host.Outcome State Fault Refusal :=
  scalarFp d ([.x a, .x b] ++ roundReads r) (scalarModeCheck r)
    (fun s => (scalarFmt w).mul (s.scalarRnd r) (s.rf (scalarFmt w) a) (s.rf (scalarFmt w) b)) s

/-- R186: Round(a / b), interlocked. -/
def execFdiv (d a b : Reg) (r : BitVec 3) (w : BitVec 2) (s : State) : Host.Outcome State Fault Refusal :=
  longFp d ([.x a, .x b] ++ roundReads r) (scalarModeCheck r)
    (fun s => (scalarFmt w).div (s.scalarRnd r) (s.rf (scalarFmt w) a) (s.rf (scalarFmt w) b)) s

/-- R186: Round(sqrt a), interlocked. -/
def execFsqrt (d a : Reg) (r : BitVec 3) (w : BitVec 2) (s : State) : Host.Outcome State Fault Refusal :=
  longFp d ([.x a] ++ roundReads r) (scalarModeCheck r)
    (fun s => (scalarFmt w).sqrt (s.scalarRnd r) (s.rf (scalarFmt w) a)) s

/-- R186, R75: minimum. -/
def execFmin (d a b : Reg) (w : BitVec 2) (s : State) : Host.Outcome State Fault Refusal :=
  scalarFp d [.x a, .x b] noEarly (fun s => (scalarFmt w).minMax false (s.rf (scalarFmt w) a) (s.rf (scalarFmt w) b)) s

/-- R186, R75: maximum. -/
def execFmax (d a b : Reg) (w : BitVec 2) (s : State) : Host.Outcome State Fault Refusal :=
  scalarFp d [.x a, .x b] noEarly (fun s => (scalarFmt w).minMax true (s.rf (scalarFmt w) a) (s.rf (scalarFmt w) b)) s

/-- R186, R75: a = b. -/
def execFeq (d a b : Reg) (w : BitVec 2) (s : State) : Host.Outcome State Fault Refusal :=
  scalarFp d [.x a, .x b] noEarly (fun s => boolFp ((scalarFmt w).eq (s.rf (scalarFmt w) a) (s.rf (scalarFmt w) b))) s

/-- R186, R75: a < b. -/
def execFlt (d a b : Reg) (w : BitVec 2) (s : State) : Host.Outcome State Fault Refusal :=
  scalarFp d [.x a, .x b] noEarly (fun s => boolFp ((scalarFmt w).lt (s.rf (scalarFmt w) a) (s.rf (scalarFmt w) b))) s

/-- R186, R75: a <= b. -/
def execFle (d a b : Reg) (w : BitVec 2) (s : State) : Host.Outcome State Fault Refusal :=
  scalarFp d [.x a, .x b] noEarly (fun s => boolFp ((scalarFmt w).le (s.rf (scalarFmt w) a) (s.rf (scalarFmt w) b))) s

/-- R61, R186: the class mask; it sets no flag. -/
def execFclass (d a : Reg) (w : BitVec 2) (s : State) : Host.Outcome State Fault Refusal :=
  scalarFp d [.x a] noEarly (fun s => ((scalarFmt w).fclass (s.rf (scalarFmt w) a), 0)) s

/-- R187, R71: to an integer kind. -/
def execFcvtI (d a : Reg) (r : BitVec 3) (k w : BitVec 2) (s : State) : Host.Outcome State Fault Refusal :=
  scalarFp d ([.x a] ++ roundReads r) (scalarModeCheck r)
    (fun s => kindResult k (toInt (scalarFmt w) (s.scalarRnd r) (kindBits k) (kindSigned k) (s.rf (scalarFmt w) a))) s

/-- R187, R72: from an integer kind. -/
def execFcvtF (d a : Reg) (r : BitVec 3) (k w : BitVec 2) (s : State) : Host.Outcome State Fault Refusal :=
  scalarFp d ([.x a] ++ roundReads r) (scalarModeCheck r)
    (fun s => ofIntFmt (scalarFmt w) (s.scalarRnd r) (kindValue k (s.rx a))) s

/-- R187, R70: from the width in C to the width in FN. -/
def execFcvtW (d a : Reg) (r : BitVec 3) (c w : BitVec 2) (s : State) : Host.Outcome State Fault Refusal :=
  scalarFp d ([.x a] ++ roundReads r) (scalarModeCheck r)
    (fun s => convFmt (scalarFmt c) (scalarFmt w) (s.scalarRnd r) (s.rf (scalarFmt c) a)) s

/-- R188: a x b + c. -/
def execFma (d a b c : Reg) (w : BitVec 2) (s : State) : Host.Outcome State Fault Refusal := scalarFma d a b c w false false s

/-- R188: a x b - c. -/
def execFms (d a b c : Reg) (w : BitVec 2) (s : State) : Host.Outcome State Fault Refusal := scalarFma d a b c w false true s

/-- R188: -a x b - c. -/
def execFnma (d a b c : Reg) (w : BitVec 2) (s : State) : Host.Outcome State Fault Refusal := scalarFma d a b c w true true s

/-- R188: -a x b + c. -/
def execFnms (d a b c : Reg) (w : BitVec 2) (s : State) : Host.Outcome State Fault Refusal := scalarFma d a b c w true false s

end Sys2Proof.Machine
end

