-- ==== Sys2Proof/Machine/VectorInt.lean ====
section
/-! DEFINITION. Integer vector instructions (R249-R251), the mask operations (R248), setvl (R241) and vdead (R243).
-/

namespace Sys2Proof.Machine

/-! ## Shapes -/

/-- R249: an element-wise integer operation at width e: op takes the width in bits, a and b. -/
def vecInt (lat : Nat) (e : BitVec 2) (d a b : Reg) (f k t : BitVec 2) (op : Nat → Nat → Nat → Nat) (s : State) :
    Host.Outcome State Fault Refusal :=
  issue { reads := vecReads k ++ [.v a] ++ formReads f b, writes := [.v d, .vstart], lat := lat, st := t } noEarly
    (fun s =>
      let w := ewBits e
      .done (s.vput w (s.elems w) d k (fun i => op w (velem w (s.rv a) i) (s.formInt f b w i))).vdone) s

/-- R250: a compare into a mask register. -/
def vecCmp (e : BitVec 2) (d : KIdx) (a b : Reg) (f k t : BitVec 2) (op : Nat → Nat → Nat → Bool) (s : State) :
    Host.Outcome State Fault Refusal :=
  issue { reads := vecReads k ++ [.v a] ++ formReads f b, writes := [.k d, .vstart], lat := 2, st := t } noEarly
    (fun s =>
      let w := ewBits e
      .done (s.kput (s.elems w) d k (fun i => op w (velem w (s.rv a) i) (s.formInt f b w i))).vdone) s

/-! ## Majors 0x30 to 0x33 -/

/-- R249: a + b. -/
def execVadd (e : BitVec 2) (d a b : Reg) (f k t : BitVec 2) (s : State) : Host.Outcome State Fault Refusal :=
  vecInt 2 e d a b f k t (fun _ a b => a + b) s

/-- R249: a - b. -/
def execVsub (e : BitVec 2) (d a b : Reg) (f k t : BitVec 2) (s : State) : Host.Outcome State Fault Refusal :=
  vecInt 2 e d a b f k t (fun w a b => wrap w ((a : Int) - b)) s

/-- R249: b - a. -/
def execVrsub (e : BitVec 2) (d a b : Reg) (f k t : BitVec 2) (s : State) : Host.Outcome State Fault Refusal :=
  vecInt 2 e d a b f k t (fun w a b => wrap w ((b : Int) - a)) s

/-- R249: a × b. -/
def execVmul (e : BitVec 2) (d a b : Reg) (f k t : BitVec 2) (s : State) : Host.Outcome State Fault Refusal :=
  vecInt 3 e d a b f k t (fun _ a b => a * b) s

/-- R249: Floor(s(a) × s(b) ÷ 2^w). -/
def execVmulh (e : BitVec 2) (d a b : Reg) (f k t : BitVec 2) (s : State) : Host.Outcome State Fault Refusal :=
  vecInt 3 e d a b f k t (fun w a b => wrap w (signed w a * signed w b / (2 ^ w : Nat))) s

/-- R249: Floor(a × b ÷ 2^w). -/
def execVmulhu (e : BitVec 2) (d a b : Reg) (f k t : BitVec 2) (s : State) : Host.Outcome State Fault Refusal :=
  vecInt 3 e d a b f k t (fun w a b => a * b / 2 ^ w) s

/-- R249: d + a × b. -/
def execVmacc (e : BitVec 2) (d a b : Reg) (f k t : BitVec 2) (s : State) : Host.Outcome State Fault Refusal :=
  issue { reads := vecReads k ++ [.v a, .v d] ++ formReads f b, writes := [.v d, .vstart], lat := 3, st := t } noEarly
    (fun s =>
      let w := ewBits e
      .done (s.vput w (s.elems w) d k
        (fun i => velem w (s.rv d) i + velem w (s.rv a) i * s.formInt f b w i)).vdone) s

/-- R249: a AND b. -/
def execVand (e : BitVec 2) (d a b : Reg) (f k t : BitVec 2) (s : State) : Host.Outcome State Fault Refusal :=
  vecInt 2 e d a b f k t (fun _ a b => a &&& b) s

/-- R249: a OR b. -/
def execVor (e : BitVec 2) (d a b : Reg) (f k t : BitVec 2) (s : State) : Host.Outcome State Fault Refusal :=
  vecInt 2 e d a b f k t (fun _ a b => a ||| b) s

/-- R249: a XOR b. -/
def execVxor (e : BitVec 2) (d a b : Reg) (f k t : BitVec 2) (s : State) : Host.Outcome State Fault Refusal :=
  vecInt 2 e d a b f k t (fun _ a b => a ^^^ b) s

/-- R249: a × 2^sh. -/
def execVsll (e : BitVec 2) (d a b : Reg) (f k t : BitVec 2) (s : State) : Host.Outcome State Fault Refusal :=
  vecInt 2 e d a b f k t (fun w a b => a * 2 ^ (b % w)) s

/-- R249: Floor(a ÷ 2^sh). -/
def execVsrl (e : BitVec 2) (d a b : Reg) (f k t : BitVec 2) (s : State) : Host.Outcome State Fault Refusal :=
  vecInt 2 e d a b f k t (fun w a b => a / 2 ^ (b % w)) s

/-- R249: Floor(s(a) ÷ 2^sh). -/
def execVsra (e : BitVec 2) (d a b : Reg) (f k t : BitVec 2) (s : State) : Host.Outcome State Fault Refusal :=
  vecInt 2 e d a b f k t (fun w a b => wrap w (signed w a / (2 ^ (b % w) : Nat))) s

/-- R249: the smaller of s(a) and s(b). -/
def execVmin (e : BitVec 2) (d a b : Reg) (f k t : BitVec 2) (s : State) : Host.Outcome State Fault Refusal :=
  vecInt 2 e d a b f k t (fun w a b => if signed w b < signed w a then b else a) s

/-- R249: the larger of s(a) and s(b). -/
def execVmax (e : BitVec 2) (d a b : Reg) (f k t : BitVec 2) (s : State) : Host.Outcome State Fault Refusal :=
  vecInt 2 e d a b f k t (fun w a b => if signed w a < signed w b then b else a) s

/-- R249: the smaller of a and b. -/
def execVminu (e : BitVec 2) (d a b : Reg) (f k t : BitVec 2) (s : State) : Host.Outcome State Fault Refusal :=
  vecInt 2 e d a b f k t (fun _ a b => min a b) s

/-- R249: the larger of a and b. -/
def execVmaxu (e : BitVec 2) (d a b : Reg) (f k t : BitVec 2) (s : State) : Host.Outcome State Fault Refusal :=
  vecInt 2 e d a b f k t (fun _ a b => max a b) s

/-- R249: SatS(s(a) + s(b), w). -/
def execVsadd (e : BitVec 2) (d a b : Reg) (f k t : BitVec 2) (s : State) : Host.Outcome State Fault Refusal :=
  vecInt 2 e d a b f k t (fun w a b => wrap w (satS w (signed w a + signed w b))) s

/-- R249: SatU(a + b, w). -/
def execVsaddu (e : BitVec 2) (d a b : Reg) (f k t : BitVec 2) (s : State) : Host.Outcome State Fault Refusal :=
  vecInt 2 e d a b f k t (fun w a b => wrap w (satU w ((a : Int) + b))) s

/-- R249: SatS(s(a) - s(b), w). -/
def execVssub (e : BitVec 2) (d a b : Reg) (f k t : BitVec 2) (s : State) : Host.Outcome State Fault Refusal :=
  vecInt 2 e d a b f k t (fun w a b => wrap w (satS w (signed w a - signed w b))) s

/-- R249: SatU(a - b, w). -/
def execVssubu (e : BitVec 2) (d a b : Reg) (f k t : BitVec 2) (s : State) : Host.Outcome State Fault Refusal :=
  vecInt 2 e d a b f k t (fun w a b => wrap w (satU w ((a : Int) - b))) s

/-- R249: |s(a)|; the most negative number gives itself. -/
def execVabs (e : BitVec 2) (d a : Reg) (k t : BitVec 2) (s : State) : Host.Outcome State Fault Refusal :=
  issue { reads := vecReads k ++ [.v a], writes := [.v d, .vstart], lat := 2, st := t } noEarly
    (fun s =>
      let w := ewBits e
      .done (s.vput w (s.elems w) d k (fun i => (signed w (velem w (s.rv a) i)).natAbs)).vdone) s

/-- R249: b. -/
def execVmv (e : BitVec 2) (d b : Reg) (f k t : BitVec 2) (s : State) : Host.Outcome State Fault Refusal :=
  issue { reads := vecReads k ++ formReads f b, writes := [.v d, .vstart], lat := 2, st := t } noEarly
    (fun s =>
      let w := ewBits e
      .done (s.vput w (s.elems w) d k (fun i => s.formInt f b w i)).vdone) s

/-- R250: a = b. -/
def execVceq (e : BitVec 2) (d : KIdx) (a b : Reg) (f k t : BitVec 2) (s : State) : Host.Outcome State Fault Refusal :=
  vecCmp e d a b f k t (fun _ a b => a == b) s

/-- R250: a differs from b. -/
def execVcne (e : BitVec 2) (d : KIdx) (a b : Reg) (f k t : BitVec 2) (s : State) : Host.Outcome State Fault Refusal :=
  vecCmp e d a b f k t (fun _ a b => a != b) s

/-- R250: s(a) < s(b). -/
def execVclt (e : BitVec 2) (d : KIdx) (a b : Reg) (f k t : BitVec 2) (s : State) : Host.Outcome State Fault Refusal :=
  vecCmp e d a b f k t (fun w a b => decide (signed w a < signed w b)) s

/-- R250: s(a) ≤ s(b). -/
def execVcle (e : BitVec 2) (d : KIdx) (a b : Reg) (f k t : BitVec 2) (s : State) : Host.Outcome State Fault Refusal :=
  vecCmp e d a b f k t (fun w a b => decide (signed w a ≤ signed w b)) s

/-- R250: a < b. -/
def execVcltu (e : BitVec 2) (d : KIdx) (a b : Reg) (f k t : BitVec 2) (s : State) : Host.Outcome State Fault Refusal :=
  vecCmp e d a b f k t (fun _ a b => decide (a < b)) s

/-- R250: a ≤ b. -/
def execVcleu (e : BitVec 2) (d : KIdx) (a b : Reg) (f k t : BitVec 2) (s : State) : Host.Outcome State Fault Refusal :=
  vecCmp e d a b f k t (fun _ a b => decide (a ≤ b)) s

/-- R251: shifts and saturates each element to half the width. -/
def execVnarrow (e : BitVec 2) (d a b : Reg) (f k t : BitVec 2) (s : State) : Host.Outcome State Fault Refusal :=
  issue { reads := vecReads k ++ [.v a] ++ formReads f b, writes := [.v d, .vstart], lat := 3, st := t } noEarly
    (fun s =>
      let w := ewBits e
      .done (s.vput (w / 2) (s.elems w) d k (fun i =>
        wrap (w / 2) (satS (w / 2) (signed w (velem w (s.rv a) i) / (2 ^ (s.formInt f b w i % w) : Nat))))).vdone) s

/-- R251: sign-extends each element to double the width. -/
def execVwiden (e : BitVec 2) (d a : Reg) (k t : BitVec 2) (s : State) : Host.Outcome State Fault Refusal :=
  issue { reads := vecReads k ++ [.v a], writes := [.v d, .vstart], lat := 3, st := t } noEarly
    (fun s =>
      let w := ewBits e
      .done (s.vput (2 * w) (s.elems (2 * w)) d k (fun i => wrap (2 * w) (signed w (velem w (s.rv a) i)))).vdone) s

/-! ## Major 0x38 -/

/-- R248: a mask operation on whole mask registers. -/
def maskOp (d : KIdx) (reads : List RegName) (f : State → KReg) (s : State) : Host.Outcome State Fault Refusal :=
  issue { reads := reads, writes := [.k d] } noEarly (fun s => .done (s.wk d (f s)).advance) s

/-- R248: K[A] AND K[B]. -/
def execKand (d a b : KIdx) (s : State) : Host.Outcome State Fault Refusal := maskOp d [.k a, .k b] (fun s => s.rk a &&& s.rk b) s

/-- R248: K[A] OR K[B]. -/
def execKor (d a b : KIdx) (s : State) : Host.Outcome State Fault Refusal := maskOp d [.k a, .k b] (fun s => s.rk a ||| s.rk b) s

/-- R248: K[A] XOR K[B]. -/
def execKxor (d a b : KIdx) (s : State) : Host.Outcome State Fault Refusal := maskOp d [.k a, .k b] (fun s => s.rk a ^^^ s.rk b) s

/-- R248: NOT K[A]. -/
def execKnot (d a : KIdx) (s : State) : Host.Outcome State Fault Refusal := maskOp d [.k a] (fun s => ~~~s.rk a) s

/-- R248: K[A]. -/
def execKmov (d a : KIdx) (s : State) : Host.Outcome State Fault Refusal := maskOp d [.k a] (fun s => s.rk a) s

/-- R248: the limit of kpop and kfirst. -/
def State.maskLimit (s : State) : Nat := min s.cpu.vl.toNat 512

/-- R248: set bits below Min(vl, 512). -/
def execKpop (d : Reg) (a : KIdx) (s : State) : Host.Outcome State Fault Refusal :=
  issue { reads := [.k a, .vl], writes := [.x d] } noEarly
    (fun s => .done (s.wx d (BitVec.ofNat 64 (((List.range s.maskLimit).filter (fun i => (s.rk a).getLsbD i)).length))).advance) s

/-- R248: the lowest set bit below Min(vl, 512), or 2^64 - 1. -/
def execKfirst (d : Reg) (a : KIdx) (s : State) : Host.Outcome State Fault Refusal :=
  issue { reads := [.k a, .vl], writes := [.x d] } noEarly
    (fun s =>
      let v : Dword := match (List.range s.maskLimit).find? (fun i => (s.rk a).getLsbD i) with
        | some i => BitVec.ofNat 64 i
        | none => BitVec.allOnes 64
      .done (s.wx d v).advance) s

/-- R248: 64 bits of a mask register replaced. -/
def maskSet (m : KReg) (j : Nat) (v : Dword) : KReg :=
  (m &&& ~~~((BitVec.allOnes 64).setWidth 512 <<< (64 * j))) ||| (v.setWidth 512 <<< (64 * j))

/-- R248: writes 64 bits of a mask register. The other bits that it keeps make it a consumer of K[D] for R153-R155 (log entry
69). -/
def execKset (d : KIdx) (a b : Reg) (s : State) : Host.Outcome State Fault Refusal :=
  issue { reads := [.x a, .x b, .k d], writes := [.k d] } noEarly
    (fun s => .done (s.wk d (maskSet (s.rk d) (bitsOf (s.rx b).toNat 0 3) (s.rx a))).advance) s

/-- R248: reads 64 bits of a mask register. -/
def execKget (d : Reg) (a : KIdx) (b : Reg) (s : State) : Host.Outcome State Fault Refusal :=
  issue { reads := [.k a, .x b], writes := [.x d] } noEarly
    (fun s => .done (s.wx d ((s.rk a >>> (64 * bitsOf (s.rx b).toNat 0 3)).setWidth 64)).advance) s

/-- R241: vl := Min(X[A], cap), vew := ew, X[D] := vl. -/
def execSetvl (d a b : Reg) (s : State) : Host.Outcome State Fault Refusal :=
  issue { reads := [.x a, .x b], writes := [.x d, .vl, .vew] } noEarly
    (fun s =>
      let ew := bitsOf (s.rx b).toNat 0 2
      let cap := 4096 / (8 * 2 ^ ew) / 2 ^ bitsOf s.pwrgrant.toNat 0 2
      let n := min (s.rx a).toNat cap
      .done (State.advance (State.wx { s with cpu := { s.cpu with vl := BitVec.ofNat 10 n, vew := BitVec.ofNat 2 ew } } d
        (BitVec.ofNat 64 n)))) s

/-- R243: every vector register reads zero and is marked dead. -/
def execVdead (s : State) : Host.Outcome State Fault Refusal :=
  issue { writes := allVectors } noEarly
    (fun s => .done (State.advance { s with cpu := { s.cpu with v := Vector.replicate 32 0, vdead := BitVec.allOnes 32 } })) s

end Sys2Proof.Machine
end

