-- ==== Sys2Proof/Machine/VectorFp.lean ====
section
/-! DEFINITION. Floating-point vector instructions (R252), conversions (R253), quantisation (R254, R255) and packing (R256).
-/

namespace Sys2Proof.Machine

/-! ## Shapes -/

/-- What a rounding under stat.VRM reads (R240). -/
def vrmReads : List RegName := [.vrm, .sbase, .seed]

/-- Writes the active elements below e and ORs their flags (R78, R237). -/
def State.vputFp (s : State) (w e : Nat) (d : Reg) (k : BitVec 2) (f : Nat → Nat × BitVec 7) : State :=
  (s.vput w e d k (fun i => (f i).1)).addFlags (orFlags (s.active k e) (fun i => (f i).2) e)

/-- R252: a binary operation that rounds: op takes the format, the rounding, a, b and the old d. -/
def vecFp (lat : Nat) (e : BitVec 2) (d a b : Reg) (f k t : BitVec 2) (more : List RegName)
    (op : Fmt → Rnd → Nat → Nat → Nat → Nat × BitVec 7) (s : State) : Host.Outcome State Fault Refusal :=
  issue { reads := vecReads k ++ [.v a] ++ more ++ formReads f b ++ vrmReads, writes := [.v d, .vstart], lat := lat, st := t }
    vrmCheck
    (fun s =>
      let m := fpFmt e
      .done (s.vputFp m.width (s.elems m.width) d k (fun i =>
        op m (s.vecRnd i) (velem m.width (s.rv a) i) (s.formFp f b m i) (velem m.width (s.rv d) i))).vdone) s

/-- R252: an operation on a and b that does not round. -/
def vecFpExact (lat : Nat) (e : BitVec 2) (d a b : Reg) (f k t : BitVec 2) (op : Fmt → Nat → Nat → Nat × BitVec 7) (s : State) :
    Host.Outcome State Fault Refusal :=
  issue { reads := vecReads k ++ [.v a] ++ formReads f b, writes := [.v d, .vstart], lat := lat, st := t } noEarly
    (fun s =>
      let m := fpFmt e
      .done (s.vputFp m.width (s.elems m.width) d k (fun i => op m (velem m.width (s.rv a) i) (s.formFp f b m i))).vdone) s

/-- R252: a unary operation that does not read VRM. -/
def vecFpUnary (lat : Nat) (e : BitVec 2) (d a : Reg) (k t : BitVec 2) (op : Fmt → Nat → Nat × BitVec 7) (s : State) :
    Host.Outcome State Fault Refusal :=
  issue { reads := vecReads k ++ [.v a], writes := [.v d, .vstart], lat := lat, st := t } noEarly
    (fun s =>
      let m := fpFmt e
      .done (s.vputFp m.width (s.elems m.width) d k (fun i => op m (velem m.width (s.rv a) i))).vdone) s

/-- R250, R252: an FP compare into a mask register. -/
def vecFpCmp (e : BitVec 2) (d : KIdx) (a b : Reg) (f k t : BitVec 2) (op : Fmt → Nat → Nat → Bool × BitVec 7) (s : State) :
    Host.Outcome State Fault Refusal :=
  issue { reads := vecReads k ++ [.v a] ++ formReads f b, writes := [.k d, .vstart], lat := 2, st := t } noEarly
    (fun s =>
      let m := fpFmt e
      let n := s.elems m.width
      let r (i : Nat) : Bool × BitVec 7 := op m (velem m.width (s.rv a) i) (s.formFp f b m i)
      .done ((s.kput n d k (fun i => (r i).1)).addFlags (orFlags (s.active k n) (fun i => (r i).2) n)).vdone) s

/-- R245: the latency of the rounding arithmetic. -/
def fpLat (e : BitVec 2) : Nat := if e = 2 then 4 else 3

/-- R245: the latency of an estimate. -/
def estLat (e : BitVec 2) : Nat := if e = 2 then 9 else 6

/-! ## Majors 0x34 to 0x36 -/

/-- R252: Round(a + b). -/
def execVfadd (e : BitVec 2) (d a b : Reg) (f k t : BitVec 2) (s : State) : Host.Outcome State Fault Refusal :=
  vecFp (fpLat e) e d a b f k t [] (fun m r a b _ => m.add r a b) s

/-- R252: Round(a - b). -/
def execVfsub (e : BitVec 2) (d a b : Reg) (f k t : BitVec 2) (s : State) : Host.Outcome State Fault Refusal :=
  vecFp (fpLat e) e d a b f k t [] (fun m r a b _ => m.sub r a b) s

/-- R252: Round(a × b). -/
def execVfmul (e : BitVec 2) (d a b : Reg) (f k t : BitVec 2) (s : State) : Host.Outcome State Fault Refusal :=
  vecFp (fpLat e) e d a b f k t [] (fun m r a b _ => m.mul r a b) s

/-- R252: Round(a ÷ b), interlocked. -/
def execVfdiv (e : BitVec 2) (d a b : Reg) (f k t : BitVec 2) (s : State) : Host.Outcome State Fault Refusal :=
  vecFp 1 e d a b f k t [] (fun m r a b _ => m.div r a b) s

/-- R252: Round(a × b + d). -/
def execVfma (e : BitVec 2) (d a b : Reg) (f k t : BitVec 2) (s : State) : Host.Outcome State Fault Refusal :=
  vecFp (fpLat e) e d a b f k t [.v d] (fun m r a b d => m.fma r false false a b d) s

/-- R252: Round(a × b + (-d)). -/
def execVfms (e : BitVec 2) (d a b : Reg) (f k t : BitVec 2) (s : State) : Host.Outcome State Fault Refusal :=
  vecFp (fpLat e) e d a b f k t [.v d] (fun m r a b d => m.fma r false true a b d) s

/-- R252: Round((-a) × b + (-d)). -/
def execVfnma (e : BitVec 2) (d a b : Reg) (f k t : BitVec 2) (s : State) : Host.Outcome State Fault Refusal :=
  vecFp (fpLat e) e d a b f k t [.v d] (fun m r a b d => m.fma r true true a b d) s

/-- R252: Round(√a), interlocked. -/
def execVfsqrt (e : BitVec 2) (d a : Reg) (k t : BitVec 2) (s : State) : Host.Outcome State Fault Refusal :=
  issue { reads := vecReads k ++ [.v a] ++ vrmReads, writes := [.v d, .vstart], st := t } vrmCheck
    (fun s =>
      let m := fpFmt e
      .done (s.vputFp m.width (s.elems m.width) d k (fun i => m.sqrt (s.vecRnd i) (velem m.width (s.rv a) i))).vdone) s

/-- R252: the minimum under R75. -/
def execVfmin (e : BitVec 2) (d a b : Reg) (f k t : BitVec 2) (s : State) : Host.Outcome State Fault Refusal :=
  vecFpExact 2 e d a b f k t (fun m a b => m.minMax false a b) s

/-- R252: the maximum under R75. -/
def execVfmax (e : BitVec 2) (d a b : Reg) (f k t : BitVec 2) (s : State) : Host.Outcome State Fault Refusal :=
  vecFpExact 2 e d a b f k t (fun m a b => m.minMax true a b) s

/-- R252: a = b under R75. -/
def execVfceq (e : BitVec 2) (d : KIdx) (a b : Reg) (f k t : BitVec 2) (s : State) : Host.Outcome State Fault Refusal :=
  vecFpCmp e d a b f k t (fun m a b => m.eq a b) s

/-- R252: a < b under R75. -/
def execVfclt (e : BitVec 2) (d : KIdx) (a b : Reg) (f k t : BitVec 2) (s : State) : Host.Outcome State Fault Refusal :=
  vecFpCmp e d a b f k t (fun m a b => m.lt a b) s

/-- R252: a ≤ b under R75. -/
def execVfcle (e : BitVec 2) (d : KIdx) (a b : Reg) (f k t : BitVec 2) (s : State) : Host.Outcome State Fault Refusal :=
  vecFpCmp e d a b f k t (fun m a b => m.le a b) s

/-- R252: a with the sign cleared. -/
def execVfabs (e : BitVec 2) (d a : Reg) (k t : BitVec 2) (s : State) : Host.Outcome State Fault Refusal :=
  vecFpUnary 2 e d a k t (fun m a => (m.absNeg false a, 0)) s

/-- R252: a with the sign inverted. -/
def execVfneg (e : BitVec 2) (d a : Reg) (k t : BitVec 2) (s : State) : Host.Outcome State Fault Refusal :=
  vecFpUnary 2 e d a k t (fun m a => (m.absNeg true a, 0)) s

/-- R252: the class mask of R61. -/
def execVfclass (e : BitVec 2) (d a : Reg) (k t : BitVec 2) (s : State) : Host.Outcome State Fault Refusal :=
  vecFpUnary 2 e d a k t (fun m a => (m.fclass a, 0)) s

/-- R252: R83. -/
def execVfexp2 (e : BitVec 2) (d a : Reg) (k t : BitVec 2) (s : State) : Host.Outcome State Fault Refusal :=
  vecFpUnary (estLat e) e d a k t (fun m a => fexp2 (estimateIn m a).1 m (estimateIn m a).2) s

/-- R252: R81. -/
def execVfrcp (e : BitVec 2) (d a : Reg) (k t : BitVec 2) (s : State) : Host.Outcome State Fault Refusal :=
  vecFpUnary (estLat e) e d a k t (fun m a => frcp (estimateIn m a).1 m (estimateIn m a).2) s

/-- R252: R82. -/
def execVfrsq (e : BitVec 2) (d a : Reg) (k t : BitVec 2) (s : State) : Host.Outcome State Fault Refusal :=
  vecFpUnary (estLat e) e d a k t (fun m a => frsq (estimateIn m a).1 m (estimateIn m a).2) s

/-- R252: b, bits unchanged. -/
def execVfmv (e : BitVec 2) (d b : Reg) (f k t : BitVec 2) (s : State) : Host.Outcome State Fault Refusal :=
  issue { reads := vecReads k ++ formReads f b, writes := [.v d, .vstart], lat := 2, st := t } noEarly
    (fun s =>
      let m := fpFmt e
      .done (s.vput m.width (s.elems m.width) d k (fun i => s.formFp f b m i)).vdone) s

/-! ## Major 0x37: conversions -/

/-- R253: a conversion between elements of two widths: op takes the rounding and the source element. -/
def vecConv (ws wd : Nat) (d a : Reg) (k t : BitVec 2) (reads : List RegName) (check : State → Option (Byte × Dword))
    (op : Rnd → Nat → Nat × BitVec 7) (s : State) : Host.Outcome State Fault Refusal :=
  issue { reads := vecReads k ++ [.v a] ++ reads, writes := [.v d, .vstart], lat := 3, st := t } check
    (fun s => .done (s.vputFp wd (s.elems (max ws wd)) d k (fun i => op (s.vecRnd i) (velem ws (s.rv a) i))).vdone) s

/-- R253: an exact widening conversion, which does not read VRM. -/
def vecWiden (src dst : Fmt) (d a : Reg) (k t : BitVec 2) (s : State) : Host.Outcome State Fault Refusal :=
  vecConv src.width dst.width d a k t [] noEarly (fun _ v => convFmt src dst rne v) s

/-- R253: a narrowing conversion under stat.VRM. -/
def vecNarrow (src dst : Fmt) (d a : Reg) (k t : BitVec 2) (s : State) : Host.Outcome State Fault Refusal :=
  vecConv src.width dst.width d a k t vrmReads vrmCheck (fun r v => convFmt src dst r v) s

/-- R253: vconv.sf.bf. -/
def execVconvSfBf (d a : Reg) (k t : BitVec 2) (s : State) : Host.Outcome State Fault Refusal := vecWiden bf16 fp32 d a k t s

/-- R253: vconv.bf.sf. -/
def execVconvBfSf (d a : Reg) (k t : BitVec 2) (s : State) : Host.Outcome State Fault Refusal := vecNarrow fp32 bf16 d a k t s

/-- R253: vconv.sf.hf. -/
def execVconvSfHf (d a : Reg) (k t : BitVec 2) (s : State) : Host.Outcome State Fault Refusal := vecWiden fp16 fp32 d a k t s

/-- R253: vconv.hf.sf. -/
def execVconvHfSf (d a : Reg) (k t : BitVec 2) (s : State) : Host.Outcome State Fault Refusal := vecNarrow fp32 fp16 d a k t s

/-- R253: vconv.sf.e4. -/
def execVconvSfE4 (d a : Reg) (k t : BitVec 2) (s : State) : Host.Outcome State Fault Refusal := vecWiden e4m3 fp32 d a k t s

/-- R253: vconv.e4.sf. -/
def execVconvE4Sf (d a : Reg) (k t : BitVec 2) (s : State) : Host.Outcome State Fault Refusal := vecNarrow fp32 e4m3 d a k t s

/-- R253: vconv.sf.e5. -/
def execVconvSfE5 (d a : Reg) (k t : BitVec 2) (s : State) : Host.Outcome State Fault Refusal := vecWiden e5m2 fp32 d a k t s

/-- R253: vconv.e5.sf. -/
def execVconvE5Sf (d a : Reg) (k t : BitVec 2) (s : State) : Host.Outcome State Fault Refusal := vecNarrow fp32 e5m2 d a k t s

/-- R253: vconv.df.sf. -/
def execVconvDfSf (d a : Reg) (k t : BitVec 2) (s : State) : Host.Outcome State Fault Refusal := vecWiden fp32 fp64 d a k t s

/-- R253: vconv.sf.df. -/
def execVconvSfDf (d a : Reg) (k t : BitVec 2) (s : State) : Host.Outcome State Fault Refusal := vecNarrow fp64 fp32 d a k t s

/-- R253: vconv.sf.w. -/
def execVconvSfW (d a : Reg) (k t : BitVec 2) (s : State) : Host.Outcome State Fault Refusal :=
  vecConv 32 32 d a k t vrmReads vrmCheck (fun r v => ofIntFmt fp32 r (signed 32 v)) s

/-- R253: vconv.w.sf. -/
def execVconvWSf (d a : Reg) (k t : BitVec 2) (s : State) : Host.Outcome State Fault Refusal :=
  vecConv 32 32 d a k t vrmReads vrmCheck (fun r v => toInt fp32 r 32 true v) s

/-! ## Quantisation (R58, R254, R255) -/

/-- R58: the bits of the largest finite magnitude among FP32 values, 0 when none is finite. -/
def largestFinite (l : List Nat) : Nat :=
  ((l.map (fun x => x % 2 ^ 31)).filter (fun m => decide (m < 0x7F800000))).foldl max 0

/-- R58: E. -/
def quantExp (l : List Nat) : Int :=
  match fp32.decode (largestFinite l) with
  | .fin _ n d => min (max (floorLog2 n d - 6) (-127)) 127
  | _ => -127

/-- R58: q of one value under E. -/
def quantElem (r : Rnd) (e : Int) (x : Nat) : Int × BitVec 7 :=
  match fp32.decode x with
  | .nan _ => (0, flagNV)
  | .inf neg => (if neg then -127 else 127, flagNV)
  | .zero _ => (0, 0)
  | .fin neg n d =>
    let (a, b) := scaled 1 (-e)
    let (y, exact) := roundInt r neg (n * a) (d * b)
    (min (max y (-127)) 127, if exact then 0 else flagNX)

/-- R254: the elements of V[A] of one block, those below e. -/
def quantBlock (v : VReg) (e blk : Nat) : List Nat :=
  ((List.range 32).filter (fun j => decide (32 * blk + j < e))).map (fun j => velem 32 v (32 * blk + j))

/-- R254: D = B is ILLOP; the stagger of a repeat frame can bring it about (R208). -/
def quantCheck (d b : Reg) (s : State) : Option (Byte × Dword) :=
  if d = b then some (causeIllop, s.irInfo) else bothChecks vrmCheck wholeCheck s

/-- R254: quantises FP32 elements to KI8 elements and E8 scales. -/
def execKq8 (d a b : Reg) (t : BitVec 2) (s : State) : Host.Outcome State Fault Refusal :=
  issue { reads := [.vl, .vstart, .v a] ++ vrmReads, writes := [.v d, .v b, .vstart], lat := 5, st := t }
    (quantCheck d b)
    (fun s =>
      let e := min s.cpu.vl.toNat 128
      let v := s.rv a
      let ex (blk : Nat) : Int := quantExp (quantBlock v e blk)
      let q (i : Nat) : Int × BitVec 7 := quantElem (s.vecRnd i) (ex (i / 32)) (velem 32 v i)
      let n := ceilDiv e 32
      let t := s.wv d (vupdate 8 (s.vbase d) (fun i => if i < e then some (wrap 8 (q i).1) else none))
      let t := t.wv b (vupdate 8 (s.vbase b) (fun i => if i < n then some (ex i + 127).toNat else none))
      .done (t.addFlags (orFlags (fun _ => true) (fun i => (q i).2) e)).vdone) s

/-- R58, R255: the value of a KI8 element under a scale, as FP32. -/
def dequant (r : Rnd) (q scale : Nat) : Nat × BitVec 7 :=
  let z := signed 8 q
  let (a, b) := scaled 1 ((scale : Int) - 127)
  fp32.ofVal r (Val.ofInt (z * a) b false)

/-- R255: dequantises KI8 elements; FMTCODE at the block of the first active element whose scale is reserved. -/
def execKdq8 (d a b : Reg) (k t : BitVec 2) (s : State) : Host.Outcome State Fault Refusal :=
  issue { reads := vecReads k ++ [.v a, .v b] ++ vrmReads, writes := [.v d, .vstart], lat := 3, st := t } vrmCheck
    (fun s =>
      let e := min s.cpu.vl.toNat 128
      let f (i : Nat) : Nat × BitVec 7 := dequant (s.vecRnd i) (velem 8 (s.rv a) i) (velem 8 (s.rv b) (i / 32))
      match (List.range e).find? (fun i => s.active k e i && velem 8 (s.rv b) (i / 32) == 0xFF) with
      | none => .done (s.vputFp 32 e d k f).vdone
      | some i =>
        let v := max (32 * (i / 32)) s.cpu.vstart.toNat
        let t := s.vputFp 32 v d k f
        .trap { t with cpu := { t.cpu with vstart := BitVec.ofNat 10 v } } causeFmtcode (BitVec.ofNat 64 v)) s

/-! ## Packing (R256) -/

/-- R256: T2 codes of clamped integers. R54 writes the unused codes of a last byte as 0b00, R256 leaves what follows the active
elements unchanged: a register is no byte string, so R256 decides here (log entry 74). -/
def execT2pack (d a : Reg) (e t : BitVec 2) (s : State) : Host.Outcome State Fault Refusal :=
  issue { reads := vecReads 0 ++ [.v a], writes := [.v d, .vstart], lat := 2, st := t } noEarly
    (fun s =>
      let w := ewBits e
      .done (s.vput 2 (s.elems w) d 0 (fun i => t2Code (signed w (velem w (s.rv a) i)))).vdone) s

/-- R256: values of T2 codes; FMTCODE at the first active element whose code is reserved. -/
def execT2unpack (d a : Reg) (e k t : BitVec 2) (s : State) : Host.Outcome State Fault Refusal :=
  issue { reads := vecReads k ++ [.v a], writes := [.v d, .vstart], lat := 2, st := t } noEarly
    (fun s =>
      let w := ewBits e
      let n := s.elems w
      let f (i : Nat) : Nat := wrap w ((t2Value (velem 2 (s.rv a) i)).getD 0)
      match (List.range n).find? (fun i => s.active k n i && (t2Value (velem 2 (s.rv a) i)).isNone) with
      | none => .done (s.vput w n d k f).vdone
      | some i =>
        let t := s.vput w i d k f
        .trap { t with cpu := { t.cpu with vstart := BitVec.ofNat 10 i } } causeFmtcode (BitVec.ofNat 64 i)) s

/-- R256: I4 nibbles of saturated integers; an unused nibble of the last byte is unchanged, as in `execT2pack` (log entry 74). -/
def execQ4pack (d a : Reg) (e t : BitVec 2) (s : State) : Host.Outcome State Fault Refusal :=
  issue { reads := vecReads 0 ++ [.v a], writes := [.v d, .vstart], lat := 2, st := t } noEarly
    (fun s =>
      let w := ewBits e
      .done (s.vput 4 (s.elems w) d 0 (fun i => wrap 4 (satS 4 (signed w (velem w (s.rv a) i))))).vdone) s

/-- R256: integers of I4 nibbles. -/
def execQ4unpack (d a : Reg) (e k t : BitVec 2) (s : State) : Host.Outcome State Fault Refusal :=
  issue { reads := vecReads k ++ [.v a], writes := [.v d, .vstart], lat := 2, st := t } noEarly
    (fun s =>
      let w := ewBits e
      .done (s.vput w (s.elems w) d k (fun i => wrap w (signed 4 (velem 4 (s.rv a) i)))).vdone) s

end Sys2Proof.Machine
end

