-- ==== Sys2Proof/Machine/VectorPerm.lean ====
section
/-! DEFINITION. Major 0x3A: reductions (R257), permutations and moves (R258-R261), and irregular work (R262-R264).
-/

namespace Sys2Proof.Machine

/-! ## Reductions (R257) -/

/-- R257: the fold over the active elements below e, with the flags of its steps. -/
def reduceFold (p : Nat → Bool) (step : Nat → Nat → Nat × BitVec 7) (acc : Nat) (e : Nat) : Nat × BitVec 7 :=
  (List.range e).foldl (fun (r : Nat × BitVec 7) i =>
    if p i then ((step r.1 i).1, r.2 ||| (step r.1 i).2) else r) (acc, 0)

/-- R257: a reduction at width w into element 0 of V[D]: step takes the accumulator, the element and its index. -/
def reduce (w : Nat) (d a b : Reg) (k t : BitVec 2) (reads : List RegName) (check : State → Option (Byte × Dword))
    (step : State → Nat → Nat → Nat → Nat × BitVec 7) (s : State) : Host.Outcome State Fault Refusal :=
  issue { reads := vecReads k ++ [.v a, .v b] ++ reads, writes := [.v d, .vstart], st := t } (bothChecks check wholeCheck)
    (fun s =>
      let e := s.elems w
      let r := reduceFold (s.active k e) (fun acc i => step s acc (velem w (s.rv a) i) i) (velem w (s.rv b) 0) e
      .done ((if 0 < e then s.wv d (vupdate w (s.vbase d) (fun i => if i = 0 then some r.1 else none)) else s).addFlags r.2).vdone) s

/-- R257: an integer reduction. -/
def reduceInt (d a b : Reg) (e k t : BitVec 2) (op : Nat → Nat → Nat → Nat) (s : State) : Host.Outcome State Fault Refusal :=
  reduce (ewBits e) d a b k t [] noEarly (fun _ acc x _ => (op (ewBits e) acc x, 0)) s

/-- R257: acc + a. -/
def execVredsum (d a b : Reg) (e k t : BitVec 2) (s : State) : Host.Outcome State Fault Refusal :=
  reduceInt d a b e k t (fun w acc a => (acc + a) % 2 ^ w) s

/-- R257: the larger, signed. -/
def execVredmax (d a b : Reg) (e k t : BitVec 2) (s : State) : Host.Outcome State Fault Refusal :=
  reduceInt d a b e k t (fun w acc a => if signed w acc < signed w a then a else acc) s

/-- R257: the smaller, signed. -/
def execVredmin (d a b : Reg) (e k t : BitVec 2) (s : State) : Host.Outcome State Fault Refusal :=
  reduceInt d a b e k t (fun w acc a => if signed w a < signed w acc then a else acc) s

/-- R257: the larger, unsigned. -/
def execVredmaxu (d a b : Reg) (e k t : BitVec 2) (s : State) : Host.Outcome State Fault Refusal :=
  reduceInt d a b e k t (fun _ acc a => max acc a) s

/-- R257: the smaller, unsigned. -/
def execVredminu (d a b : Reg) (e k t : BitVec 2) (s : State) : Host.Outcome State Fault Refusal :=
  reduceInt d a b e k t (fun _ acc a => min acc a) s

/-- R257: the format of an FP reduction: EW 1 is bf, 2 sf, 3 df. -/
def reduceFmt (e : BitVec 2) : Fmt := fpFmt (e - 1)

/-- R257: Round(acc + a, F, VRM, sbase + i). -/
def execVfredsum (d a b : Reg) (e k t : BitVec 2) (s : State) : Host.Outcome State Fault Refusal :=
  reduce (reduceFmt e).width d a b k t vrmReads vrmCheck (fun s acc x i => (reduceFmt e).add (s.vecRnd i) acc x) s

/-- R257: the maximum under R75. -/
def execVfredmax (d a b : Reg) (e k t : BitVec 2) (s : State) : Host.Outcome State Fault Refusal :=
  reduce (reduceFmt e).width d a b k t [] noEarly (fun _ acc x _ => (reduceFmt e).minMax true acc x) s

/-! ## Permutations (R258, R259) -/

/-- R258: an element-wise permutation at width e: f gives the new value of an active element, none to leave it. -/
def permute (d : Reg) (e k t : BitVec 2) (reads : List RegName) (check : State → Option (Byte × Dword))
    (f : State → Nat → Nat → Nat → Option Nat) (s : State) : Host.Outcome State Fault Refusal :=
  issue { reads := vecReads k ++ reads, writes := [.v d, .vstart], lat := 3, st := t } check
    (fun s =>
      let w := ewBits e
      let n := s.elems w
      .done (s.wv d (vupdate w (s.vbase d) (fun i => if s.active k n i then f s w n i else none))).vdone) s

/-- R258: slides up by X[B]. -/
def execVslideup (d a b : Reg) (e k t : BitVec 2) (s : State) : Host.Outcome State Fault Refusal :=
  permute d e k t [.v a, .x b] wholeCheck
    (fun s w _ i => if (s.rx b).toNat ≤ i then some (velem w (s.rv a) (i - (s.rx b).toNat)) else none) s

/-- R258: slides down by X[B]. -/
def execVslidedn (d a b : Reg) (e k t : BitVec 2) (s : State) : Host.Outcome State Fault Refusal :=
  permute d e k t [.v a, .x b] wholeCheck
    (fun s w n i => some (if i + (s.rx b).toNat < n then velem w (s.rv a) (i + (s.rx b).toNat) else 0)) s

/-- R258: permutes by an index vector. -/
def execVperm (d a b : Reg) (e k t : BitVec 2) (s : State) : Host.Outcome State Fault Refusal :=
  permute d e k t [.v a, .v b] wholeCheck
    (fun s w n i => some (if velem w (s.rv b) i < n then velem w (s.rv a) (velem w (s.rv b) i) else 0)) s

/-- R258: broadcasts element X[B]; it honours vstart. -/
def execVbcast (d a b : Reg) (e k t : BitVec 2) (s : State) : Host.Outcome State Fault Refusal :=
  permute d e k t [.v a, .x b] noEarly
    (fun s w n _ => some (if (s.rx b).toNat < n then velem w (s.rv a) (s.rx b).toNat else 0)) s

/-- R259: the set bits of a mask below e, in order. -/
def selected (m : KReg) (e : Nat) : List Nat := (List.range e).filter (fun i => m.getLsbD i)

/-- R259: packs the selected elements to the front. -/
def execVcompress (d a : Reg) (b : KIdx) (e t : BitVec 2) (s : State) : Host.Outcome State Fault Refusal :=
  issue { reads := [.vl, .vstart, .v a, .k b], writes := [.v d, .vstart], lat := 3, st := t } wholeCheck
    (fun s =>
      let w := ewBits e
      let l := selected (s.rk b) (s.elems w)
      .done (s.wv d (vupdate w (s.vbase d) (fun i => (l[i]?).map (fun j => velem w (s.rv a) j)))).vdone) s

/-- R259: spreads leading elements to the selected positions. -/
def execVexpand (d a : Reg) (b : KIdx) (e t : BitVec 2) (s : State) : Host.Outcome State Fault Refusal :=
  issue { reads := [.vl, .vstart, .v a, .k b], writes := [.v d, .vstart], lat := 3, st := t } wholeCheck
    (fun s =>
      let w := ewBits e
      let n := s.elems w
      .done (s.wv d (vupdate w (s.vbase d) (fun i =>
        if decide (i < n) && (s.rk b).getLsbD i then some (velem w (s.rv a) (selected (s.rk b) i).length) else none))).vdone) s

/-- R260: selects by the mask for every element from vstart on. -/
def execVmerge (d a b : Reg) (e k t : BitVec 2) (s : State) : Host.Outcome State Fault Refusal :=
  issue { reads := vecReads k ++ [.v a, .v b], writes := [.v d, .vstart], lat := 2, st := t } noEarly
    (fun s =>
      let w := ewBits e
      .done (s.vput w (s.elems w) d 0 (fun i =>
        if (s.rk (k.setWidth 3)).getLsbD i then velem w (s.rv a) i else velem w (s.rv b) i)).vdone) s

/-! ## Moves (R261) -/

/-- R261: element 0, sign-extended, to an x register. -/
def execVmvxs (d a : Reg) (e t : BitVec 2) (s : State) : Host.Outcome State Fault Refusal :=
  issue { reads := [.v a], writes := [.x d, .vstart], lat := 2, st := t } noEarly
    (fun s => .done (s.wx d (BitVec.ofInt 64 (signed (ewBits e) (velem (ewBits e) (s.rv a) 0)))).vdone) s

/-- R261: an x register to element 0. -/
def execVmvsx (d a : Reg) (e t : BitVec 2) (s : State) : Host.Outcome State Fault Refusal :=
  issue { reads := [.x a], writes := [.v d, .vstart], lat := 2, st := t } noEarly
    (fun s => .done (s.wv d (vupdate (ewBits e) (s.vbase d) (fun i => if i = 0 then some (s.rx a).toNat else none))).vdone) s

/-! ## Irregular work (R262-R264) -/

/-- R262: each active element's index. -/
def execVid (d : Reg) (e k t : BitVec 2) (s : State) : Host.Outcome State Fault Refusal :=
  issue { reads := vecReads k, writes := [.v d, .vstart], lat := 2, st := t } noEarly
    (fun s =>
      let w := ewBits e
      .done (s.vput w (s.elems w) d k (fun i => i)).vdone) s

/-- R262: the count of set mask bits below each element. -/
def execViota (d : Reg) (a : KIdx) (e k t : BitVec 2) (s : State) : Host.Outcome State Fault Refusal :=
  issue { reads := vecReads k ++ [.k a], writes := [.v d, .vstart], lat := 2, st := t } noEarly
    (fun s =>
      let w := ewBits e
      .done (s.vput w (s.elems w) d k (fun i => (selected (s.rk a) i).length)).vdone) s

/-- R262: the inclusive running sum of the active elements up to i. -/
def runningSum (p : Nat → Bool) (g : Nat → Nat) (i : Nat) : Nat :=
  (List.range (i + 1)).foldl (fun acc j => if p j then acc + g j else acc) 0

/-- R262: the inclusive prefix sum. -/
def execVscan (d a : Reg) (e k t : BitVec 2) (s : State) : Host.Outcome State Fault Refusal :=
  issue { reads := vecReads k ++ [.v a], writes := [.v d, .vstart], st := t } wholeCheck
    (fun s =>
      let w := ewBits e
      let n := s.elems w
      .done (s.vput w n d k (fun i => runningSum (s.active k n) (velem w (s.rv a)) i)).vdone) s

/-- R263: ranks equal keys and marks last occurrences. -/
def execVbin (d a : Reg) (b : KIdx) (e k t : BitVec 2) (s : State) : Host.Outcome State Fault Refusal :=
  issue { reads := vecReads k ++ [.v a], writes := [.v d, .k b, .vstart], st := t } wholeCheck
    (fun s =>
      let w := ewBits e
      let n := s.elems w
      let v := s.rv a
      let same (i j : Nat) : Bool := s.active k n j && velem w v j == velem w v i
      let rank (i : Nat) : Nat := ((List.range i).filter (same i)).length
      let last (i : Nat) : Bool := s.active k n i && !((List.range n).any (fun j => decide (i < j) && same i j))
      .done ((s.vput w n d k rank).wk b (kupdate (s.kbase b) (fun i => if i < n then some (last i) else none))).vdone) s

/-- R264: the merge: key and origin of the elements from position j of h keys each on. -/
def mergeKeys (w h : Nat) (a b : VReg) : Nat → Nat → Nat → List (Nat × Bool)
  | 0, _, _ => []
  | n + 1, ia, ib =>
    if ib = h ∨ (ia < h ∧ velem w a ia ≤ velem w b ib) then (velem w a ia, false) :: mergeKeys w h a b n (ia + 1) ib
    else (velem w b ib, true) :: mergeKeys w h a b n ia (ib + 1)

/-- R264: merges two ascending key vectors. -/
def execVmrgs (d a b : Reg) (e k t : BitVec 2) (s : State) : Host.Outcome State Fault Refusal :=
  issue { reads := [.vl, .vstart, .v a, .v b], writes := [.v d, .vstart] ++ kmReads k, st := t } wholeCheck
    (fun s =>
      let w := ewBits e
      let h := min s.cpu.vl.toNat (4096 / w / 2)
      let m := mergeKeys w h (s.rv a) (s.rv b) (2 * h) 0 0
      let t := s.wv d (vupdate w (s.vbase d) (fun i => (m[i]?).map (fun p => p.1)))
      .done (match kmReg k with
        | none => t.vdone
        | some n => (t.wk n (kupdate (s.kbase n) (fun i => (m[i]?).map (fun p => p.2)))).vdone)) s

end Sys2Proof.Machine
end

