-- ==== Sys2Proof/Machine/VectorMem.lean ====
section
/-! DEFINITION. Major 0x39: vector loads, stores and scatter-reduces (R265-R274).
-/

namespace Sys2Proof.Machine

/-! ## Elements (R266) -/

/-- The active elements below e, ascending, with their effective addresses. -/
def State.vaddrs (s : State) (k : BitVec 2) (e : Nat) (ea : Nat → Dword) : List (Nat × Dword) :=
  ((List.range e).filter (s.active k e)).map (fun i => (i, ea i))

/-- R266: unit stride. -/
def State.eaUnit (s : State) (a : Reg) (size i : Nat) : Dword := s.rx a + BitVec.ofNat 64 (i * size)

/-- R266: strided. -/
def State.eaStride (s : State) (a b : Reg) (i : Nat) : Dword := s.rx a + BitVec.ofNat 64 i * s.rx b

/-- R266: indexed by elements of w bits, scaled. -/
def State.eaIndex (s : State) (a b : Reg) (w scale i : Nat) : Dword := s.rx a + BitVec.ofNat 64 (velem w (s.rv b) i * scale)

/-- How a run over the active elements ends. -/
inductive VecEnd where
  /-- Every element performed; the loaded values by element. -/
  | done (vals : List (Nat × Nat)) (s : State)
  /-- R269: element f fails a check; those below it are performed. -/
  | fault (f : Nat) (vals : List (Nat × Nat)) (s : State) (e : Stop)
  /-- An element's access cannot take place now, or meets an uncorrectable error: the instruction executes again. -/
  | stop (e : Stop)

/-- R269: whether a stop is a failed check of the element, that the instruction takes now: an error response of a speculative chunk is
met again once the chunk is head (R9), and until then no element is performed. -/
def Stop.isCheck (s : State) : Stop → Bool
  | .trap _ _ => true
  | .noMemory _ _ => s.isHead
  | .logged _ _ _ _ => s.isHead
  | .memerr _ => false
  | .wait => false
  | .queue _ => false
  | .capacity => false

/-- R269: what a stop at element f means for the run. -/
def VecEnd.ofStop (f : Nat) (vals : List (Nat × Nat)) (s : State) (e : Stop) : VecEnd :=
  if e.isCheck s then .fault f vals s e else .stop e

/-- The value of an element in a list of values. -/
def valueAt (l : List (Nat × Nat)) (i : Nat) : Option Nat := (l.find? (fun p => p.1 == i)).map (fun p => p.2)

/-- Writes loaded values into V[D] (R267). -/
def State.vload (s : State) (w : Nat) (d : Reg) (vals : List (Nat × Nat)) : State :=
  s.wv d (vupdate w (s.vbase d) (valueAt vals))

/-- R269: the fault of element f: vstart := f. -/
def State.elementFault (s : State) (f : Nat) (e : Stop) : Res :=
  Res.ofStop { s with cpu := { s.cpu with vstart := BitVec.ofNat 10 f } } e

/-! ## Loads (R267-R270) -/

/-- R267, R269: loads in ascending index. -/
def loadRun (stream : Stream) (size : Nat) (vals : List (Nat × Nat)) (s : State) : List (Nat × Dword) → VecEnd
  | [] => .done vals s
  | (i, ea) :: r =>
    match s.load stream ea size size with
    | .error e => VecEnd.ofStop i vals s e
    | .ok (bs, s) => loadRun stream size (vals ++ [(i, leNat bs)]) s r

/-- A vector load into V[D], interlocked (R246). -/
def vecLoad (d : Reg) (e k t : BitVec 2) (reads : List RegName) (stream : Stream) (check : State → Option (Byte × Dword))
    (ea : State → Nat → Dword) (s : State) : Host.Outcome State Fault Refusal :=
  issue { reads := vecReads k ++ reads, writes := [.v d, .vstart], st := t, flight := some .memory } check
    (fun s =>
      let w := ewBits e
      match loadRun stream (w / 8) [] s (s.vaddrs k (s.elems w) (ea s)) with
      | .done vals t => .done (t.vload w d vals).vdone
      | .fault f vals t e => (t.vload w d vals).elementFault f e
      | .stop e => Res.ofStop s e) s

/-- R274: ILLOP, with the word, when stat.DET is set. -/
def detCheck (s : State) : Option (Byte × Dword) := if statDet s.cpu.stat then some (causeIllop, s.irInfo) else none

/-- R267: unit-stride load. -/
def execVld (d a : Reg) (e k t : BitVec 2) (s : State) : Host.Outcome State Fault Refusal :=
  vecLoad d e k t [.x a] .unit noEarly (fun s i => s.eaUnit a (ewBits e / 8) i) s

/-- R267: strided load. -/
def execVlds (d a b : Reg) (e k t : BitVec 2) (s : State) : Host.Outcome State Fault Refusal :=
  vecLoad d e k t [.x a, .x b] .gather noEarly (fun s i => s.eaStride a b i) s

/-- R267, R268: ordered gather. -/
def execVldxO (d a b : Reg) (e k t : BitVec 2) (s : State) : Host.Outcome State Fault Refusal :=
  vecLoad d e k t [.x a, .v b] .gather noEarly (fun s i => s.eaIndex a b (ewBits e) (ewBits e / 8) i) s

/-- R267, R268: unordered gather; ILLOP under stat.DET (R274). -/
def execVldxU (d a b : Reg) (e k t : BitVec 2) (s : State) : Host.Outcome State Fault Refusal :=
  vecLoad d e k t [.x a, .v b] .gather detCheck (fun s i => s.eaIndex a b (ewBits e) (ewBits e / 8) i) s

/-- R267: one access, when some element is active, whose value every active element takes. -/
def execVldb (d a : Reg) (e k t : BitVec 2) (s : State) : Host.Outcome State Fault Refusal :=
  issue { reads := vecReads k ++ [.x a], writes := [.v d, .vstart], st := t, flight := some .memory } noEarly
    (fun s =>
      let w := ewBits e
      let l := s.vaddrs k (s.elems w) (fun _ => s.rx a)
      match loadRun .unit (w / 8) [] s (l.take 1) with
      | .done vals t => .done (t.vload w d (vals.flatMap (fun v => l.map (fun p => (p.1, v.2))))).vdone
      | .fault f vals t e => (t.vload w d vals).elementFault f e
      | .stop e => Res.ofStop s e) s

/-- R270: a unit-stride load that shortens vl instead of faulting past its first element; a speculative chunk waits until
head first. -/
def execVldff (d a : Reg) (e k t : BitVec 2) (s : State) : Host.Outcome State Fault Refusal :=
  issue { reads := vecReads k ++ [.x a], writes := [.v d, .vstart, .vl], st := t, flight := some .memory } noEarly
    (fun s =>
      let w := ewBits e
      match loadRun .unit (w / 8) [] s (s.vaddrs k (s.elems w) (fun i => s.eaUnit a (w / 8) i)) with
      | .done vals t => .done (t.vload w d vals).vdone
      | .fault f vals t e =>
        if vals.isEmpty then (t.vload w d vals).elementFault f e
        else if !s.isHead then .wait s
        else
          let t := t.logStop e
          .done (State.vdone (State.vload { t with cpu := { t.cpu with vl := BitVec.ofNat 10 f } } w d vals))
      | .stop e => Res.ofStop s e) s

/-! ## Stores (R267-R269) -/

/-- R269: the checks of the elements in ascending index, with their targets. -/
def checkRun (need : Need) (size : Nat) (stream : Stream) (done : List (Nat × Dword × Target)) (s : State) :
    List (Nat × Dword) → List (Nat × Dword × Target) × State × Option (Nat × Stop)
  | [] => (done, s, none)
  | (i, ea) :: r =>
    match s.resolve need ea size size with
    | .error e => (done, s, some (i, e))
    | .ok g =>
      if s.sharedLocked g then (done, s, some (i, .trap causeSegv ea))
      else match g with
        | .global va =>
          match s.reachAll stream need (pieces 2 va size) with
          | .error e => (done, s, some (i, e))
          | .ok s => checkRun need size stream (done ++ [(i, ea, g)]) s r
        | _ => checkRun need size stream (done ++ [(i, ea, g)]) s r

/-- R267: of elements with one target only the last is performed. -/
def lastOnly : List (Nat × Dword × Target) → List (Nat × Dword × Target)
  | [] => []
  | (i, ea, g) :: r => if r.any (fun q => q.2.2 == g) then lastOnly r else (i, ea, g) :: lastOnly r

/-- R268: stores in ascending index. -/
def storeRun (stream : Stream) (size : Nat) (g : Nat → Nat) (s : State) : List (Nat × Dword × Target) → VecEnd
  | [] => .done [] s
  | (i, ea, _) :: r =>
    match s.store stream ea (leBytes size (g i)) size with
    | .error e => VecEnd.ofStop i [] s e
    | .ok s => storeRun stream size g s r

/-- A vector store of V[S]; every says whether colliding elements are all performed (R267). -/
def vecStore (r : Reg) (e k t : BitVec 2) (reads : List RegName) (stream : Stream) (every : Bool) (ea : State → Nat → Dword)
    (s : State) : Host.Outcome State Fault Refusal :=
  issue { reads := vecReads k ++ [.v r] ++ reads, writes := [.vstart], st := t, flight := some .memory } noEarly
    (fun s =>
      let w := ewBits e
      let v := s.rv r
      let (ok, t, bad) := checkRun .store (w / 8) stream [] s (s.vaddrs k (s.elems w) (ea s))
      match bad.filter (fun b => !b.2.isCheck s) with
      | some (_, e) => Res.ofStop s e
      | none =>
        match storeRun stream (w / 8) (velem w v) t (if every then ok else lastOnly ok) with
        | .done _ t =>
          match bad with
          | none => .done t.vdone
          | some (f, e) => t.elementFault f e
        | .fault f _ t e => t.elementFault f e
        | .stop e => Res.ofStop s e) s

/-- R267: unit-stride store. -/
def execVst (r a : Reg) (e k t : BitVec 2) (s : State) : Host.Outcome State Fault Refusal :=
  vecStore r e k t [.x a] .unit false (fun s i => s.eaUnit a (ewBits e / 8) i) s

/-- R267: strided store. -/
def execVsts (r a b : Reg) (e k t : BitVec 2) (s : State) : Host.Outcome State Fault Refusal :=
  vecStore r e k t [.x a, .x b] .gather false (fun s i => s.eaStride a b i) s

/-- R267, R268: ordered scatter. -/
def execVstxO (r a b : Reg) (e k t : BitVec 2) (s : State) : Host.Outcome State Fault Refusal :=
  vecStore r e k t [.x a, .v b] .gather true (fun s i => s.eaIndex a b (ewBits e) (ewBits e / 8) i) s

/-- R267: unordered scatter: of colliding elements the highest-indexed is performed. -/
def execVstxU (r a b : Reg) (e k t : BitVec 2) (s : State) : Host.Outcome State Fault Refusal :=
  vecStore r e k t [.x a, .v b] .gather false (fun s i => s.eaIndex a b (ewBits e) (ewBits e / 8) i) s

/-! ## Scatter-reduce (R271-R273) -/

/-- One element of a scatter-reduce: its address, operation, size, value and rounding. -/
structure Scatter where
  ea   : Dword
  op   : RmwOp
  n    : Nat
  val  : Nat
  rnd  : Rnd

/-- R271-R273: the new value of a target and the flags. -/
def Scatter.apply (u : Scatter) (old : Nat) : Nat × BitVec 7 :=
  match u.op with
  | .fadd => (scatterFmt u.n).add u.rnd old u.val
  | op => (rmwInt op u.n old u.val, 0)

/-- R271: an element that crosses a line's end, updated in both lines in one step, once its chunk is head (log entry 82). -/
def State.scatterAcross (s : State) (u : Scatter) (va : Nat) : Except Stop State :=
  if !s.isHead then .error .wait
  else match s.rmwAcross .scatter va (64 - va % 64) u.n (fun old => some (u.apply old).1) with
    | .error (.noMemory pa c) => .ok (s.discardStore pa c)
    | .error e => .error e
    | .ok (old, s) => .ok (((s.addFlags (u.apply old).2).notify va u.n).snapCheck va u.n)

/-- The bytes that an element's update makes of what stands at a VA now. -/
def State.scatterBytes (s : State) (u : Scatter) (va : Nat) : List Byte :=
  leBytes u.n (u.apply (leNat ((s.peek s.thr.pgroot va u.n).getD []))).1

/-- R37, R271: one element: in LS in place; at the head at once; in a speculative chunk as a held record, which sends its
notice. -/
def State.scatterElem (s : State) (u : Scatter) : Except Stop State :=
  match s.resolve .scatter u.ea u.n u.n with
  | .error e => .error e
  | .ok (.global va) =>
    match s.owned va (s.scatterBytes u va) with
    | .error e => .error e
    | .ok s =>
    if 64 < va % 64 + u.n then s.scatterAcross u va
    else match s.reach .gather .scatter va with
    | .error e => .error e
    | .ok (m, s) =>
      let held : Update :=
        { va := va, dest := m, op := u.op, bytes := u.n, val := u.val, mode := u.rnd.mode, key := u.rnd.key, seed := u.rnd.seed }
      if s.isHead then
        match s.applyUpdate held with
        | .error e => .error e
        | .ok s => .ok ((s.notify va u.n).snapCheck va u.n)
      else .ok ((State.notify { s with cpu := { s.cpu with upds := s.cpu.upds ++ [held] } } va u.n).snapCheck va u.n)
  | .ok g =>
    if s.sharedLocked g then .error (.trap causeSegv u.ea)
    else
      let r := u.apply (leNat (s.lsSeen g u.n))
      match s.lsStore g (leBytes u.n r.1) with
      | .error e => .error e
      | .ok t => .ok (t.addFlags r.2)

/-- R272: the checks of an element whose addition is skipped. -/
def State.scatterSkip (s : State) (ea : Dword) (n : Nat) : Except Stop State :=
  match checkRun .scatter n .gather [] s [(0, ea)] with
  | (_, s, none) => .ok s
  | (_, _, some (_, e)) => .error e

/-- R269, R271: elements in ascending index: f gives each element's update, none to skip its addition, and the flags of
forming it. -/
def scatterRun (n : Nat) (f : Nat → Dword → Option Scatter × BitVec 7) (s : State) : List (Nat × Dword) → VecEnd
  | [] => .done [] s
  | (i, ea) :: r =>
    match (match (f i ea).1 with
      | some u => s.scatterElem u
      | none => s.scatterSkip ea n) with
    | .error e => VecEnd.ofStop i [] s e
    | .ok s => scatterRun n f (s.addFlags (f i ea).2) r

/-- A scatter-reduce with elements of w bits and targets of n bytes. -/
def scatter (r a b : Reg) (w n : Nat) (k t : BitVec 2) (reads : List RegName) (check : State → Option (Byte × Dword))
    (f : State → Nat → Dword → Option Scatter × BitVec 7) (s : State) : Host.Outcome State Fault Refusal :=
  issue { reads := vecReads k ++ [.v r, .x a, .v b] ++ reads, writes := [.vstart], st := t, flight := some .memory } check
    (fun s =>
      match scatterRun n (f s) s (s.vaddrs k (s.elems w) (fun i => s.eaIndex a b w n i)) with
      | .done _ t => .done t.vdone
      | .fault i _ t e => t.elementFault i e
      | .stop e => Res.ofStop s e) s

/-- R271: an integer form. -/
def scatterInt (op : RmwOp) (r a b : Reg) (e k t : BitVec 2) (s : State) : Host.Outcome State Fault Refusal :=
  scatter r a b (ewBits e) (ewBits e / 8) k t [] noEarly
    (fun s i ea => (some { ea := ea, op := op, n := ewBits e / 8, val := velem (ewBits e) (s.rv r) i, rnd := rne }, 0)) s

/-- R271: integer add. -/
def execVscaddI (r a b : Reg) (e k t : BitVec 2) (s : State) : Host.Outcome State Fault Refusal := scatterInt .add r a b e k t s

/-- R271: signed minimum. -/
def execVscmin (r a b : Reg) (e k t : BitVec 2) (s : State) : Host.Outcome State Fault Refusal := scatterInt .min r a b e k t s

/-- R271: signed maximum. -/
def execVscmax (r a b : Reg) (e k t : BitVec 2) (s : State) : Host.Outcome State Fault Refusal := scatterInt .max r a b e k t s

/-- R271: OR. -/
def execVscor (r a b : Reg) (e k t : BitVec 2) (s : State) : Host.Outcome State Fault Refusal := scatterInt .or r a b e k t s

/-- R272: fixed-point add of FP32 elements to 64-bit words. -/
def execVscaddX (r a b : Reg) (k t : BitVec 2) (s : State) : Host.Outcome State Fault Refusal :=
  scatter r a b 32 8 k t [.fxs] noEarly
    (fun s i ea =>
      let c := fixCvt (signed 8 s.cpu.fxs.toNat) (velem 32 (s.rv r) i)
      (c.1.map (fun v => { ea := ea, op := .add, n := 8, val := v, rnd := rne : Scatter }), c.2)) s

/-- R273: floating-point add in ascending index; ILLOP under stat.DET (R274). -/
def execVscaddF (r a b : Reg) (e : BitVec 1) (k t : BitVec 2) (s : State) : Host.Outcome State Fault Refusal :=
  let n := if e = 0 then 4 else 8
  scatter r a b (8 * n) n k t vrmReads (bothChecks vrmCheck detCheck)
    (fun s i ea => (some { ea := ea, op := .fadd, n := n, val := velem (8 * n) (s.rv r) i, rnd := s.vecRnd i }, 0)) s

end Sys2Proof.Machine
end

