-- ==== Sys2Proof/Machine/Repeat.lean ====
section
/-! DEFINITION. The repeat frame (R207-R210): capture, the staggered execution of captured words, and resumption.
-/

namespace Sys2Proof.Machine

/-- R143, R208: a stagger code's step. -/
def staggerOf (c : BitVec 2) : Nat := if c = 0 then 0 else 2 ^ (c.toNat - 1)

/-- R208: a register field in run n. -/
def stag (c : BitVec 2) (n : Nat) (r : Reg) : Reg := r + BitVec.ofNat 5 (n * staggerOf c)

/-- R208: run n of a captured instruction, with the staggers (SD, SA, SB) on the fields that name v or x registers. -/
def runCaptured (g : BitVec 2 × BitVec 2 × BitVec 2) (n : Nat) (i : Instr) (s : State) : Host.Outcome State Fault Refusal :=
  match i with
  | .vadd e d a b f k t => execVadd e (stag g.1 n d) (stag g.2.1 n a) (if f = 2 then b else stag g.2.2 n b) f k t s
  | .vsub e d a b f k t => execVsub e (stag g.1 n d) (stag g.2.1 n a) (if f = 2 then b else stag g.2.2 n b) f k t s
  | .vrsub e d a b f k t => execVrsub e (stag g.1 n d) (stag g.2.1 n a) (if f = 2 then b else stag g.2.2 n b) f k t s
  | .vmul e d a b f k t => execVmul e (stag g.1 n d) (stag g.2.1 n a) (if f = 2 then b else stag g.2.2 n b) f k t s
  | .vmulh e d a b f k t => execVmulh e (stag g.1 n d) (stag g.2.1 n a) (if f = 2 then b else stag g.2.2 n b) f k t s
  | .vmulhu e d a b f k t => execVmulhu e (stag g.1 n d) (stag g.2.1 n a) (if f = 2 then b else stag g.2.2 n b) f k t s
  | .vmacc e d a b f k t => execVmacc e (stag g.1 n d) (stag g.2.1 n a) (if f = 2 then b else stag g.2.2 n b) f k t s
  | .vand e d a b f k t => execVand e (stag g.1 n d) (stag g.2.1 n a) (if f = 2 then b else stag g.2.2 n b) f k t s
  | .vor e d a b f k t => execVor e (stag g.1 n d) (stag g.2.1 n a) (if f = 2 then b else stag g.2.2 n b) f k t s
  | .vxor e d a b f k t => execVxor e (stag g.1 n d) (stag g.2.1 n a) (if f = 2 then b else stag g.2.2 n b) f k t s
  | .vsll e d a b f k t => execVsll e (stag g.1 n d) (stag g.2.1 n a) (if f = 2 then b else stag g.2.2 n b) f k t s
  | .vsrl e d a b f k t => execVsrl e (stag g.1 n d) (stag g.2.1 n a) (if f = 2 then b else stag g.2.2 n b) f k t s
  | .vsra e d a b f k t => execVsra e (stag g.1 n d) (stag g.2.1 n a) (if f = 2 then b else stag g.2.2 n b) f k t s
  | .vmin e d a b f k t => execVmin e (stag g.1 n d) (stag g.2.1 n a) (if f = 2 then b else stag g.2.2 n b) f k t s
  | .vmax e d a b f k t => execVmax e (stag g.1 n d) (stag g.2.1 n a) (if f = 2 then b else stag g.2.2 n b) f k t s
  | .vminu e d a b f k t => execVminu e (stag g.1 n d) (stag g.2.1 n a) (if f = 2 then b else stag g.2.2 n b) f k t s
  | .vmaxu e d a b f k t => execVmaxu e (stag g.1 n d) (stag g.2.1 n a) (if f = 2 then b else stag g.2.2 n b) f k t s
  | .vsadd e d a b f k t => execVsadd e (stag g.1 n d) (stag g.2.1 n a) (if f = 2 then b else stag g.2.2 n b) f k t s
  | .vsaddu e d a b f k t => execVsaddu e (stag g.1 n d) (stag g.2.1 n a) (if f = 2 then b else stag g.2.2 n b) f k t s
  | .vssub e d a b f k t => execVssub e (stag g.1 n d) (stag g.2.1 n a) (if f = 2 then b else stag g.2.2 n b) f k t s
  | .vssubu e d a b f k t => execVssubu e (stag g.1 n d) (stag g.2.1 n a) (if f = 2 then b else stag g.2.2 n b) f k t s
  | .vabs e d a k t => execVabs e (stag g.1 n d) (stag g.2.1 n a) k t s
  | .vceq e d a b f k t => execVceq e d (stag g.2.1 n a) (if f = 2 then b else stag g.2.2 n b) f k t s
  | .vcne e d a b f k t => execVcne e d (stag g.2.1 n a) (if f = 2 then b else stag g.2.2 n b) f k t s
  | .vclt e d a b f k t => execVclt e d (stag g.2.1 n a) (if f = 2 then b else stag g.2.2 n b) f k t s
  | .vcle e d a b f k t => execVcle e d (stag g.2.1 n a) (if f = 2 then b else stag g.2.2 n b) f k t s
  | .vcltu e d a b f k t => execVcltu e d (stag g.2.1 n a) (if f = 2 then b else stag g.2.2 n b) f k t s
  | .vcleu e d a b f k t => execVcleu e d (stag g.2.1 n a) (if f = 2 then b else stag g.2.2 n b) f k t s
  | .vmv e d b f k t => execVmv e (stag g.1 n d) (if f = 2 then b else stag g.2.2 n b) f k t s
  | .vnarrow e d a b f k t => execVnarrow e (stag g.1 n d) (stag g.2.1 n a) (if f = 2 then b else stag g.2.2 n b) f k t s
  | .vwiden e d a k t => execVwiden e (stag g.1 n d) (stag g.2.1 n a) k t s
  | .vfadd e d a b f k t => execVfadd e (stag g.1 n d) (stag g.2.1 n a) (if f = 2 then b else stag g.2.2 n b) f k t s
  | .vfsub e d a b f k t => execVfsub e (stag g.1 n d) (stag g.2.1 n a) (if f = 2 then b else stag g.2.2 n b) f k t s
  | .vfmul e d a b f k t => execVfmul e (stag g.1 n d) (stag g.2.1 n a) (if f = 2 then b else stag g.2.2 n b) f k t s
  | .vfdiv e d a b f k t => execVfdiv e (stag g.1 n d) (stag g.2.1 n a) (if f = 2 then b else stag g.2.2 n b) f k t s
  | .vfsqrt e d a k t => execVfsqrt e (stag g.1 n d) (stag g.2.1 n a) k t s
  | .vfma e d a b f k t => execVfma e (stag g.1 n d) (stag g.2.1 n a) (if f = 2 then b else stag g.2.2 n b) f k t s
  | .vfms e d a b f k t => execVfms e (stag g.1 n d) (stag g.2.1 n a) (if f = 2 then b else stag g.2.2 n b) f k t s
  | .vfnma e d a b f k t => execVfnma e (stag g.1 n d) (stag g.2.1 n a) (if f = 2 then b else stag g.2.2 n b) f k t s
  | .vfmin e d a b f k t => execVfmin e (stag g.1 n d) (stag g.2.1 n a) (if f = 2 then b else stag g.2.2 n b) f k t s
  | .vfmax e d a b f k t => execVfmax e (stag g.1 n d) (stag g.2.1 n a) (if f = 2 then b else stag g.2.2 n b) f k t s
  | .vfceq e d a b f k t => execVfceq e d (stag g.2.1 n a) (if f = 2 then b else stag g.2.2 n b) f k t s
  | .vfclt e d a b f k t => execVfclt e d (stag g.2.1 n a) (if f = 2 then b else stag g.2.2 n b) f k t s
  | .vfcle e d a b f k t => execVfcle e d (stag g.2.1 n a) (if f = 2 then b else stag g.2.2 n b) f k t s
  | .vfabs e d a k t => execVfabs e (stag g.1 n d) (stag g.2.1 n a) k t s
  | .vfneg e d a k t => execVfneg e (stag g.1 n d) (stag g.2.1 n a) k t s
  | .vfclass e d a k t => execVfclass e (stag g.1 n d) (stag g.2.1 n a) k t s
  | .vfexp2 e d a k t => execVfexp2 e (stag g.1 n d) (stag g.2.1 n a) k t s
  | .vfrcp e d a k t => execVfrcp e (stag g.1 n d) (stag g.2.1 n a) k t s
  | .vfrsq e d a k t => execVfrsq e (stag g.1 n d) (stag g.2.1 n a) k t s
  | .vfmv e d b f k t => execVfmv e (stag g.1 n d) (if f = 2 then b else stag g.2.2 n b) f k t s
  | .vconvSfBf d a k t => execVconvSfBf (stag g.1 n d) (stag g.2.1 n a) k t s
  | .vconvBfSf d a k t => execVconvBfSf (stag g.1 n d) (stag g.2.1 n a) k t s
  | .vconvSfHf d a k t => execVconvSfHf (stag g.1 n d) (stag g.2.1 n a) k t s
  | .vconvHfSf d a k t => execVconvHfSf (stag g.1 n d) (stag g.2.1 n a) k t s
  | .vconvSfE4 d a k t => execVconvSfE4 (stag g.1 n d) (stag g.2.1 n a) k t s
  | .vconvE4Sf d a k t => execVconvE4Sf (stag g.1 n d) (stag g.2.1 n a) k t s
  | .vconvSfE5 d a k t => execVconvSfE5 (stag g.1 n d) (stag g.2.1 n a) k t s
  | .vconvE5Sf d a k t => execVconvE5Sf (stag g.1 n d) (stag g.2.1 n a) k t s
  | .vconvDfSf d a k t => execVconvDfSf (stag g.1 n d) (stag g.2.1 n a) k t s
  | .vconvSfDf d a k t => execVconvSfDf (stag g.1 n d) (stag g.2.1 n a) k t s
  | .vconvSfW d a k t => execVconvSfW (stag g.1 n d) (stag g.2.1 n a) k t s
  | .vconvWSf d a k t => execVconvWSf (stag g.1 n d) (stag g.2.1 n a) k t s
  | .kq8 d a b t => execKq8 (stag g.1 n d) (stag g.2.1 n a) (stag g.2.2 n b) t s
  | .kdq8 d a b k t => execKdq8 (stag g.1 n d) (stag g.2.1 n a) (stag g.2.2 n b) k t s
  | .t2pack d a e t => execT2pack (stag g.1 n d) (stag g.2.1 n a) e t s
  | .t2unpack d a e k t => execT2unpack (stag g.1 n d) (stag g.2.1 n a) e k t s
  | .q4pack d a e t => execQ4pack (stag g.1 n d) (stag g.2.1 n a) e t s
  | .q4unpack d a e k t => execQ4unpack (stag g.1 n d) (stag g.2.1 n a) e k t s
  | .vredsum d a b e k t => execVredsum (stag g.1 n d) (stag g.2.1 n a) (stag g.2.2 n b) e k t s
  | .vredmax d a b e k t => execVredmax (stag g.1 n d) (stag g.2.1 n a) (stag g.2.2 n b) e k t s
  | .vredmin d a b e k t => execVredmin (stag g.1 n d) (stag g.2.1 n a) (stag g.2.2 n b) e k t s
  | .vredmaxu d a b e k t => execVredmaxu (stag g.1 n d) (stag g.2.1 n a) (stag g.2.2 n b) e k t s
  | .vredminu d a b e k t => execVredminu (stag g.1 n d) (stag g.2.1 n a) (stag g.2.2 n b) e k t s
  | .vfredsum d a b e k t => execVfredsum (stag g.1 n d) (stag g.2.1 n a) (stag g.2.2 n b) e k t s
  | .vfredmax d a b e k t => execVfredmax (stag g.1 n d) (stag g.2.1 n a) (stag g.2.2 n b) e k t s
  | .vslideup d a b e k t => execVslideup (stag g.1 n d) (stag g.2.1 n a) (stag g.2.2 n b) e k t s
  | .vslidedn d a b e k t => execVslidedn (stag g.1 n d) (stag g.2.1 n a) (stag g.2.2 n b) e k t s
  | .vperm d a b e k t => execVperm (stag g.1 n d) (stag g.2.1 n a) (stag g.2.2 n b) e k t s
  | .vcompress d a b e t => execVcompress (stag g.1 n d) (stag g.2.1 n a) b e t s
  | .vexpand d a b e t => execVexpand (stag g.1 n d) (stag g.2.1 n a) b e t s
  | .vbcast d a b e k t => execVbcast (stag g.1 n d) (stag g.2.1 n a) (stag g.2.2 n b) e k t s
  | .vmvxs d a e t => execVmvxs (stag g.1 n d) (stag g.2.1 n a) e t s
  | .vmvsx d a e t => execVmvsx (stag g.1 n d) (stag g.2.1 n a) e t s
  | .vmerge d a b e k t => execVmerge (stag g.1 n d) (stag g.2.1 n a) (stag g.2.2 n b) e k t s
  | .vbin d a b e k t => execVbin (stag g.1 n d) (stag g.2.1 n a) b e k t s
  | .vmrgs d a b e k t => execVmrgs (stag g.1 n d) (stag g.2.1 n a) (stag g.2.2 n b) e k t s
  | .viota d a e k t => execViota (stag g.1 n d) a e k t s
  | .vscan d a e k t => execVscan (stag g.1 n d) (stag g.2.1 n a) e k t s
  | .vid d e k t => execVid (stag g.1 n d) e k t s
  | _ => noOccurrence s

/-- R207: how the capture of a frame's words ends. -/
inductive Capture where
  | ok (words : List Word) (s : State)
  | illegal (w : Word) (s : State)
  | fetch (a : Dword) (s : State)
  | stop (e : Stop)

/-- R207: fetches and checks n words from an address on, in frame order. -/
def captureWords (done : List Word) (a : Dword) (s : State) : Nat → Capture
  | 0 => .ok done s
  | n + 1 =>
    match s.fetchWord a with
    | .error .wait => .stop .wait
    | .error (.queue q) => .stop (.queue q)
    | .error (.memerr pa) => .stop (.memerr pa)
    | .error (.logged c i pa k) => if s.isHead then .fetch a (s.logStop (.logged c i pa k)) else .stop .wait
    | .error _ => .fetch a s
    | .ok (w, s) =>
      match decodeCaptured w with
      | .error _ => .illegal w s
      | .ok _ => captureWords (done ++ [w]) (a + 4) s n

/-- R209: ACT, REPLAY and INDEX of rptst. -/
def rptAct (v : Dword) : Bool := v.getLsbD 16
/-- R209: REPLAY. -/
def rptReplay (v : Dword) : Nat := bitsOf v.toNat 8 8
/-- R209: INDEX. -/
def rptIndex (v : Dword) : Nat := bitsOf v.toNat 4 4

/-- R207, R210: the start or resumption of a frame of n words run count times. That the frame opens in a turn of its own, so that
an interrupt can fall before its first captured execution and then leaves ACT = 1 with REPLAY and INDEX 0, is the model's choice:
R210 speaks of interrupts between executions alone (log entry 72). -/
def openFrame (count n : Nat) (s : State) : Host.Outcome State Fault Refusal :=
  issue {} noEarly
    (fun s =>
      match captureWords [] (s.cpu.pc + 4) s n with
      | .stop e => Res.ofStop s e
      | .fetch a t => .trap t causeFetch a
      | .illegal w t => .trap t causeIllop (w.setWidth 64)
      | .ok words t =>
        let v := s.cpu.rptst
        if rptAct v then
          if count ≤ rptReplay v ∨ n ≤ rptIndex v then .trap t causeIllstate v
          else .done { t with cpu := { t.cpu with frame := some { words := words, run := rptReplay v, index := rptIndex v } } }
        else .done { t with cpu := { t.cpu with frame := some { words := words, run := 0, index := 0 } } }) s

/-- R208, R210: after a captured instruction of the frame at pc0 has completed: the next one, or the end of the frame. -/
def State.stepFrame (s : State) (pc0 : Dword) (count : Nat) (f : Frame) : State :=
  let n := f.words.length
  let go (run index : Nat) : State :=
    { s with cpu := { s.cpu with pc := pc0, frame := some { f with run := run, index := index } } }
  if f.index + 1 < n then go f.run (f.index + 1)
  else if f.run + 1 < count then go (f.run + 1) 0
  else { s with cpu := { s.cpu with pc := pc0 + BitVec.ofNat 64 (4 * (n + 1)), frame := none, rptst := 0 } }

/-- R208: executes the frame's next captured word; a word under execution is the one that tinfo of ILLOP reports. -/
def runFrame (g : BitVec 2 × BitVec 2 × BitVec 2) (count : Nat) (f : Frame) (s : State) : Host.Outcome State Fault Refusal :=
  let w := f.words.getD f.index 0
  match decodeCaptured w with
  | .error _ => noOccurrence s
  | .ok i =>
    match runCaptured g f.run i { s with cpu := { s.cpu with ir := w } } with
    | .next t =>
      let t := if t.cpu.frame.isSome then { t with cpu := { t.cpu with ir := s.cpu.ir } } else t
      .next (if t.cpu.frame.isSome && t.cpu.pc == s.cpu.pc + 4 then t.stepFrame s.cpu.pc count f else t)
    | r => r

/-- R207-R210: opens the frame, or executes its next captured word. -/
def execRpt (d a b : BitVec 2) (c : BitVec 8) (n : BitVec 4) (s : State) : Host.Outcome State Fault Refusal :=
  match s.cpu.frame with
  | none => openFrame (c.toNat + 1) (n.toNat + 1) s
  | some f => runFrame (d, a, b) (c.toNat + 1) f s

end Sys2Proof.Machine
end

