-- ==== Sys2Proof/Machine/Dispatch.lean ====
section
/-! DEFINITION. The meaning of every instruction and step, one arm each. -/

namespace Sys2Proof.Machine

/-- Dispatch: one direct call of a meaning per constructor. -/
def exec (i : Instr) (s : State) : Host.Outcome State Fault Refusal :=
  match i with
  | .add d a b => Sys2Proof.Machine.execAdd d a b s
  | .sub d a b => Sys2Proof.Machine.execSub d a b s
  | .and d a b => Sys2Proof.Machine.execAnd d a b s
  | .or d a b => Sys2Proof.Machine.execOr d a b s
  | .xor d a b => Sys2Proof.Machine.execXor d a b s
  | .andn d a b => Sys2Proof.Machine.execAndn d a b s
  | .orn d a b => Sys2Proof.Machine.execOrn d a b s
  | .sll d a b => Sys2Proof.Machine.execSll d a b s
  | .srl d a b => Sys2Proof.Machine.execSrl d a b s
  | .sra d a b => Sys2Proof.Machine.execSra d a b s
  | .slt d a b => Sys2Proof.Machine.execSlt d a b s
  | .sltu d a b => Sys2Proof.Machine.execSltu d a b s
  | .min d a b => Sys2Proof.Machine.execMin d a b s
  | .max d a b => Sys2Proof.Machine.execMax d a b s
  | .minu d a b => Sys2Proof.Machine.execMinu d a b s
  | .maxu d a b => Sys2Proof.Machine.execMaxu d a b s
  | .addw d a b => Sys2Proof.Machine.execAddw d a b s
  | .subw d a b => Sys2Proof.Machine.execSubw d a b s
  | .sllw d a b => Sys2Proof.Machine.execSllw d a b s
  | .srlw d a b => Sys2Proof.Machine.execSrlw d a b s
  | .sraw d a b => Sys2Proof.Machine.execSraw d a b s
  | .addi d a m => Sys2Proof.Machine.execAddi d a m s
  | .andi d a m => Sys2Proof.Machine.execAndi d a m s
  | .ori d a m => Sys2Proof.Machine.execOri d a m s
  | .xori d a m => Sys2Proof.Machine.execXori d a m s
  | .slli d a n => Sys2Proof.Machine.execSlli d a n s
  | .srli d a n => Sys2Proof.Machine.execSrli d a n s
  | .srai d a n => Sys2Proof.Machine.execSrai d a n s
  | .slti d a m => Sys2Proof.Machine.execSlti d a m s
  | .sltiu d a m => Sys2Proof.Machine.execSltiu d a m s
  | .lhi d m => Sys2Proof.Machine.execLhi d m s
  | .lpc d m => Sys2Proof.Machine.execLpc d m s
  | .mul d a b => Sys2Proof.Machine.execMul d a b s
  | .mulh d a b => Sys2Proof.Machine.execMulh d a b s
  | .mulhu d a b => Sys2Proof.Machine.execMulhu d a b s
  | .mulhsu d a b => Sys2Proof.Machine.execMulhsu d a b s
  | .div d a b => Sys2Proof.Machine.execDiv d a b s
  | .divu d a b => Sys2Proof.Machine.execDivu d a b s
  | .rem d a b => Sys2Proof.Machine.execRem d a b s
  | .remu d a b => Sys2Proof.Machine.execRemu d a b s
  | .mulw d a b => Sys2Proof.Machine.execMulw d a b s
  | .divw d a b => Sys2Proof.Machine.execDivw d a b s
  | .remw d a b => Sys2Proof.Machine.execRemw d a b s
  | .clz d a => Sys2Proof.Machine.execClz d a s
  | .ctz d a => Sys2Proof.Machine.execCtz d a s
  | .popc d a => Sys2Proof.Machine.execPopc d a s
  | .brev d a => Sys2Proof.Machine.execBrev d a s
  | .bswap d a => Sys2Proof.Machine.execBswap d a s
  | .sxb d a => Sys2Proof.Machine.execSxb d a s
  | .sxh d a => Sys2Proof.Machine.execSxh d a s
  | .sxw d a => Sys2Proof.Machine.execSxw d a s
  | .zxb d a => Sys2Proof.Machine.execZxb d a s
  | .zxh d a => Sys2Proof.Machine.execZxh d a s
  | .zxw d a => Sys2Proof.Machine.execZxw d a s
  | .rol d a b => Sys2Proof.Machine.execRol d a b s
  | .ror d a b => Sys2Proof.Machine.execRor d a b s
  | .fadd d a b r w => Sys2Proof.Machine.execFadd d a b r w s
  | .fsub d a b r w => Sys2Proof.Machine.execFsub d a b r w s
  | .fmul d a b r w => Sys2Proof.Machine.execFmul d a b r w s
  | .fdiv d a b r w => Sys2Proof.Machine.execFdiv d a b r w s
  | .fsqrt d a r w => Sys2Proof.Machine.execFsqrt d a r w s
  | .fmin d a b w => Sys2Proof.Machine.execFmin d a b w s
  | .fmax d a b w => Sys2Proof.Machine.execFmax d a b w s
  | .feq d a b w => Sys2Proof.Machine.execFeq d a b w s
  | .flt d a b w => Sys2Proof.Machine.execFlt d a b w s
  | .fle d a b w => Sys2Proof.Machine.execFle d a b w s
  | .fclass d a w => Sys2Proof.Machine.execFclass d a w s
  | .fcvtI d a r k w => Sys2Proof.Machine.execFcvtI d a r k w s
  | .fcvtF d a r k w => Sys2Proof.Machine.execFcvtF d a r k w s
  | .fcvtW d a r c w => Sys2Proof.Machine.execFcvtW d a r c w s
  | .fma d a b c w => Sys2Proof.Machine.execFma d a b c w s
  | .fms d a b c w => Sys2Proof.Machine.execFms d a b c w s
  | .fnma d a b c w => Sys2Proof.Machine.execFnma d a b c w s
  | .fnms d a b c w => Sys2Proof.Machine.execFnms d a b c w s
  | .lb d a m => Sys2Proof.Machine.execLb d a m s
  | .lbu d a m => Sys2Proof.Machine.execLbu d a m s
  | .lh d a m => Sys2Proof.Machine.execLh d a m s
  | .lhu d a m => Sys2Proof.Machine.execLhu d a m s
  | .lw d a m => Sys2Proof.Machine.execLw d a m s
  | .lwu d a m => Sys2Proof.Machine.execLwu d a m s
  | .ld d a m => Sys2Proof.Machine.execLd d a m s
  | .sb r a m => Sys2Proof.Machine.execSb r a m s
  | .sh r a m => Sys2Proof.Machine.execSh r a m s
  | .sw r a m => Sys2Proof.Machine.execSw r a m s
  | .sd r a m => Sys2Proof.Machine.execSd r a m s
  | .ldAcqW d a scope => Sys2Proof.Machine.execLdAcqW d a scope s
  | .ldAcqD d a scope => Sys2Proof.Machine.execLdAcqD d a scope s
  | .stRelW a b scope => Sys2Proof.Machine.execStRelW a b scope s
  | .stRelD a b scope => Sys2Proof.Machine.execStRelD a b scope s
  | .amoSwap d a b scope o z => Sys2Proof.Machine.execAmoSwap d a b scope o z s
  | .amoAdd d a b scope o z => Sys2Proof.Machine.execAmoAdd d a b scope o z s
  | .amoAnd d a b scope o z => Sys2Proof.Machine.execAmoAnd d a b scope o z s
  | .amoOr d a b scope o z => Sys2Proof.Machine.execAmoOr d a b scope o z s
  | .amoXor d a b scope o z => Sys2Proof.Machine.execAmoXor d a b scope o z s
  | .amoMin d a b scope o z => Sys2Proof.Machine.execAmoMin d a b scope o z s
  | .amoMax d a b scope o z => Sys2Proof.Machine.execAmoMax d a b scope o z s
  | .amoMinu d a b scope o z => Sys2Proof.Machine.execAmoMinu d a b scope o z s
  | .amoMaxu d a b scope o z => Sys2Proof.Machine.execAmoMaxu d a b scope o z s
  | .cas d a b scope o z => Sys2Proof.Machine.execCas d a b scope o z s
  | .beq a b o => Sys2Proof.Machine.execBeq a b o s
  | .bne a b o => Sys2Proof.Machine.execBne a b o s
  | .blt a b o => Sys2Proof.Machine.execBlt a b o s
  | .bge a b o => Sys2Proof.Machine.execBge a b o s
  | .bltu a b o => Sys2Proof.Machine.execBltu a b o s
  | .bgeu a b o => Sys2Proof.Machine.execBgeu a b o s
  | .jal d o => Sys2Proof.Machine.execJal d o s
  | .jalr d a m => Sys2Proof.Machine.execJalr d a m s
  | .jt d a b => Sys2Proof.Machine.execJt d a b s
  | .vloop a k e o => Sys2Proof.Machine.execVloop a k e o s
  | .rpt d a b c n => Sys2Proof.Machine.execRpt d a b c n s
  | .fork a b o => Sys2Proof.Machine.execFork a b o s
  | .fcut d o => Sys2Proof.Machine.execFcut d o s
  | .fence scope bl bs e => Sys2Proof.Machine.execFence scope bl bs e s
  | .waitw d a b c z => Sys2Proof.Machine.execWaitw d a b c z s
  | .gjoin d a => Sys2Proof.Machine.execGjoin d a s
  | .gleave d a => Sys2Proof.Machine.execGleave d a s
  | .gbar d a b => Sys2Proof.Machine.execGbar d a b s
  | .msend d a => Sys2Proof.Machine.execMsend d a s
  | .mrecv d a b => Sys2Proof.Machine.execMrecv d a b s
  | .mcount d a => Sys2Proof.Machine.execMcount d a s
  | .spawn d a => Sys2Proof.Machine.execSpawn d a s
  | .rexit a => Sys2Proof.Machine.execRexit a s
  | .yield d => Sys2Proof.Machine.execYield d s
  | .fwd a => Sys2Proof.Machine.execFwd a s
  | .fserial => Sys2Proof.Machine.execFserial s
  | .vadd e d a b f k t => Sys2Proof.Machine.execVadd e d a b f k t s
  | .vsub e d a b f k t => Sys2Proof.Machine.execVsub e d a b f k t s
  | .vrsub e d a b f k t => Sys2Proof.Machine.execVrsub e d a b f k t s
  | .vmul e d a b f k t => Sys2Proof.Machine.execVmul e d a b f k t s
  | .vmulh e d a b f k t => Sys2Proof.Machine.execVmulh e d a b f k t s
  | .vmulhu e d a b f k t => Sys2Proof.Machine.execVmulhu e d a b f k t s
  | .vmacc e d a b f k t => Sys2Proof.Machine.execVmacc e d a b f k t s
  | .vand e d a b f k t => Sys2Proof.Machine.execVand e d a b f k t s
  | .vor e d a b f k t => Sys2Proof.Machine.execVor e d a b f k t s
  | .vxor e d a b f k t => Sys2Proof.Machine.execVxor e d a b f k t s
  | .vsll e d a b f k t => Sys2Proof.Machine.execVsll e d a b f k t s
  | .vsrl e d a b f k t => Sys2Proof.Machine.execVsrl e d a b f k t s
  | .vsra e d a b f k t => Sys2Proof.Machine.execVsra e d a b f k t s
  | .vmin e d a b f k t => Sys2Proof.Machine.execVmin e d a b f k t s
  | .vmax e d a b f k t => Sys2Proof.Machine.execVmax e d a b f k t s
  | .vminu e d a b f k t => Sys2Proof.Machine.execVminu e d a b f k t s
  | .vmaxu e d a b f k t => Sys2Proof.Machine.execVmaxu e d a b f k t s
  | .vsadd e d a b f k t => Sys2Proof.Machine.execVsadd e d a b f k t s
  | .vsaddu e d a b f k t => Sys2Proof.Machine.execVsaddu e d a b f k t s
  | .vssub e d a b f k t => Sys2Proof.Machine.execVssub e d a b f k t s
  | .vssubu e d a b f k t => Sys2Proof.Machine.execVssubu e d a b f k t s
  | .vabs e d a k t => Sys2Proof.Machine.execVabs e d a k t s
  | .vceq e d a b f k t => Sys2Proof.Machine.execVceq e d a b f k t s
  | .vcne e d a b f k t => Sys2Proof.Machine.execVcne e d a b f k t s
  | .vclt e d a b f k t => Sys2Proof.Machine.execVclt e d a b f k t s
  | .vcle e d a b f k t => Sys2Proof.Machine.execVcle e d a b f k t s
  | .vcltu e d a b f k t => Sys2Proof.Machine.execVcltu e d a b f k t s
  | .vcleu e d a b f k t => Sys2Proof.Machine.execVcleu e d a b f k t s
  | .vmv e d b f k t => Sys2Proof.Machine.execVmv e d b f k t s
  | .vnarrow e d a b f k t => Sys2Proof.Machine.execVnarrow e d a b f k t s
  | .vwiden e d a k t => Sys2Proof.Machine.execVwiden e d a k t s
  | .vfadd e d a b f k t => Sys2Proof.Machine.execVfadd e d a b f k t s
  | .vfsub e d a b f k t => Sys2Proof.Machine.execVfsub e d a b f k t s
  | .vfmul e d a b f k t => Sys2Proof.Machine.execVfmul e d a b f k t s
  | .vfdiv e d a b f k t => Sys2Proof.Machine.execVfdiv e d a b f k t s
  | .vfsqrt e d a k t => Sys2Proof.Machine.execVfsqrt e d a k t s
  | .vfma e d a b f k t => Sys2Proof.Machine.execVfma e d a b f k t s
  | .vfms e d a b f k t => Sys2Proof.Machine.execVfms e d a b f k t s
  | .vfnma e d a b f k t => Sys2Proof.Machine.execVfnma e d a b f k t s
  | .vfmin e d a b f k t => Sys2Proof.Machine.execVfmin e d a b f k t s
  | .vfmax e d a b f k t => Sys2Proof.Machine.execVfmax e d a b f k t s
  | .vfceq e d a b f k t => Sys2Proof.Machine.execVfceq e d a b f k t s
  | .vfclt e d a b f k t => Sys2Proof.Machine.execVfclt e d a b f k t s
  | .vfcle e d a b f k t => Sys2Proof.Machine.execVfcle e d a b f k t s
  | .vfabs e d a k t => Sys2Proof.Machine.execVfabs e d a k t s
  | .vfneg e d a k t => Sys2Proof.Machine.execVfneg e d a k t s
  | .vfclass e d a k t => Sys2Proof.Machine.execVfclass e d a k t s
  | .vfexp2 e d a k t => Sys2Proof.Machine.execVfexp2 e d a k t s
  | .vfrcp e d a k t => Sys2Proof.Machine.execVfrcp e d a k t s
  | .vfrsq e d a k t => Sys2Proof.Machine.execVfrsq e d a k t s
  | .vfmv e d b f k t => Sys2Proof.Machine.execVfmv e d b f k t s
  | .vconvSfBf d a k t => Sys2Proof.Machine.execVconvSfBf d a k t s
  | .vconvBfSf d a k t => Sys2Proof.Machine.execVconvBfSf d a k t s
  | .vconvSfHf d a k t => Sys2Proof.Machine.execVconvSfHf d a k t s
  | .vconvHfSf d a k t => Sys2Proof.Machine.execVconvHfSf d a k t s
  | .vconvSfE4 d a k t => Sys2Proof.Machine.execVconvSfE4 d a k t s
  | .vconvE4Sf d a k t => Sys2Proof.Machine.execVconvE4Sf d a k t s
  | .vconvSfE5 d a k t => Sys2Proof.Machine.execVconvSfE5 d a k t s
  | .vconvE5Sf d a k t => Sys2Proof.Machine.execVconvE5Sf d a k t s
  | .vconvDfSf d a k t => Sys2Proof.Machine.execVconvDfSf d a k t s
  | .vconvSfDf d a k t => Sys2Proof.Machine.execVconvSfDf d a k t s
  | .vconvSfW d a k t => Sys2Proof.Machine.execVconvSfW d a k t s
  | .vconvWSf d a k t => Sys2Proof.Machine.execVconvWSf d a k t s
  | .kq8 d a b t => Sys2Proof.Machine.execKq8 d a b t s
  | .kdq8 d a b k t => Sys2Proof.Machine.execKdq8 d a b k t s
  | .t2pack d a e t => Sys2Proof.Machine.execT2pack d a e t s
  | .t2unpack d a e k t => Sys2Proof.Machine.execT2unpack d a e k t s
  | .q4pack d a e t => Sys2Proof.Machine.execQ4pack d a e t s
  | .q4unpack d a e k t => Sys2Proof.Machine.execQ4unpack d a e k t s
  | .kand d a b => Sys2Proof.Machine.execKand d a b s
  | .kor d a b => Sys2Proof.Machine.execKor d a b s
  | .kxor d a b => Sys2Proof.Machine.execKxor d a b s
  | .knot d a => Sys2Proof.Machine.execKnot d a s
  | .kmov d a => Sys2Proof.Machine.execKmov d a s
  | .kpop d a => Sys2Proof.Machine.execKpop d a s
  | .kfirst d a => Sys2Proof.Machine.execKfirst d a s
  | .kset d a b => Sys2Proof.Machine.execKset d a b s
  | .kget d a b => Sys2Proof.Machine.execKget d a b s
  | .setvl d a b => Sys2Proof.Machine.execSetvl d a b s
  | .vdead => Sys2Proof.Machine.execVdead s
  | .vld d a e k t => Sys2Proof.Machine.execVld d a e k t s
  | .vlds d a b e k t => Sys2Proof.Machine.execVlds d a b e k t s
  | .vldxO d a b e k t => Sys2Proof.Machine.execVldxO d a b e k t s
  | .vldxU d a b e k t => Sys2Proof.Machine.execVldxU d a b e k t s
  | .vst r a e k t => Sys2Proof.Machine.execVst r a e k t s
  | .vsts r a b e k t => Sys2Proof.Machine.execVsts r a b e k t s
  | .vstxO r a b e k t => Sys2Proof.Machine.execVstxO r a b e k t s
  | .vstxU r a b e k t => Sys2Proof.Machine.execVstxU r a b e k t s
  | .vscaddI r a b e k t => Sys2Proof.Machine.execVscaddI r a b e k t s
  | .vscaddX r a b k t => Sys2Proof.Machine.execVscaddX r a b k t s
  | .vscmin r a b e k t => Sys2Proof.Machine.execVscmin r a b e k t s
  | .vscmax r a b e k t => Sys2Proof.Machine.execVscmax r a b e k t s
  | .vscor r a b e k t => Sys2Proof.Machine.execVscor r a b e k t s
  | .vldb d a e k t => Sys2Proof.Machine.execVldb d a e k t s
  | .vldff d a e k t => Sys2Proof.Machine.execVldff d a e k t s
  | .vscaddF r a b e k t => Sys2Proof.Machine.execVscaddF r a b e k t s
  | .vredsum d a b e k t => Sys2Proof.Machine.execVredsum d a b e k t s
  | .vredmax d a b e k t => Sys2Proof.Machine.execVredmax d a b e k t s
  | .vredmin d a b e k t => Sys2Proof.Machine.execVredmin d a b e k t s
  | .vredmaxu d a b e k t => Sys2Proof.Machine.execVredmaxu d a b e k t s
  | .vredminu d a b e k t => Sys2Proof.Machine.execVredminu d a b e k t s
  | .vfredsum d a b e k t => Sys2Proof.Machine.execVfredsum d a b e k t s
  | .vfredmax d a b e k t => Sys2Proof.Machine.execVfredmax d a b e k t s
  | .vslideup d a b e k t => Sys2Proof.Machine.execVslideup d a b e k t s
  | .vslidedn d a b e k t => Sys2Proof.Machine.execVslidedn d a b e k t s
  | .vperm d a b e k t => Sys2Proof.Machine.execVperm d a b e k t s
  | .vcompress d a b e t => Sys2Proof.Machine.execVcompress d a b e t s
  | .vexpand d a b e t => Sys2Proof.Machine.execVexpand d a b e t s
  | .vbcast d a b e k t => Sys2Proof.Machine.execVbcast d a b e k t s
  | .vmvxs d a e t => Sys2Proof.Machine.execVmvxs d a e t s
  | .vmvsx d a e t => Sys2Proof.Machine.execVmvsx d a e t s
  | .vmerge d a b e k t => Sys2Proof.Machine.execVmerge d a b e k t s
  | .vbin d a b e k t => Sys2Proof.Machine.execVbin d a b e k t s
  | .vmrgs d a b e k t => Sys2Proof.Machine.execVmrgs d a b e k t s
  | .viota d a e k t => Sys2Proof.Machine.execViota d a e k t s
  | .vscan d a e k t => Sys2Proof.Machine.execVscan d a e k t s
  | .vid d e k t => Sys2Proof.Machine.execVid d e k t s
  | .ccopy d a b q l c t => Sys2Proof.Machine.execCcopy d a b q l c t s
  | .cgath d a b q l c t => Sys2Proof.Machine.execCgath d a b q l c t s
  | .cscat d a b q l c t => Sys2Proof.Machine.execCscat d a b q l c t s
  | .cfill d a b q l c t => Sys2Proof.Machine.execCfill d a b q l c t s
  | .cwait d b t => Sys2Proof.Machine.execCwait d b t s
  | .cquery d a b t => Sys2Proof.Machine.execCquery d a b t s
  | .cresume d a b t => Sys2Proof.Machine.execCresume d a b t s
  | .cabort d a b t => Sys2Proof.Machine.execCabort d a b t s
  | .mclaim d t => Sys2Proof.Machine.execMclaim d t s
  | .mfmt a t => Sys2Proof.Machine.execMfmt a t s
  | .mzero t => Sys2Proof.Machine.execMzero t s
  | .mstep a t => Sys2Proof.Machine.execMstep a t s
  | .mdrain d a t => Sys2Proof.Machine.execMdrain d a t s
  | .mdrainl a t => Sys2Proof.Machine.execMdrainl a t s
  | .mrel t => Sys2Proof.Machine.execMrel t s
  | .mstat d t => Sys2Proof.Machine.execMstat d t s
  | .mspill d t => Sys2Proof.Machine.execMspill d t s
  | .lcfg d a t => Sys2Proof.Machine.execLcfg d a t s
  | .lpred d a t => Sys2Proof.Machine.execLpred d a t s
  | .lproof d a t => Sys2Proof.Machine.execLproof d a t s
  | .lstat d a t => Sys2Proof.Machine.execLstat d a t s
  | .sregR d n => Sys2Proof.Machine.execSregR d n s
  | .sregW a n => Sys2Proof.Machine.execSregW a n s
  | .sregX d a n => Sys2Proof.Machine.execSregX d a n s
  | .scall n => Sys2Proof.Machine.execScall n s
  | .tret => Sys2Proof.Machine.execTret s
  | .brk n => Sys2Proof.Machine.execBrk n s
  | .sgld n a => Sys2Proof.Machine.execSgld n a s
  | .sgst n a => Sys2Proof.Machine.execSgst n a s
  | .pflush a => Sys2Proof.Machine.execPflush a s
  | .cflush l a => Sys2Proof.Machine.execCflush l a s
  | .cinv l a => Sys2Proof.Machine.execCinv l a s
  | .idle d => Sys2Proof.Machine.execIdle d s
  | .halt a => Sys2Proof.Machine.execHalt a s
  | .ssync => Sys2Proof.Machine.execSsync s
  | .statWrite v => Sys2Proof.Machine.execStatWrite v s
  | .fflagsWrite v => Sys2Proof.Machine.execFflagsWrite v s
  | .tmcmpWrite v => Sys2Proof.Machine.execTmcmpWrite v s
  | .mbaseWrite v => Sys2Proof.Machine.execMbaseWrite v s
  | .asidWrite v => Sys2Proof.Machine.execAsidWrite v s
  | .pgrootWrite v => Sys2Proof.Machine.execPgrootWrite v s
  | .timerPending => Sys2Proof.Machine.execTimerPending s
  | .interruptEntry => Sys2Proof.Machine.execInterruptEntry s
  | .chunkCreate => Sys2Proof.Machine.execChunkCreate s
  | .stitchValueArrival => Sys2Proof.Machine.execStitchValueArrival s
  | .storeNoticeArrival => Sys2Proof.Machine.execStoreNoticeArrival s
  | .chunkRestart => Sys2Proof.Machine.execChunkRestart s
  | .chunkCommit => Sys2Proof.Machine.execChunkCommit s
  | .loadResultReturn => Sys2Proof.Machine.execLoadResultReturn s
  | .longOpResult => Sys2Proof.Machine.execLongOpResult s
  | .trkReadMiss ring line => Sys2Proof.Machine.execTrkReadMiss ring line s
  | .trkOwnershipRequest ring line => Sys2Proof.Machine.execTrkOwnershipRequest ring line s
  | .trkPurge line => Sys2Proof.Machine.execTrkPurge line s
  | .purgeAck line => Sys2Proof.Machine.execPurgeAck line s
  | .ringCacheEviction ring line => Sys2Proof.Machine.execRingCacheEviction ring line s
  | .pageWalkStart die va => Sys2Proof.Machine.execPageWalkStart die va s
  | .pageWalkComplete die => Sys2Proof.Machine.execPageWalkComplete die s
  | .shootdownAck die => Sys2Proof.Machine.execShootdownAck die s
  | .messageDelivery spkg sep ep mbox ch user payload => Sys2Proof.Machine.execMessageDelivery spkg sep ep mbox ch user payload s
  | .parkedMessageDelivery lid tix entry => Sys2Proof.Machine.execParkedMessageDelivery lid tix entry s
  | .waitwReread => Sys2Proof.Machine.execWaitwReread s
  | .waitwTimeout => Sys2Proof.Machine.execWaitwTimeout s
  | .gbarComplete group => Sys2Proof.Machine.execGbarComplete group s
  | .gbarTimeout => Sys2Proof.Machine.execGbarTimeout s
  | .cwaitTimeout => Sys2Proof.Machine.execCwaitTimeout s
  | .copyCommandActivate quad => Sys2Proof.Machine.execCopyCommandActivate quad s
  | .copyElementGroup cmd n => Sys2Proof.Machine.execCopyElementGroup cmd n s
  | .enlargerLease => Sys2Proof.Machine.execEnlargerLease s
  | .enlargerGroupApply => Sys2Proof.Machine.execEnlargerGroupApply s
  | .lpredCompletion => Sys2Proof.Machine.execLpredCompletion s
  | .placeThread => Sys2Proof.Machine.execPlaceThread s
  | .sliceExpiry => Sys2Proof.Machine.execSliceExpiry s
  | .wparkExpiry => Sys2Proof.Machine.execWparkExpiry s
  | .preempt => Sys2Proof.Machine.execPreempt s
  | .resume lid tix => Sys2Proof.Machine.execResume lid tix s
  | .dependenceReread lid => Sys2Proof.Machine.execDependenceReread lid s
  | .waitevReread queue => Sys2Proof.Machine.execWaitevReread queue s
  | .queueTailWrite queue tail => Sys2Proof.Machine.execQueueTailWrite queue tail s
  | .qctlWrite queue v => Sys2Proof.Machine.execQctlWrite queue v s
  | .eqheadWrite v => Sys2Proof.Machine.execEqheadWrite v s
  | .eqctlWrite v => Sys2Proof.Machine.execEqctlWrite v s
  | .registerWrite mgmt off v => Sys2Proof.Machine.execRegisterWrite mgmt off v s
  | .launch queue => Sys2Proof.Machine.execLaunch queue s
  | .signal queue => Sys2Proof.Machine.execSignal queue s
  | .waitev queue => Sys2Proof.Machine.execWaitev queue s
  | .map queue => Sys2Proof.Machine.execMap queue s
  | .unmap queue => Sys2Proof.Machine.execUnmap queue s
  | .migrate queue => Sys2Proof.Machine.execMigrate queue s
  | .copy queue => Sys2Proof.Machine.execCopy queue s
  | .query queue => Sys2Proof.Machine.execQuery queue s
  | .resetLaunch queue => Sys2Proof.Machine.execResetLaunch queue s
  | .resetWarm queue fails => Sys2Proof.Machine.execResetWarm queue fails s
  | .resetCold queue fails => Sys2Proof.Machine.execResetCold queue fails s
  | .attest queue => Sys2Proof.Machine.execAttest queue s
  | .loadimg queue => Sys2Proof.Machine.execLoadimg queue s
  | .hostRead pa size => Sys2Proof.Machine.execHostRead pa size s
  | .hostWrite pa size v => Sys2Proof.Machine.execHostWrite pa size v s
  | .hostSnoop line invalidate => Sys2Proof.Machine.execHostSnoop line invalidate s
  | .peerRequest op pa size v w => Sys2Proof.Machine.execPeerRequest op pa size v w s
  | .powerEvaluation pkg dieW stackW => Sys2Proof.Machine.execPowerEvaluation pkg dieW stackW s
  | .dieJunctionHot die => Sys2Proof.Machine.execDieJunctionHot die s
  | .dieJunctionTrip die => Sys2Proof.Machine.execDieJunctionTrip die s
  | .inputOutOfRange volts => Sys2Proof.Machine.execInputOutOfRange volts s
  | .hbmRetrain stack chan => Sys2Proof.Machine.execHbmRetrain stack chan s
  | .hbmRetrainEnd stack chan => Sys2Proof.Machine.execHbmRetrainEnd stack chan s
  | .stackCriticalTemp stack => Sys2Proof.Machine.execStackCriticalTemp stack s
  | .selfRefreshExit stack => Sys2Proof.Machine.execSelfRefreshExit stack s
  | .tsrMaxExpiry stack => Sys2Proof.Machine.execTsrMaxExpiry stack s
  | .patrolScrub pa => Sys2Proof.Machine.execPatrolScrub pa s
  | .memerr pa charged asid => Sys2Proof.Machine.execMemerr pa charged asid s
  | .powerOn fails => Sys2Proof.Machine.execPowerOn fails s
  | .startcmdWarm fails => Sys2Proof.Machine.execStartcmdWarm fails s
  | .startcmdCold fails => Sys2Proof.Machine.execStartcmdCold fails s
  | .startStepTimeout step fails => Sys2Proof.Machine.execStartStepTimeout step fails s
  | .firmwareStagingWrite version image => Sys2Proof.Machine.execFirmwareStagingWrite version image s
  | .getVersion attest req => Sys2Proof.Machine.execGetVersion attest req s
  | .getCapabilities attest req => Sys2Proof.Machine.execGetCapabilities attest req s
  | .negotiateAlgorithms attest req => Sys2Proof.Machine.execNegotiateAlgorithms attest req s
  | .getDigests attest req => Sys2Proof.Machine.execGetDigests attest req s
  | .getCertificate attest req => Sys2Proof.Machine.execGetCertificate attest req s
  | .challenge attest req => Sys2Proof.Machine.execChallenge attest req s
  | .getMeasurements attest req => Sys2Proof.Machine.execGetMeasurements attest req s
  | .unsupportedRequest attest req => Sys2Proof.Machine.execUnsupportedRequest attest req s
  | .illop w => Sys2Proof.Machine.execIllop w s
  | .writeBackAcknowledgement => Sys2Proof.Machine.execWriteBackAcknowledgement s
  | .criticalTemperatureCleared stack => Sys2Proof.Machine.execCriticalTemperatureCleared stack s
  | .dieReset die => Sys2Proof.Machine.execDieReset die s
  | .diePowerGating die => Sys2Proof.Machine.execDiePowerGating die s
  | .hostLinkDown => Sys2Proof.Machine.execHostLinkDown s

end Sys2Proof.Machine
end

