-- ==== Sys2Proof/Machine/Idempotent.lean ====
section
/-! DEFINITION. What a program must ensure of the copy commands that it has outstanding (R386, R387), looked at after every step
(log entry 25).
-/

namespace Sys2Proof.Machine

/-- A ring number that no ring has: that of a thread that holds none. -/
def noRing : Nat := 2 ^ 16

/-- Every thread of the package with its chunks. -/
def State.contexts (s : State) : List RingCtx :=
  (if s.live then [s.ctx] else []) ++ s.others ++ s.saved.map (fun v => { ring := noRing, thr := v.thr, chunks := [v.head] })

/-- R87: where a byte of a command's access lies. -/
def RingCtx.target (r : RingCtx) (c : CopyCmd) (need : Need) (ea : Dword) : Option Target :=
  segTarget (r.thr.sg.toList.getD (bitsOf ea.toNat 61 3) (0, 0)) c.smode need ea 1

/-- R106: the byte of the SIV copy that a ring holds for an address space. -/
def State.sivByte (s : State) (r : RingCtx) (va : Nat) : Option Byte :=
  (s.coh.siv.find? (fun l => l.ring == r.ring && l.asid == r.thr.asid && l.va == va / 64)).bind (fun l => l.data[va % 64]?)

/-- R400, R404: memory as it will be when the writes that wait in the controllers' queues are done. -/
def State.drained (s : State) : State :=
  { s with mem := s.plat.queued.foldl (fun m w => match s.key w.pa with | some a => w.into m a | none => m) s.mem }

/-- The byte that stands there now, reached without any effect. -/
def State.byteAt (s : State) (r : RingCtx) (c : CopyCmd) (need : Need) (ea : Dword) : Option Byte :=
  match r.target c need ea with
  | none => none
  | some (.global va) => (s.sivByte r va).or ((s.drained.peek r.thr.pgroot va 1).bind List.head?)
  | some (.priv o) => (r.chunks.find? (fun k => k.num == c.chunk)).map (fun k => k.lsByte o)
  | some (.shared o) => (Memory.getBytes r.thr.shared o 1).head?

/-- The storage that the byte is: two bytes are one where these agree. -/
def State.spot (s : State) (r : RingCtx) (c : CopyCmd) (need : Need) (ea : Dword) : Option (Nat × Nat) :=
  match r.target c need ea with
  | none => none
  | some (.global va) =>
    (s.peekFrom 0 r.thr.pgroot va 4 0 (bitsOf r.thr.pgroot.toNat 16 36 * 2 ^ 16)).map (fun f => (0, s.homeAddr (f.mapped va).pa))
  | some (.shared o) => some (1, o)
  | some (.priv o) => some (c.chunk + 2, o)

/-- R278: entry m of a command's index list, as it stands. -/
def State.indexNow (s : State) (r : RingCtx) (c : CopyCmd) (m : Nat) : Nat :=
  leNat ((eaBytes (c.shape.iaddr + BitVec.ofNat 64 (m * c.shape.idxBytes)) c.shape.idxBytes).map (fun ea => (s.byteAt r c .load ea).getD 0))

/-- R387: the EAs that a command may read. -/
def State.copySources (s : State) (r : RingCtx) (c : CopyCmd) : List Dword := c.sourceEas (s.indexNow r c)

/-- R387: the EAs that a command writes, each with the bit at which a narrow element begins. -/
def State.copyDests (s : State) (r : RingCtx) (c : CopyCmd) : List (Dword × Nat) := c.destEas (s.indexNow r c)

/-- R387: the storage that a command writes. -/
def State.copyWrites (s : State) (r : RingCtx) (c : CopyCmd) : List (Nat × Nat) :=
  (s.copyDests r c).filterMap (fun p => s.spot r c .store p.1)

/-- R387: the storage that a command may read. -/
def State.copyReads (s : State) (r : RingCtx) (c : CopyCmd) : List (Nat × Nat) := (s.copySources r c).filterMap (s.spot r c .load)

/-- R387: a command writes a byte that it may read, or writes one twice; narrow elements of one byte do not meet (R278). -/
def State.copyFolds (s : State) (r : RingCtx) (c : CopyCmd) : Bool :=
  (s.copyWrites r c).any (s.copyReads r c).contains
    || !decide ((s.copyDests r c).filterMap (fun p => (s.spot r c .store p.1).map (fun q => (q, p.2)))).Nodup

/-- R133, R387: another outstanding command of the thread writes a byte that this one reads or writes. -/
def State.copyMeets (s : State) (r : RingCtx) (c : CopyCmd) : Bool :=
  r.thr.cmds.any (fun d => d.committed && d != c && (s.copyWrites r d).any (fun p => (s.copyReads r c).contains p || (s.copyWrites r c).contains p))

/-- Whether one of these bytes has changed over a step. -/
def changedBytes (before after : State) (r0 r : RingCtx) (c0 c : CopyCmd) (need : Need) (eas : List Dword) : Bool :=
  eas.any (fun ea => match before.byteAt r0 c0 need ea, after.byteAt r c need ea with
    | some a, some b => a != b
    | _, _ => false)

/-- Whether an event is an act of the focused ring's own thread on memory or its LS. -/
def threadEvent : Instr → Bool
  | .chunkCommit => true
  | .copyElementGroup _ _ => true
  | .copyCommandActivate _ => true
  | .enlargerLease => true
  | .enlargerGroupApply => true
  | .lpredCompletion => true
  | _ => false

/-- Whether the step that begins in this state is an act of the thread on the ring that it focuses. -/
def State.threadStep (before : State) : Bool :=
  match before.agenda with
  | .event _ _ i :: _ => threadEvent i
  | _ => true

/-- Whether a command has performed something between two states. -/
def CopyCmd.moved (c0 c : CopyCmd) : Bool :=
  c0.pos != c.pos || c0.ahead != c.ahead || c0.next != c.next || c0.bits != c.bits || c0.scaled != c.scaled

/-- R8, R387: what a step shows of one outstanding command. The command itself, or another party, breaks the rule: its address space is
in breach. The thread itself has changed a byte that the command reads or writes, or another of its commands writes one: R133 and R291
say what the command does then, and only a second performance breaks the rule. -/
def State.checkCopy (before : State) (r : RingCtx) (s : State) (c : CopyCmd) : State :=
  let own := before.threadStep && s.live && r.ring == s.ring
  let r0 := before.contexts.find? (fun q => q.thr.lid == r.thr.lid && q.thr.tix == r.thr.tix)
  let c0 := r0.bind (fun q => q.thr.cmds.find? (fun d => d.ticket == c.ticket && d.record == c.record))
  let (read, wrote) := match r0, c0 with
    | some r0, some c0 =>
      (changedBytes before s r0 r c0 c .load (s.copySources r c),
        changedBytes before s r0 r c0 c .store ((s.copyDests r c).map (fun p => p.1)) && !(own && c0.moved c))
    | _, _ => (false, false)
  if s.copyFolds r c || ((read || wrote) && !own) then s.breach r.thr.asid
  else if own && (read || wrote || s.copyMeets r c) then s.setCmd c { c with dirty := true }
  else s

/-- R386, R387: the outstanding commands of every thread, those of a thread without a ring among them, after a step. -/
def State.checkCopies (s before : State) : State :=
  s.contexts.foldl (fun s r => (r.thr.cmds.filter (fun c => c.committed)).foldl (State.checkCopy before r) s) s

end Sys2Proof.Machine
end

