-- ==== Sys2Proof/Machine/Turns.lean ====
section
/-! DEFINITION. Turns: the issue of one instruction by the focused chunk (R16, R44, R90, R330, R332), what an empty agenda
lets happen (log entry 3), the passing of time (log entry 4), and the placing of a word where the next fetch finds it (log
entry 2).
-/

namespace Sys2Proof.Machine

/-! ## One turn of a chunk -/

/-- R16: the chunk waits until something other than its own issue lets it go on. -/
def Chunk.stopped (c : Chunk) : Bool := c.trap.isSome || c.ended || c.squashed || c.capped

/-- R44: the recorded fault that the head takes now: that of a chunk at its end before a pending interrupt, another one after
it. -/
def State.dueTrap (s : State) (atEnd : Bool) : Option Trap := if s.isHead && (!atEnd || s.cpu.ended) then s.cpu.trap else none

/-- R330: an interrupt is taken at this boundary. -/
def State.interruptDue (s : State) : Bool :=
  s.isHead && statIe s.cpu.stat && s.interruptCause.isSome && s.atBoundary.isSome

/-- The word that the chunk executes next: the one it executes already, when it is parked or runs a repeat frame, else the
word at pc. -/
def State.nextWord (s : State) : Except Stop (Word × State) :=
  if s.cpu.frame.isSome || s.cpu.park.isSome then .ok (s.cpu.ir, s) else s.fetchWord s.cpu.pc

/-- R90, R332: a fetch that fails with a cause: DOUBLE at a handler's first instruction, else the fault. -/
def State.fetchFault (s : State) (c : Byte) (i : Dword) : State :=
  if s.cpu.entering && s.isHead then s.doubleTrap s.cpu.pc else s.raise c i

/-- R90, R332, R403: a fetch that does not complete. -/
def State.fetchFailed (s : State) (e : Stop) : State :=
  match Res.ofFetch s e with
  | .trap t c i => t.fetchFault c i
  | .memerr t pa => t.memoryError pa
  | .wait t => { t with cpu := { t.cpu with fetching := s.cpu.fetching || s.cpu.held.isEmpty } }
  | .done t => t
  | .gone t => t

/-- The word has come: the chunk executes it. -/
def State.fetchedWord (s : State) (w : Word) : State :=
  { s with cpu := { s.cpu with ir := w, entering := false, fetching := false, held := if s.cpu.fetching then [] else s.cpu.held } }

/-- The same chunk of the same thread is focused before and after; one that opens a region is numbered anew (R23). -/
def State.sameChunk (t before : State) : Bool :=
  t.live && before.live && t.ring == before.ring && t.thr.lid == before.thr.lid && t.thr.tix == before.thr.tix
    && (before.thr.region.isNone || t.cpu.num == before.cpu.num)

/-- R23-R25: the end of an instruction or event of the chunk: when turns have passed for it, the region's rules see its new
pc. -/
def State.settled (t before : State) : State :=
  if t.sameChunk before && t.cpu.turn != before.cpu.turn && !t.cpu.stopped then t.settle before.cpu.pc else t

/-- The outcome with its next state settled. -/
def settleOutcome (before : State) : Host.Outcome State Fault Refusal → Host.Outcome State Fault Refusal
  | .next t => .next (t.settled before)
  | .fault f => .fault f
  | .refused r => .refused r

/-- R157: what a word does: the instruction that it encodes, or ILLOP. -/
noncomputable def runWord (w : Word) (s : State) : Host.Outcome State Fault Refusal :=
  match decode w with
  | .ok i => exec i s
  | .error _ => exec (.illop w) s

/-- R234, R328: the head's thread has yielded its ring: it is pre-empted before any interrupt and any further instruction, once nothing
that it waits for is left (R405). -/
def State.leavesNow (s : State) : Bool := s.thr.leaving && s.isHead

/-- R16: the focused chunk's turn: a recorded fault, the pre-emption that a yield has asked for or a pending interrupt at the head,
else its next instruction, for which it presents the request with which it has waited (R400, R404). While the thread is about to leave
its ring, no chunk but the head goes on (R234). -/
noncomputable def State.issueTurn (s : State) : Host.Outcome State Fault Refusal :=
  match s.dueTrap true with
  | some t => .next (s.takeDue t)
  | none =>
    if s.leavesNow then (if s.canSave then s.preempted else .next s)
    else if s.interruptDue then exec .interruptEntry s
    else match s.dueTrap false with
      | some t => .next (s.takeDue t)
      | none =>
        if s.cpu.stopped || (s.thr.leaving && !s.isHead) then .next s
        else match s.present.nextWord with
          | .error e => .next (s.present.fetchFailed e)
          | .ok (w, t) =>
            settleOutcome s (runWord w (t.fetchedWord w))

/-! ## Events -/

/-- A step of the opcode table that is part of an instruction, and no event of its own. -/
def partOfInstr : Instr → Bool
  | .statWrite _ => true
  | .fflagsWrite _ => true
  | .tmcmpWrite _ => true
  | .mbaseWrite _ => true
  | .asidWrite _ => true
  | .pgrootWrite _ => true
  | .illop _ => true
  | _ => false

/-- Whether a constructor is an event: it has no encoding and is no part of an instruction. -/
def isEvent (i : Instr) : Bool := (encode i).isNone && !partOfInstr i

/-- An event while the ring and chunk it concerns are focused. -/
def eventTurn (i : Instr) (s : State) : Host.Outcome State Fault Refusal :=
  if isEvent i then settleOutcome s (exec i s) else .fault .agenda

/-! ## An empty agenda (log entry 3) -/

/-- The purge that is in progress on a line goes on. -/
noncomputable def purgeEvent (s : State) : Option Instr :=
  match s.coh.dir.find? (fun d => d.purge.isSome) with
  | none => none
  | some d =>
    match d.purge with
    | some p => some (if p.left.isEmpty then .purgeAck d.line else .trkPurge d.line)
    | none => none

/-- R101: the oldest walk goes on. -/
noncomputable def walkEvent (s : State) : Option Instr := s.coh.walks.head?.map (fun w => .pageWalkComplete w.die)

/-- The acknowledgement that a shootdown waits for. -/
noncomputable def shootEvent (s : State) : Option Instr :=
  match s.coh.shoots with
  | x :: _ => match x.left with
    | d :: _ => some (.shootdownAck d)
    | [] => none
  | [] => none

/-- What the host interface does by itself when it has no fetched command: a dependence, a parked message, a migration, a WAITEV. -/
noncomputable def quietEvent (s : State) : Option Instr :=
  match s.host.launches.find? (fun l => !l.deps.isEmpty && l.early.isNone), s.host.parked, s.host.moves with
  | some l, _, _ => some (.dependenceReread l.lid)
  | none, p :: _, _ => some (.parkedMessageDelivery p.lid p.tix p.entry)
  | none, [], m :: _ => some (.migrate m.queue)
  | none, [], [] => (s.host.queues.find? (fun b => b.waits.any (fun c => cmdOpc c == 0x03))).map (fun b => .waitevReread b.id)

/-- What the host interface does when no thread runs: a fetched command that may start, else what it does by itself. -/
noncomputable def hostEvent (s : State) : Option Instr :=
  match s.host.queues.findSome? (fun (b : Queue) => (b.held.bind (fun c => if b.startable c then some (b, c) else none))) with
  | some (b, c) =>
    match cmdOpc c with
    | 0x01 => some (.launch b.id)
    | 0x02 => some (.signal b.id)
    | 0x03 => some (.waitev b.id)
    | 0x04 => some (.map b.id)
    | 0x05 => some (.unmap b.id)
    | 0x06 => some (.migrate b.id)
    | 0x07 => some (.copy b.id)
    | 0x08 => some (.query b.id)
    | 0x09 =>
      some (if cmdArg c 0 1 = 1 then .resetWarm b.id [] else if cmdArg c 0 1 = 2 then .resetCold b.id [] else .resetLaunch b.id)
    | 0x0A => some (.attest b.id)
    | _ => some (.loadimg b.id)
  | none => quietEvent s

/-- The copy engines of the focused ring go on: one of the active commands performs a group, else a queued one is activated. -/
noncomputable def copyEvent (s : State) : Option Instr :=
  let busy := (List.range s.thr.cmds.length).filter (fun i => match s.thr.cmds[i]? with
    | some c => c.active && c.fault.isNone
    | none => false)
  match busy[s.tick % busy.length]? with
  | some i => some (.copyElementGroup i 0)
  | none => (s.thr.cmds.find? (fun c => c.queued c.quad)).map (fun c => .copyCommandActivate c.quad)

/-- R313, R316: the parked lpred completes now: its stream is whole, or a command of the binding has failed. -/
def State.lpredDue (s : State) (p : Park) : Bool :=
  match s.cpu.loupe with
  | some l => s.thr.cmds.any (fun c => s.myLoupeCmd c && c.fault.isSome) || decide (LoupeCfg.need { bytes := l.cfg } p.c ≤ l.taken.length)
  | none => false

/-- What lets a parked instruction go on. -/
noncomputable def parkEvent (s : State) (p : Park) : Option Instr :=
  match p.kind with
  | .waitw => some .waitwReread
  | .gbar => some (if s.limitPassed p.b && !groupReleased s.host.groups p.c s.member then .gbarTimeout else .gbarComplete p.c)
  | .cwait => copyEvent s
  | .fence => copyEvent s
  | .mstep =>
    match s.cpu.bank with
    | some b => if s.cpu.leaseReady then some (if b.lease.isSome then .enlargerGroupApply else .enlargerLease) else copyEvent s
    | none => none
  | .menl =>
    match s.cpu.bank with
    | some b => if b.lease.isSome then none else some .enlargerLease
    | none => none
  | .lpred => if s.lpredDue p then some .lpredCompletion else copyEvent s
  | .idle => if s.thr.tmcmp = 0 then none else some .timerPending
  | .pflush => none
  | .cflush => none
  | .mclaim => none
  | .lcfg => none

/-- What happens before the head's next issue, and to which chunk: results under way, acknowledgements, the head's end and
commit, a restart, its parked instruction, the copy engines at every second step. -/
noncomputable def headEvent (s : State) : Option (Nat × Instr) :=
  if s.cpu.trap.isSome then none
  else if s.cpu.squashed then some (0, .chunkRestart)
  else if s.cpu.flight.any (fun f => f.kind == .long) then some (0, .longOpResult)
  else if !s.cpu.flight.isEmpty then some (0, .loadResultReturn)
  else if s.ackDue then some (0, .writeBackAcknowledgement)
  else if s.cpu.ended then
    match s.younger with
    | [] => some (0, .chunkCreate)
    | n :: _ =>
      if !n.inbox.isEmpty then some (1, .storeNoticeArrival)
      else if !s.cpu.outbox.isEmpty then some (1, .stitchValueArrival)
      else some (0, .chunkCommit)
  else match s.cpu.park with
    | some p => (parkEvent s p).map (fun i => (0, i))
    | none => if s.tick % 2 = 1 then (copyEvent s).map (fun i => (0, i)) else none

/-- The purges, walks and shootdowns of the package go on first. -/
noncomputable def packageEvent (s : State) : Option Instr :=
  match purgeEvent s with
  | some i => some i
  | none =>
    match walkEvent s with
    | some i => some i
    | none => shootEvent s

/-- R400, R404: the first of the requests that wait in the controllers' queues and can be served now. -/
def State.firstAsk (s : State) : Option (Nat × Nat) := s.asks.find? (fun q => s.serving q.1 && !s.behind q.1 q.2)

/-- Whether a request is one of a ring's thread. -/
def RingCtx.asks (r : RingCtx) (q : Nat × Nat) : Bool := r.chunks.any (fun c => c.asked == some q) || r.thr.cmds.any (fun c => c.asked == some q)

/-- R400, R404: the slot or command that waits with a request goes on; one of another ring is focused. None for a chunk that a leaving
thread holds back. -/
noncomputable def State.askTurn (s : State) (q : Nat × Nat) : Option (Host.Outcome State Fault Refusal) :=
  match s.chunks.findIdx? (fun c => c.asked == some q), s.thr.cmds.findIdx? (fun c => c.asked == some q) with
  | some i, _ =>
    let t := s.focusChunk i
    if t.thr.leaving && !t.isHead then none
    else some (match t.cpu.park with
      | some _ => eventTurn .waitwReread t
      | none => t.issueTurn)
  | none, some i => some (eventTurn (.copyElementGroup i 0) s)
  | none, none => (s.others.find? (fun r => r.asks q)).map (fun r => .next (s.focus r.ring 0))

/-- With an empty agenda the package serves purges, walks and shootdowns, then the first waiting request that its stack serves, else the
focused ring's head goes on; without a thread on the focused ring, a ready thread is placed, another ring is focused, or the host
interface goes on. -/
noncomputable def State.idleTurn (s : State) : Host.Outcome State Fault Refusal :=
  match packageEvent s with
  | some i => exec i s
  | none =>
    match s.firstAsk.bind s.askTurn with
    | some r => r
    | none =>
    if s.live then
      let s := s.focusChunk 0
      match headEvent s with
      | some (k, i) => eventTurn i (s.focusChunk k)
      | none => s.issueTurn
    else if s.candidateThread.isSome then exec .placeThread s
    else match s.others with
      | r :: _ => .next (s.focus r.ring 0)
      | [] =>
        match hostEvent s with
        | some i => exec i s
        | none => .next s

/-! ## A turn, and time -/

/-- What the agenda names happens. -/
noncomputable def takeTurn (a : Turn) (s : State) : Host.Outcome State Fault Refusal :=
  match a with
  | .issue ring chunk =>
    let s := s.focus ring chunk
    if s.live then s.issueTurn else .next s
  | .event ring chunk i => eventTurn i (s.focus ring chunk)

/-- The step without the passing of time: the head of the agenda, or what happens without one. -/
noncomputable def State.turn (s : State) : Host.Outcome State Fault Refusal :=
  match s.agenda with
  | [] => s.idleTurn
  | a :: rest => takeTurn a { s with agenda := rest }

/-- R149: at least one cycle passes in a step, and how many more is free (log entry 4). -/
noncomputable def State.pass (s : State) : State := { s with cyc := s.cyc + 1 + Config.stepCycles s.tick, tick := s.tick + 1 }

/-- R356, R400, R404: what the package does by itself at the end of a step, before time passes: what has had to wait for a stack is
tried again, and the queues whose tail words the step has written fetch; and what the step shows of the outstanding copy commands (R387). -/
def State.rounds (s before : State) : State :=
  let t := State.retryFetch (State.housekeep { s with plat := { s.plat with serves := none } })
  (t.kickMoved before 65537).checkCopies before

/-- The outcome with what the package does by itself done, and the time of its next state passed. -/
noncomputable def passOutcome (before : State) : Host.Outcome State Fault Refusal → Host.Outcome State Fault Refusal
  | .next t => .next (t.rounds before).pass
  | .fault f => .fault f
  | .refused r => .refused r

/-! ## Placing a word (log entry 2) -/

/-- The word's bytes as memory holds them (R3). -/
def wordBytes (w : Nat) : List Byte := leBytes 4 w

/-- The word stored at a physical address; an I-cache copy of anything there is gone. -/
def State.putWord (s : State) (pa w : Nat) : State :=
  { s with
    mem := Memory.setBytes s.mem pa (wordBytes w)
    coh := { s.coh with icache := [] } }

/-- Page tables that map VA 0 to 512 MiB to the same physical addresses, with every right. -/
def placeTables (m : List Host.Cell) : List Host.Cell :=
  let m := Memory.setBytes m 0x10000 (leBytes 8 0x20001)
  let m := Memory.setBytes m 0x20000 (leBytes 8 0x30001)
  Memory.setBytes m 0x30000 (leBytes 8 0xDF)

/-- A head in S mode at VA 0x40000. -/
def placedChunk : Chunk := { Chunk.blank with pc := 0x40000, start := 0x40000, stat := 1 }

/-- A running thread whose sg0 is all of global memory and whose sg1 is LS, with those page tables. -/
def placedThread : Thread :=
  { Thread.blank with
    st := .running, pgroot := 0x10000
    sg := (Vector.replicate 8 (0x8000000000000000#64, 0#64)).set 0
      (BitVec.ofNat 64 (2 ^ 58 + 2 ^ 59 + 2 ^ 60 + 2 ^ 61), BitVec.ofNat 64 (2 ^ 57 - 1)) |>.set 1
      (BitVec.ofNat 64 (2 ^ 58 + 2 ^ 59 + 2 ^ 61 + 2 ^ 62), 0x3FFFF#64) }

/-- A ring none of whose requests waits in a controller's queue: they are made again. -/
def RingCtx.unasked (r : RingCtx) : RingCtx :=
  { r with
    chunks := r.chunks.map (fun (c : Chunk) => { c with asked := none, held := [] })
    thr := { r.thr with cmds := r.thr.cmds.map (fun (c : CopyCmd) => { c with asked := none, held := [] }) } }

/-- A thread on the focused ring about to fetch the word, with nothing of the platform or the caches in the way. -/
def State.placed (s : State) (w : Nat) : State :=
  State.putWord
    { s with
      cpu := placedChunk, older := [], younger := [], thr := placedThread, live := true
      mem := placeTables s.mem, coh := Coherence.empty, host := { s.host with moves := [] }
      others := s.others.map RingCtx.unasked
      plat := { s.plat with poison := [], soft := [], queued := [], due := [], serves := none, stk := Vector.replicate 16 Stack.serving }
      agenda := [.issue s.ring 0] } 0x40000 w

/-- The focused head can fetch and issue now, from the address space in force. -/
def State.atRest (s : State) : Bool :=
  s.live && s.isHead && !s.cpu.stopped && s.cpu.park.isNone && s.cpu.frame.isNone && s.cpu.flight.isEmpty && !statIe s.cpu.stat
    && !s.thr.leaving && s.thr.fetchOld == FetchOld.empty && s.coh.dir.isEmpty && s.plat.queued.isEmpty && s.asks.isEmpty

/-- The physical address from which the focused chunk fetches. -/
def State.fetchPa (s : State) : Option Nat :=
  match segTarget (s.descriptor s.cpu.pc) s.smode .fetch s.cpu.pc 4 with
  | some (.global va) =>
    if 64 < va % 64 + 4 then none
    else match s.translate s.ring s.thr.asid s.thr.pgroot s.smode false .gather .fetch va with
      | .ok (m, _) => s.key m.pa
      | .error _ => none
  | _ => none

/-- Where the focused head is at rest and its fetch leads to memory, the word is stored there; else a thread is placed. -/
def State.placeWord (s : State) (w : Nat) : State :=
  if s.atRest then
    match s.fetchPa with
    | some pa => State.putWord { s with agenda := [.issue s.ring 0] } pa w
    | none => s.placed w
  else s.placed w

end Sys2Proof.Machine
end

