-- ==== Sys2Proof/Machine/Step.lean ====
section
/-! DEFINITION. The step: one turn, and the time that passes in it. -/

namespace Sys2Proof.Machine

/-- One step of the package. -/
noncomputable def step (s : State) : Host.Outcome State Fault Refusal := passOutcome s s.turn

/-- The state with an instruction of these bits where the next step fetches; an instruction is one 32-bit word (R140), so
nbits is 32. -/
def State.withFetchWord (s : State) (_nbits w : Nat) : State := s.placeWord (w % 2 ^ 32)

end Sys2Proof.Machine
end

