-- ==== Sys2Proof/Safety.lean ====
section
/-! DEFINITION. The terms in which statements speak: when an instruction of the focused chunk issues, what its completion
leaves, and the canonical form of memory.
-/

namespace Sys2Proof.Machine

/-- Nothing holds back the instruction at the focused chunk, and its completion raises no CMASK: the slot takes part in issue
and every value it reads is there (R16), a held instruction is at the head (R40), no result is read too early under SCHK
(R155), and it writes no register outside the governing create mask (R29). -/
structure Clear (u : Use) (s : State) : Prop where
  ready : s.notReady u.again = false
  held  : u.held = true → s.isHead = true
  free  : s.mustWait u = false
  stall : s.stallOf u = none
  mask  : s.cmaskOf u.writes = none

/-- What completion leaves of the state t that the instruction's own effect gives: 1 + ST turns have passed, late and
interlocked results are noted (R153, R154), a region remembers what was written, and a speculative chunk what it has consumed (R26,
R30). -/
def completed (u : Use) (s t : State) : State := ((t.noteReads u.needs).noteWrites u.writes).retire u s

/-- The instruction completes from s with the effect t. -/
def Completes (i : Instr) (u : Use) (s t : State) : Prop := exec i s = .next (completed u s t)

/-- The instruction completes from s, writes v to X[D] and moves the pc on; nothing else changes. -/
def WritesX (i : Instr) (u : Use) (d : Reg) (s : State) (v : Dword) : Prop := Completes i u s (s.wx d v).advance

/-- The use of a scalar instruction that reads X[A] and X[B] and writes X[D] (R153). -/
def useAB (d a b : Reg) : Use := { reads := [.x a, .x b], writes := [.x d] }

/-- The use of a scalar instruction that reads X[A] and writes X[D] (R153). -/
def useA (d a : Reg) : Use := { reads := [.x a], writes := [.x d] }

/-- Wrap(z, 64) of R6. -/
def wrap64 (z : Int) : Dword := BitVec.ofInt 64 z

/-- Sext(z, n) of R6: the low n bits of z as a signed number, at 64 bits. -/
def sextN (n : Nat) (z : Int) : Dword := BitVec.ofInt 64 (signed n (wrap n z))

/-- The instruction completes from s, writes an FP result and its flags, and moves the pc on (R184, R189). -/
def WritesF (i : Instr) (u : Use) (d : Reg) (s : State) (r : Nat × BitVec 7) : Prop :=
  Completes i u s (((s.wx d (BitVec.ofNat 64 r.1)).addFlags r.2).advance)

/-- The instruction completes from s and writes the active elements below e of V[D] at width w: element j takes the low w
bits of g j, every other element keeps its value (R237); vstart is cleared (R238). -/
def SetsV (i : Instr) (u : Use) (s : State) (w e : Nat) (d : Reg) (k : BitVec 2) (g : Nat → Int) : Prop :=
  ∃ v : VReg, (∀ j, j < 4096 / w → velem w v j = if s.active k e j then wrap w (g j) else velem w (s.vbase d) j)
    ∧ Completes i u s (s.wv d v).vdone

/-- The same for a mask register: bits of active elements take g j (R250). -/
def SetsK (i : Instr) (u : Use) (s : State) (e : Nat) (d : KIdx) (k : BitVec 2) (g : Nat → Prop) : Prop :=
  ∃ m : KReg, (∀ j, j < 512 → (m.getLsbD j = true ↔ if s.active k e j then g j else (s.kbase d).getLsbD j = true))
    ∧ Completes i u s (s.wk d m).vdone

/-- The same for FP elements, whose flags are ORed into fflags (R78). -/
def SetsFp (i : Instr) (u : Use) (s : State) (w e : Nat) (d : Reg) (k : BitVec 2) (g : Nat → Nat × BitVec 7) : Prop :=
  ∃ (v : VReg) (fl : BitVec 7),
    (∀ j, j < 4096 / w → velem w v j = if s.active k e j then (g j).1 % 2 ^ w else velem w (s.vbase d) j)
    ∧ (∀ n, fl.getLsbD n = true ↔ ∃ j, s.active k e j = true ∧ (g j).2.getLsbD n = true)
    ∧ Completes i u s ((s.wv d v).addFlags fl).vdone

/-! ## Rounding (R62 to R65) -/

/-- R62, R63, R67: what a rounding makes of a magnitude of u units in the last place, of a number that is negative or not: n units. -/
def RoundsTo (r : Rnd) (neg : Prop) (u : ℝ) (n : Nat) : Prop :=
  let lo := ⌊u⌋₊
  let rest := u - lo
  (rest = 0 → n = lo)
  ∧ (rest ≠ 0 → (n = lo ∨ n = lo + 1)
    ∧ (r.mode = 0 → (n = lo + 1 ↔ 1 / 2 < rest ∨ (rest = 1 / 2 ∧ lo % 2 = 1)))
    ∧ (r.mode = 1 → n = lo)
    ∧ (r.mode = 2 → (n = lo + 1 ↔ neg))
    ∧ (r.mode = 3 → (n = lo + 1 ↔ ¬ neg))
    ∧ (r.mode = 4 → (n = lo + 1 ↔ 1 / 2 ≤ rest))
    ∧ (r.mode = 5 → (n = lo + 1 ↔ (mix64 r.seed r.key).toNat % 2 ^ 32 < ⌊rest * 2 ^ 32⌋₊)))

/-- The real number that a finite value stands for. -/
noncomputable def realOf (v : Val) : ℝ := (v.num : ℝ) / (v.den : ℝ)

/-- Whether a value is a number: neither a NaN nor an infinity. -/
def isNumber : Val → Bool
  | .nan _ => false
  | .inf _ => false
  | .zero _ => true
  | .fin _ _ _ => true

/-- R63 to R65: the bits b and the flags fl are the number x, not 0, rounded once to the format f: to the nearest multiple that the mode
selects of the unit in the last place, which below the smallest normal is that of the subnormals; past the largest finite number, to
what R64 gives; NX when the value differs, UF when x is below the smallest normal and the value differs, OF with NX on overflow. -/
def Rounds (f : Fmt) (r : Rnd) (x : ℝ) (b : Nat) (fl : BitVec 7) : Prop :=
  ∃ (lg : Int) (n : Nat), (2 : ℝ) ^ lg ≤ |x| ∧ |x| < (2 : ℝ) ^ (lg + 1) ∧
    let ulp : ℝ := (2 : ℝ) ^ (max lg f.emin - f.p + 1)
    let most : ℝ := (f.maxSig : ℝ) * (2 : ℝ) ^ (f.emax - f.p + 1)
    let y : ℝ := (n : ℝ) * ulp
    let v := f.decode b
    let away := f.infs = true ∧ (r.mode = 0 ∨ r.mode = 4 ∨ r.mode = 5 ∨ (r.mode = 2 ∧ x < 0) ∨ (r.mode = 3 ∧ 0 < x))
    RoundsTo r (x < 0) (|x| / ulp) n ∧ b < 2 ^ f.width
    ∧ (v.isNeg = true ↔ x < 0)
    ∧ (most < y → fl = flagOF ||| flagNX ∧ (away → ∃ neg, v = .inf neg) ∧ (¬ away → isNumber v = true ∧ |realOf v| = most))
    ∧ (y ≤ most → isNumber v = true ∧ |realOf v| = y ∧ (y = |x| → fl = 0)
      ∧ (y ≠ |x| → (|x| < (2 : ℝ) ^ f.emin → fl = flagUF ||| flagNX) ∧ ((2 : ℝ) ^ f.emin ≤ |x| → fl = flagNX)))

/-- The same for any number: 0 gives a zero of the sign that zero says, and no flag (R66). -/
def RoundsOr0 (f : Fmt) (r : Rnd) (zero : Bool) (x : ℝ) (p : Nat × BitVec 7) : Prop :=
  (x ≠ 0 → Rounds f r x p.1 p.2) ∧ (x = 0 → f.decode p.1 = .zero zero ∧ p.2 = 0)

/-- What a masked vector instruction with operands V[A] and B uses (R236, R144). -/
def useVec (lat : Nat) (d a b : Reg) (f k t : BitVec 2) : Use :=
  { reads := vecReads k ++ [.v a] ++ formReads f b, writes := [.v d, .vstart], lat := lat, st := t }

/-- The instruction completes from s and writes some elements of V[D] at width w: where f gives a number, element j takes
its low w bits; the other elements keep their values. vstart is cleared (R238). -/
def SetsEl (i : Instr) (u : Use) (s : State) (w : Nat) (d : Reg) (f : Nat → Option Int) : Prop :=
  ∃ v : VReg, (∀ j, j < 4096 / w → velem w v j = (match f j with
      | some z => wrap w z
      | none => velem w (s.vbase d) j))
    ∧ Completes i u s (s.wv d v).vdone

/-- The value of a loop variable after the passes 0 to n - 1, of which those that p selects run. -/
def loopTo {α : Type} (p : Nat → Bool) (f : α → Nat → α) (a : α) : Nat → α
  | 0 => a
  | n + 1 => if p n then f (loopTo p f a n) n else loopTo p f a n

/-- R257: the instruction completes from s; with elements to combine it writes element 0 of V[D] and ORs the flags of its
steps, and with none it writes neither. -/
def Reduces (i : Instr) (u : Use) (s : State) (w : Nat) (d a b : Reg) (k : BitVec 2) (f : Nat → Nat → Nat → Nat × BitVec 7) :
    Prop :=
  let e := min s.cpu.vl.toNat (4096 / w)
  let r := loopTo (s.active k e) (fun (r : Nat × BitVec 7) j =>
    ((f r.1 (velem w (s.rv a) j) j).1, r.2 ||| (f r.1 (velem w (s.rv a) j) j).2)) (velem w (s.rv b) 0, 0) e
  (e = 0 → Completes i u s s.vdone)
    ∧ (0 < e → ∃ v : VReg, (∀ j, j < 4096 / w → velem w v j = if j = 0 then r.1 % 2 ^ w else velem w (s.vbase d) j)
      ∧ Completes i u s ((s.wv d v).addFlags r.2).vdone)

/-- The instruction traps: cause c and tinfo x, at the instruction itself, everything else as it was (R44, R326), but that a
speculative chunk remembers which registers it has consumed (R30). -/
def Traps (i : Instr) (s : State) (c : Byte) (x : Dword) : Prop := ∃ rs, exec i s = .next ((s.noteReads rs).raise c x)

/-- The instruction begins and parks or waits in t: a speculative chunk has consumed what the instruction reads (R30). -/
def Waits (i : Instr) (u : Use) (s t : State) : Prop := exec i s = .next (t.noteReads u.needs)

/-- The instruction begins and faults in t: cause c and tinfo x, at the instruction itself. -/
def Faults (i : Instr) (u : Use) (s t : State) (c : Byte) (x : Dword) : Prop := exec i s = .next ((t.noteReads u.needs).raise c x)

/-- What the instruction makes of an access that stops in t: it takes a fault, an error response with its log entry (R89, R102), or,
for the head, an uncorrectable error (R403); or it waits, in the queue that the access names (R101, R106, R400). -/
def TakesStop (i : Instr) (u : Use) (s t : State) : Stop → Prop
  | .trap c x => Faults i u s t c x
  | .logged c x pa k => s.isHead = true → Faults i u s (t.logError pa (srcCode 0 t.thr.asid t.ring) k) c x
  | .memerr pa => s.isHead = true → exec i s = .next (t.memoryError pa)
  | .wait => Waits i u s t.unheld
  | .queue q => Waits i u s (t.queueUp q)
  | .capacity => True
  | .noMemory _ _ => True

/-- Plain loads of these elements, in their order, lead from s to t; element i reads the number v i. -/
def LoadsAll (stream : Stream) (size : Nat) (v : Nat → Nat) : State → List (Nat × Dword) → State → Prop
  | s, [], t => t = s
  | s, (i, ea) :: r, t => ∃ bs s', s.load stream ea size size = .ok (bs, s') ∧ leNat bs = v i ∧ LoadsAll stream size v s' r t

/-- An operation on each of these elements, in their order, leads from s to t. -/
def RunsAll (f : State → Nat → Dword → Except Stop State) : State → List (Nat × Dword) → State → Prop
  | s, [], t => t = s
  | s, (i, ea) :: r, t => ∃ s', f s i ea = .ok s' ∧ RunsAll f s' r t

/-- An operation on each of these items, in their order, leads from s to t. -/
def RunsEach {α : Type} (f : State → α → Except Stop State) : State → List α → State → Prop
  | s, [], t => t = s
  | s, a :: r, t => ∃ s', f s a = .ok s' ∧ RunsEach f s' r t

/-- The check of one element of a store or scatter-reduce: its target, and the state with the translation cached (R89). -/
def State.checkOne (need : Need) (size : Nat) (stream : Stream) (s : State) (ea : Dword) : Except Stop (Target × State) :=
  match s.resolve need ea size size with
  | .error e => .error e
  | .ok g =>
    if s.sharedLocked g then .error (.trap causeSegv ea)
    else match g with
      | .global va =>
        match s.reachAll stream need (pieces 2 va size) with
        | .error e => .error e
        | .ok t => .ok (g, t)
      | _ => .ok (g, s)

/-- The checks of these elements, in their order, all pass and lead from s to t; g names their targets. -/
def ChecksAll (need : Need) (size : Nat) (stream : Stream) (g : Nat → Target) : State → List (Nat × Dword) → State → Prop
  | s, [], t => t = s
  | s, (i, ea) :: r, t => ∃ s', s.checkOne need size stream ea = .ok (g i, s') ∧ ChecksAll need size stream g s' r t

/-- The package once the home of a line has taken back what rings hold of it: an owned line written back, collect copies merged
(R105, R110). -/
def State.settledAt (s : State) (line : Nat) : State := s.settleHome line line

/-- Every register of the chunk is as it was. -/
structure SameRegisters (s t : State) : Prop where
  pc    : t.cpu.pc = s.cpu.pc
  x     : t.cpu.x = s.cpu.x
  v     : t.cpu.v = s.cpu.v
  vdead : t.cpu.vdead = s.cpu.vdead
  k     : t.cpu.k = s.cpu.k
  stat  : t.cpu.stat = s.cpu.stat
  vl    : t.cpu.vl = s.cpu.vl
  vew   : t.cpu.vew = s.cpu.vew
  vst   : t.cpu.vstart = s.cpu.vstart
  seed  : t.cpu.seed = s.cpu.seed
  sbase : t.cpu.sbase = s.cpu.sbase
  fxs   : t.cpu.fxs = s.cpu.fxs
  rptst : t.cpu.rptst = s.cpu.rptst
  turn  : t.cpu.turn = s.cpu.turn
  trap  : t.cpu.trap = s.cpu.trap
  older : t.older = s.older
  ring  : t.ring = s.ring

/-- The step answers t. -/
def Gives (i : Instr) (s t : State) : Prop := exec i s = .next t

/-- What a chain of a TRK line may be (R105, R109): collect copies alone, shared copies alone, or one owner alone. -/
def ChainOk (l : List Member) : Prop :=
  (∀ m, m ∈ l → m.st = .collect) ∨ (∀ m, m ∈ l → m.st = .shared) ∨ ∃ m, l = [m] ∧ m.st = .owned

/-- The invariant of the memory system: memory is in its canonical form (addresses rise and no listed byte is zero), the
directory lists each line at most once, and a line's chain holds one kind of copy. -/
structure State.Sound (s : State) : Prop where
  mem    : Memory.wf s.mem = true
  dir    : (s.coh.dir.map (fun d => d.line)).Nodup
  chains : ∀ d, d ∈ s.coh.dir → ChainOk d.chain

/-- Every x register but the one named is unchanged, and x0 in any case (R147). -/
def OnlyX (d : Reg) (s t : State) : Prop := ∀ n : Reg, n ≠ d ∨ n = 0 → t.cpu.x.get n.toFin = s.cpu.x.get n.toFin

/-- Every vector and mask register is unchanged. -/
def SameVectors (s t : State) : Prop := t.cpu.v = s.cpu.v ∧ t.cpu.vdead = s.cpu.vdead ∧ t.cpu.k = s.cpu.k

/-! ## Forms that only touch registers -/

/-- Integer and mask instructions whose one result goes to X[D]. -/
def scalarForms (d a b : Reg) (i : BitVec 16) (n : BitVec 6) (w t : BitVec 2) (k : KIdx) : List Instr := [
    .add d a b, .sub d a b, .and d a b, .or d a b, .xor d a b, .andn d a b, .orn d a b, .sll d a b, .srl d a b, .sra d a b,
    .slt d a b, .sltu d a b, .min d a b, .max d a b, .minu d a b, .maxu d a b, .addw d a b, .subw d a b, .sllw d a b,
    .srlw d a b, .sraw d a b, .mul d a b, .mulh d a b, .mulhu d a b, .mulhsu d a b, .div d a b, .divu d a b, .rem d a b,
    .remu d a b, .mulw d a b, .divw d a b, .remw d a b, .rol d a b, .ror d a b, .addi d a i, .andi d a i, .ori d a i,
    .xori d a i, .slti d a i, .sltiu d a i, .slli d a n, .srli d a n, .srai d a n, .clz d a, .ctz d a, .popc d a, .brev d a,
    .bswap d a, .sxb d a, .sxh d a, .sxw d a, .zxb d a, .zxh d a, .zxw d a, .lhi d i, .lpc d i, .fclass d a w, .kpop d k,
    .kfirst d k, .kget d k b, .vmvxs d a w t]

/-- Scalar FP instructions: a result in X[D] and flags. -/
def floatForms (d a b c : Reg) (r : BitVec 3) (k w : BitVec 2) : List Instr := [
    .fadd d a b r w, .fsub d a b r w, .fmul d a b r w, .fdiv d a b r w, .fsqrt d a r w, .fmin d a b w, .fmax d a b w,
    .feq d a b w, .flt d a b w, .fle d a b w, .fcvtI d a r k w, .fcvtF d a r k w, .fcvtW d a r k w, .fma d a b c w,
    .fms d a b c w, .fnma d a b c w, .fnms d a b c w]

/-- Vector instructions without memory whose one result goes to V[D]. -/
noncomputable def vectorForms (d a b : Reg) (z : KIdx) (e f k t : BitVec 2) : List Instr := [
    .vadd e d a b f k t, .vsub e d a b f k t, .vrsub e d a b f k t, .vmul e d a b f k t, .vmulh e d a b f k t,
    .vmulhu e d a b f k t, .vmacc e d a b f k t, .vand e d a b f k t, .vor e d a b f k t, .vxor e d a b f k t,
    .vsll e d a b f k t, .vsrl e d a b f k t, .vsra e d a b f k t, .vmin e d a b f k t, .vmax e d a b f k t,
    .vminu e d a b f k t, .vmaxu e d a b f k t, .vsadd e d a b f k t, .vsaddu e d a b f k t, .vssub e d a b f k t,
    .vssubu e d a b f k t, .vnarrow e d a b f k t, .vfadd e d a b f k t, .vfsub e d a b f k t, .vfmul e d a b f k t,
    .vfdiv e d a b f k t, .vfma e d a b f k t, .vfms e d a b f k t, .vfnma e d a b f k t, .vfmin e d a b f k t,
    .vfmax e d a b f k t, .vabs e d a k t, .vwiden e d a k t, .vfsqrt e d a k t, .vfabs e d a k t, .vfneg e d a k t,
    .vfclass e d a k t, .vfexp2 e d a k t, .vfrcp e d a k t, .vfrsq e d a k t, .vconvSfBf d a k t, .vconvBfSf d a k t,
    .vconvSfHf d a k t, .vconvHfSf d a k t, .vconvSfE4 d a k t, .vconvE4Sf d a k t, .vconvSfE5 d a k t, .vconvE5Sf d a k t,
    .vconvDfSf d a k t, .vconvSfDf d a k t, .vconvSfW d a k t, .vconvWSf d a k t, .vredsum d a b e k t, .vredmax d a b e k t,
    .vredmin d a b e k t, .vredmaxu d a b e k t, .vredminu d a b e k t, .vfredsum d a b e k t, .vfredmax d a b e k t,
    .vslideup d a b e k t, .vslidedn d a b e k t, .vperm d a b e k t, .vbcast d a b e k t, .vmerge d a b e k t,
    .vmv e d b f k t, .vfmv e d b f k t, .kdq8 d a b k t, .t2pack d a e t, .t2unpack d a e k t,
    .q4pack d a e t, .q4unpack d a e k t, .vcompress d a z e t, .vexpand d a z e t, .vmvsx d a e t,
    .viota d z e k t, .vscan d a e k t, .vid d e k t]

/-- Instructions whose one result goes to K[D]. -/
def maskForms (d x y : KIdx) (a b : Reg) (e f k t : BitVec 2) : List Instr := [
    .vceq e d a b f k t, .vcne e d a b f k t, .vclt e d a b f k t, .vcle e d a b f k t, .vcltu e d a b f k t,
    .vcleu e d a b f k t, .vfceq e d a b f k t, .vfclt e d a b f k t, .vfcle e d a b f k t, .kand d x y, .kor d x y,
    .kxor d x y, .knot d x, .kmov d x, .kset d a b]

/-- What an instruction that only touches registers leaves alone, whether it completes, waits or faults: the other chunks that
are older, every other thread, memory and its caches, the host's side, the platform; the thread's own registers but those a
trap writes; and of the chunk all but x, v, k, the flags, pc, vstart, the place in a frame, the issue bookkeeping and the lease of its
bank, which a trap gives up (R295). -/
structure Kept (s t : State) : Prop where
  older  : t.older = s.older
  live   : t.live = s.live
  ring   : t.ring = s.ring
  others : t.others = s.others
  saved  : t.saved = s.saved
  mem    : t.mem = s.mem
  coh    : t.coh = s.coh
  host   : t.host = s.host
  plat   : t.plat = s.plat
  cyc    : t.cyc = s.cyc
  agenda : t.agenda = s.agenda
  lid    : t.thr.lid = s.thr.lid
  tix    : t.thr.tix = s.thr.tix
  tvec   : t.thr.tvec = s.thr.tvec
  tscr   : t.thr.tscr = s.thr.tscr
  flags  : t.thr.fflags = s.thr.fflags
  wtime  : t.thr.wtime = s.thr.wtime
  tmcmp  : t.thr.tmcmp = s.thr.tmcmp
  irq    : t.thr.hostirq = s.thr.hostirq
  asid   : t.thr.asid = s.thr.asid
  pgroot : t.thr.pgroot = s.thr.pgroot
  sg     : t.thr.sg = s.thr.sg
  mbase  : t.thr.mbase = s.thr.mbase
  parkr  : t.thr.parkr = s.thr.parkr
  shared : t.thr.shared = s.thr.shared
  stat   : t.cpu.stat &&& ~~~3#64 = s.cpu.stat &&& ~~~3#64
  vl     : t.cpu.vl = s.cpu.vl
  vew    : t.cpu.vew = s.cpu.vew
  seed   : t.cpu.seed = s.cpu.seed
  sbase  : t.cpu.sbase = s.cpu.sbase
  fxs    : t.cpu.fxs = s.cpu.fxs
  ls     : t.cpu.ls = s.cpu.ls
  lsTag  : t.cpu.lsTag = s.cpu.lsTag
  ver    : t.cpu.ver = s.cpu.ver
  stores : t.cpu.stores = s.cpu.stores
  loaded : t.cpu.loaded = s.cpu.loaded
  touches : t.cpu.touches = s.cpu.touches
  reads  : t.cpu.reads = s.cpu.reads
  upds   : t.cpu.upds = s.cpu.upds
  bank   : ∃ l : Bank → Option (Nat × Nat), t.cpu.bank = s.cpu.bank.map (fun (b : Bank) => { b with lease := l b })
  loupe  : t.cpu.loupe = s.cpu.loupe

/-- Every vector register but the one named is unchanged, and whether it is dead. -/
def OnlyV (d : Reg) (s t : State) : Prop :=
  ∀ n : Reg, n ≠ d → t.cpu.v.get n.toFin = s.cpu.v.get n.toFin ∧ t.cpu.vdead.getLsbD n.toNat = s.cpu.vdead.getLsbD n.toNat

/-- Every mask register but the one named is unchanged. -/
def OnlyK (d : KIdx) (s t : State) : Prop := ∀ n : KIdx, n ≠ d → t.cpu.k.get n.toFin = s.cpu.k.get n.toFin

end Sys2Proof.Machine
end

