-- ==== Sys2Proof/Certificates/Slice0/Obligations.lean ====
section
/-! DEFINITION. The statements for the provers. Each docstring names the rules of spec/ that it formalises. -/

open Sys2Proof Sys2Proof.Machine

/-! ## Scalar instructions -/

/-- R176: what each instruction of major 0x01 writes. -/
def Obligations.IntegerRegister : Prop :=
  ∀ (s : State) (d a b : Reg), Clear (useAB d a b) s →
    let x := s.rx a
    let y := s.rx b
    let w (i : Instr) (v : Dword) : Prop := WritesX i (useAB d a b) d s v
    w (.add d a b) (wrap64 (x.toNat + y.toNat))
    ∧ w (.sub d a b) (wrap64 (x.toNat - y.toNat))
    ∧ w (.and d a b) (x &&& y)
    ∧ w (.or d a b) (x ||| y)
    ∧ w (.xor d a b) (x ^^^ y)
    ∧ w (.andn d a b) (x &&& ~~~y)
    ∧ w (.orn d a b) (x ||| ~~~y)
    ∧ w (.sll d a b) (wrap64 (x.toNat * 2 ^ (y.toNat % 64)))
    ∧ w (.srl d a b) (wrap64 (x.toNat / 2 ^ (y.toNat % 64)))
    ∧ w (.sra d a b) (wrap64 (x.toInt / 2 ^ (y.toNat % 64)))
    ∧ w (.slt d a b) (if x.toInt < y.toInt then 1 else 0)
    ∧ w (.sltu d a b) (if x.toNat < y.toNat then 1 else 0)
    ∧ w (.min d a b) (wrap64 (min x.toInt y.toInt))
    ∧ w (.max d a b) (wrap64 (max x.toInt y.toInt))
    ∧ w (.minu d a b) (wrap64 (min x.toNat y.toNat : Nat))
    ∧ w (.maxu d a b) (wrap64 (max x.toNat y.toNat : Nat))
    ∧ w (.addw d a b) (sextN 32 (x.toNat + y.toNat))
    ∧ w (.subw d a b) (sextN 32 (x.toNat - y.toNat))
    ∧ w (.sllw d a b) (sextN 32 ((x.toNat % 2 ^ 32 : Nat) * 2 ^ (y.toNat % 32)))
    ∧ w (.srlw d a b) (sextN 32 ((x.toNat % 2 ^ 32 / 2 ^ (y.toNat % 32) : Nat)))
    ∧ w (.sraw d a b) (sextN 32 (signed 32 x.toNat / 2 ^ (y.toNat % 32)))

/-- R177 to R180: what each immediate instruction writes (n is a shift count, i an immediate); lhi and lpc. -/
def Obligations.IntegerImmediate : Prop :=
  (∀ (s : State) (d a : Reg) (i : BitVec 16) (n : BitVec 6), Clear (useA d a) s →
      let x := s.rx a
      let w (j : Instr) (v : Dword) : Prop := WritesX j (useA d a) d s v
      w (.addi d a i) (wrap64 (x.toNat + i.toInt))
      ∧ w (.andi d a i) (x &&& wrap64 i.toNat)
      ∧ w (.ori d a i) (x ||| wrap64 i.toNat)
      ∧ w (.xori d a i) (x ^^^ wrap64 i.toNat)
      ∧ w (.slti d a i) (if x.toInt < i.toInt then 1 else 0)
      ∧ w (.sltiu d a i) (if x.toNat < (wrap64 i.toInt).toNat then 1 else 0)
      ∧ w (.slli d a n) (wrap64 (x.toNat * 2 ^ n.toNat))
      ∧ w (.srli d a n) (wrap64 (x.toNat / 2 ^ n.toNat))
      ∧ w (.srai d a n) (wrap64 (x.toInt / 2 ^ n.toNat)))
  ∧ (∀ (s : State) (d : Reg) (i : BitVec 16), Clear { writes := [.x d] } s →
      WritesX (.lhi d i) { writes := [.x d] } d s (wrap64 (i.toInt * 2 ^ 16))
      ∧ WritesX (.lpc d i) { writes := [.x d] } d s (wrap64 (s.cpu.pc.toNat + i.toInt)))

/-- R181, R182: the multiplications; the divisions and remainders, with the three corners. -/
def Obligations.MultiplyAndDivide : Prop :=
  (∀ (s : State) (d a b : Reg), Clear (useAB d a b) s →
      let x := s.rx a
      let y := s.rx b
      let w (i : Instr) (v : Dword) : Prop := WritesX i (useAB d a b) d s v
      w (.mul d a b) (wrap64 (x.toNat * y.toNat))
      ∧ w (.mulh d a b) (wrap64 (x.toInt * y.toInt / 2 ^ 64))
      ∧ w (.mulhu d a b) (wrap64 (x.toNat * y.toNat / 2 ^ 64))
      ∧ w (.mulhsu d a b) (wrap64 (x.toInt * y.toNat / 2 ^ 64))
      ∧ w (.mulw d a b) (sextN 32 (x.toNat * y.toNat)))
  ∧ (let quot (n d : Int) (w : Nat) : Int :=
      if d = 0 then -1 else if n = -2 ^ (w - 1) ∧ d = -1 then n else n.tdiv d
    let rem (n d : Int) (w : Nat) : Int :=
      if d = 0 then n else if n = -2 ^ (w - 1) ∧ d = -1 then 0 else n - d * n.tdiv d
    ∀ (s : State) (d a b : Reg), Clear { useAB d a b with flight := some .long } s →
      let x := s.rx a
      let y := s.rx b
      let w (i : Instr) (v : Dword) : Prop := WritesX i { useAB d a b with flight := some .long } d s v
      w (.div d a b) (wrap64 (quot x.toInt y.toInt 64))
      ∧ w (.divu d a b) (if y = 0 then wrap64 (-1) else wrap64 (x.toNat / y.toNat : Nat))
      ∧ w (.rem d a b) (wrap64 (rem x.toInt y.toInt 64))
      ∧ w (.remu d a b) (if y = 0 then x else wrap64 (x.toNat % y.toNat : Nat))
      ∧ w (.divw d a b) (sextN 32 (quot (signed 32 x.toNat) (signed 32 y.toNat) 32))
      ∧ w (.remw d a b) (sextN 32 (rem (signed 32 x.toNat) (signed 32 y.toNat) 32)))

/-- R183: the bit operations, each bit of the result named. -/
def Obligations.BitManipulation : Prop :=
  ∀ (s : State) (d a b : Reg),
    let x := s.rx a
    (Clear (useA d a) s →
      let w (i : Instr) (p : Dword → Prop) : Prop := ∃ v, p v ∧ WritesX i (useA d a) d s v
      w (.clz d a) (fun v => v.toNat ≤ 64 ∧ (∀ i, 64 - v.toNat ≤ i → x.getLsbD i = false) ∧ (v.toNat < 64 → x.getLsbD (63 - v.toNat) = true))
      ∧ w (.ctz d a) (fun v => v.toNat ≤ 64 ∧ (∀ i, i < v.toNat → x.getLsbD i = false) ∧ (v.toNat < 64 → x.getLsbD v.toNat = true))
      ∧ w (.popc d a) (fun v => v.toNat = (List.range 64).countP (fun i => x.getLsbD i))
      ∧ w (.brev d a) (fun v => ∀ i, i < 64 → v.getLsbD i = x.getLsbD (63 - i))
      ∧ w (.bswap d a) (fun v => ∀ j k, j < 8 → k < 8 → v.getLsbD (8 * (7 - j) + k) = x.getLsbD (8 * j + k))
      ∧ w (.sxb d a) (fun v => v = sextN 8 x.toNat)
      ∧ w (.sxh d a) (fun v => v = sextN 16 x.toNat)
      ∧ w (.sxw d a) (fun v => v = sextN 32 x.toNat)
      ∧ w (.zxb d a) (fun v => v.toNat = x.toNat % 2 ^ 8)
      ∧ w (.zxh d a) (fun v => v.toNat = x.toNat % 2 ^ 16)
      ∧ w (.zxw d a) (fun v => v.toNat = x.toNat % 2 ^ 32))
    ∧ (Clear (useAB d a b) s →
      let n := (s.rx b).toNat % 64
      let w (i : Instr) (p : Dword → Prop) : Prop := ∃ v, p v ∧ WritesX i (useAB d a b) d s v
      w (.rol d a b) (fun v => ∀ i, i < 64 → v.getLsbD ((i + n) % 64) = x.getLsbD i)
      ∧ w (.ror d a b) (fun v => ∀ i, i < 64 → v.getLsbD i = x.getLsbD ((i + n) % 64)))

/-- R185, R186, R188, R189: scalar FP arithmetic at width w: the result is that of the format's operation on the low bits of
the operands, rounded once under the mode the field r selects, with key sbase; its flags are ORed into fflags. The fused
forms round a × b + c, a × b + (−c), (−a) × b + (−c) and (−a) × b + c once, in the mode of stat.FRM. A field of 6, and a stat.FRM of 6
or 7 where it is used, raise ILLOP with the word (R62). What rounding computes is the statement ScalarFloatConvert. -/
def Obligations.ScalarFloatArithmetic : Prop :=
  (∀ (s : State) (d a b : Reg) (r : BitVec 3) (w : BitVec 2),
      let f := scalarFmt w
      let x := (s.rx a).toNat % 2 ^ f.width
      let y := (s.rx b).toNat % 2 ^ f.width
      let m : Rnd := { mode := if r = 7 then statFrm s.cpu.stat else r.toNat, key := s.cpu.sbase, seed := s.cpu.seed }
      (6 ≤ m.mode →
        (Clear { reads := [.x a, .x b] ++ roundReads r, writes := [.x d] } s →
          ∀ j, j ∈ [Instr.fadd d a b r w, .fsub d a b r w, .fmul d a b r w] → Traps j s causeIllop (s.cpu.ir.setWidth 64))
        ∧ (Clear { reads := [.x a, .x b] ++ roundReads r, writes := [.x d], flight := some .long } s →
          Traps (.fdiv d a b r w) s causeIllop (s.cpu.ir.setWidth 64))
        ∧ (Clear { reads := [.x a] ++ roundReads r, writes := [.x d], flight := some .long } s →
          Traps (.fsqrt d a r w) s causeIllop (s.cpu.ir.setWidth 64)))
      ∧ (m.mode < 6 →
      (let u : Use := { reads := [.x a, .x b] ++ roundReads r, writes := [.x d] };
        Clear u s →
          WritesF (.fadd d a b r w) u d s (f.add m x y)
          ∧ WritesF (.fsub d a b r w) u d s (f.sub m x y)
          ∧ WritesF (.fmul d a b r w) u d s (f.mul m x y))
      ∧ (let u : Use := { reads := [.x a, .x b] ++ roundReads r, writes := [.x d], flight := some .long };
        Clear u s → WritesF (.fdiv d a b r w) u d s (f.div m x y))
      ∧ (let u : Use := { reads := [.x a] ++ roundReads r, writes := [.x d], flight := some .long };
        Clear u s → WritesF (.fsqrt d a r w) u d s (f.sqrt m x))))
  ∧ (∀ (s : State) (d a b c : Reg) (w : BitVec 2),
      let f := scalarFmt w
      let u : Use := { reads := [.x a, .x b, .x c] ++ roundReads 7, writes := [.x d] }
      let v (n : Reg) : Val := f.decode ((s.rx n).toNat % 2 ^ f.width)
      let m : Rnd := { mode := statFrm s.cpu.stat, key := s.cpu.sbase, seed := s.cpu.seed }
      (6 ≤ m.mode → Clear u s → ∀ j, j ∈ [Instr.fma d a b c w, .fms d a b c w, .fnma d a b c w, .fnms d a b c w] →
        Traps j s causeIllop (s.cpu.ir.setWidth 64))
      ∧ (m.mode < 6 → Clear u s →
        WritesF (.fma d a b c w) u d s (f.finish m (Val.fma m.mode (v a) (v b) (v c)))
        ∧ WritesF (.fms d a b c w) u d s (f.finish m (Val.fma m.mode (v a) (v b) (v c).negate))
        ∧ WritesF (.fnma d a b c w) u d s (f.finish m (Val.fma m.mode (v a).negate (v b) (v c).negate))
        ∧ WritesF (.fnms d a b c w) u d s (f.finish m (Val.fma m.mode (v a).negate (v b) (v c)))))

/-! ## Integer vector instructions -/

/-- R186, R75, R61: minimum, maximum, comparisons and classes of scalar FP operands: what the operations on two numbers of a format
answer, by the order of the numbers, which the vector forms use too (R252), and the instructions. -/
def Obligations.ScalarFloatCompare : Prop :=
  (∀ (f : Fmt) (a b : Nat), f ∈ [fp64, fp32, fp16, bf16] → a < 2 ^ f.width → b < 2 ^ f.width →
    let u := f.decode a
    let v := f.decode b
    let less (x y : Val) : Prop := (x = .inf true ∧ y ≠ .inf true) ∨ (y = .inf false ∧ x ≠ .inf false)
      ∨ (isNumber x = true ∧ isNumber y = true ∧ realOf x < realOf y)
    let zero (x : Val) : Prop := x = .zero true ∨ x = .zero false
    (u.isNan = false → v.isNan = false →
      ((f.eq a b).2 = 0 ∧ ((f.eq a b).1 = true ↔ ¬ less u v ∧ ¬ less v u))
      ∧ ((f.lt a b).2 = 0 ∧ ((f.lt a b).1 = true ↔ less u v))
      ∧ ((f.le a b).2 = 0 ∧ ((f.le a b).1 = true ↔ ¬ less v u))
      ∧ (less u v → f.minMax false a b = (a, 0) ∧ f.minMax true a b = (b, 0))
      ∧ (less v u → f.minMax false a b = (b, 0) ∧ f.minMax true a b = (a, 0))
      ∧ (¬ less u v → ¬ less v u → ¬ zero u → a = b ∧ f.minMax false a b = (a, 0) ∧ f.minMax true a b = (a, 0))
      ∧ (zero u → zero v → f.minMax false a b = (f.signBit (u.isNeg || v.isNeg), 0) ∧ f.minMax true a b = (f.signBit (u.isNeg && v.isNeg), 0)))
    ∧ (u.isNan = true ∨ v.isNan = true →
      f.eq a b = (false, u.sig ||| v.sig) ∧ f.lt a b = (false, flagNV) ∧ f.le a b = (false, flagNV)
      ∧ ∀ m, f.minMax m a b = (if u.isNan = true ∧ v.isNan = true then f.nan else if u.isNan = true then b else a, u.sig ||| v.sig))
    ∧ (u = .nan true → f.fclass a = 2 ^ 8) ∧ (u = .nan false → f.fclass a = 2 ^ 9)
    ∧ (∀ m, u = .inf m → f.fclass a = if m then 2 ^ 0 else 2 ^ 7) ∧ (∀ m, u = .zero m → f.fclass a = if m then 2 ^ 3 else 2 ^ 4)
    ∧ (isNumber u = true → realOf u ≠ 0 →
      (|realOf u| < (2 : ℝ) ^ f.emin → f.fclass a = if realOf u < 0 then 2 ^ 2 else 2 ^ 5)
      ∧ ((2 : ℝ) ^ f.emin ≤ |realOf u| → f.fclass a = if realOf u < 0 then 2 ^ 1 else 2 ^ 6)))
  ∧ ∀ (s : State) (d a b : Reg) (w : BitVec 2),
    let f := scalarFmt w
    let x := (s.rx a).toNat % 2 ^ f.width
    let y := (s.rx b).toNat % 2 ^ f.width
    let nan (v : Nat) : Prop := (f.decode v).isNan = true
    let nv : BitVec 7 := (f.decode x).sig ||| (f.decode y).sig
    (Clear (useAB d a b) s →
      let u := useAB d a b
      WritesF (.fmin d a b w) u d s
        (if nan x ∧ nan y then (f.nan, nv) else if nan x then (y, nv) else if nan y then (x, nv) else f.minMax false x y)
      ∧ WritesF (.fmax d a b w) u d s
        (if nan x ∧ nan y then (f.nan, nv) else if nan x then (y, nv) else if nan y then (x, nv) else f.minMax true x y)
      ∧ WritesF (.feq d a b w) u d s (if nan x ∨ nan y then (0, nv) else (((f.eq x y).1).toNat, 0))
      ∧ WritesF (.flt d a b w) u d s (if nan x ∨ nan y then (0, flagNV) else (((f.lt x y).1).toNat, 0))
      ∧ WritesF (.fle d a b w) u d s (if nan x ∨ nan y then (0, flagNV) else (((f.le x y).1).toNat, 0)))
    ∧ (Clear (useA d a) s → WritesX (.fclass d a w) (useA d a) d s (BitVec.ofNat 64 (f.fclass x)))

/-- R187, R58, R62 to R66, R70 to R75, R83: scalar conversions; the integer kinds are l, lu, w and wu; a mode of 6 or 7 raises ILLOP with
the word. And what the operations on numbers compute that every statement on floating point names: each exact result is rounded
once, to nearest even or as the mode says, with subnormals, overflow and flags; NaNs and the special operands of R75; conversions to and
from formats and integers; the numbers of a KI8 block; and vfexp2 of integers and of special operands. -/
def Obligations.ScalarFloatConvert : Prop :=
  (∀ (s : State) (d a : Reg) (r : BitVec 3) (k w : BitVec 2),
    let f := scalarFmt w
    let u : Use := { reads := [.x a] ++ roundReads r, writes := [.x d] }
    let x := s.rx a
    let m : Rnd := { mode := if r = 7 then statFrm s.cpu.stat else r.toNat, key := s.cpu.sbase, seed := s.cpu.seed }
    let bits := if k = 0 ∨ k = 1 then 64 else 32
    let z : Int := if k = 0 then x.toInt else if k = 1 then x.toNat else if k = 2 then signed 32 x.toNat else (x.toNat % 2 ^ 32 : Nat)
    let y := toInt f m bits (k == 0 || k == 2) (x.toNat % 2 ^ f.width)
    Clear u s →
      (6 ≤ m.mode → ∀ j, j ∈ [Instr.fcvtI d a r k w, .fcvtF d a r k w, .fcvtW d a r k w] → Traps j s causeIllop (s.cpu.ir.setWidth 64))
      ∧ (m.mode < 6 →
        Completes (.fcvtI d a r k w) u s
          (((s.wx d (if k = 2 then sextN 32 y.1 else BitVec.ofNat 64 y.1)).addFlags y.2).advance)
        ∧ WritesF (.fcvtF d a r k w) u d s (ofIntFmt f m z)
        ∧ WritesF (.fcvtW d a r k w) u d s (convFmt (scalarFmt k) f m (x.toNat % 2 ^ (scalarFmt k).width))))
  ∧ (∀ (f : Fmt) (r : Rnd) (a b c : Nat), f ∈ [fp64, fp32, fp16, bf16] → r.mode < 6 →
    let u := f.decode a
    let v := f.decode b
    let w := f.decode c
    let sum (p q : Bool) : Bool := if p = q then p else decide (r.mode = 2)
    (isNumber u = true → isNumber v = true →
      RoundsOr0 f r (sum u.isNeg v.isNeg) (realOf u + realOf v) (f.add r a b)
      ∧ RoundsOr0 f r (sum u.isNeg (!v.isNeg)) (realOf u - realOf v) (f.sub r a b)
      ∧ RoundsOr0 f r (u.isNeg != v.isNeg) (realOf u * realOf v) (f.mul r a b)
      ∧ (realOf v ≠ 0 → RoundsOr0 f r (u.isNeg != v.isNeg) (realOf u / realOf v) (f.div r a b))
      ∧ (realOf v = 0 → realOf u ≠ 0 → f.div r a b = (f.inf (u.isNeg != v.isNeg), flagDZ))
      ∧ (realOf v = 0 → realOf u = 0 → f.div r a b = (f.nan, flagNV))
      ∧ (isNumber w = true → RoundsOr0 f r (sum (u.isNeg != v.isNeg) w.isNeg) (realOf u * realOf v + realOf w)
        (f.finish r (Val.fma r.mode u v w))))
    ∧ (isNumber u = true → (0 < realOf u → Rounds f r (Real.sqrt (realOf u)) (f.sqrt r a).1 (f.sqrt r a).2)
      ∧ (realOf u = 0 → f.sqrt r a = (f.signBit u.isNeg, 0)) ∧ (realOf u < 0 → f.sqrt r a = (f.nan, flagNV)))
    ∧ (u.isNan = true ∨ v.isNan = true →
      ∀ p, p ∈ [f.add r a b, f.sub r a b, f.mul r a b, f.div r a b] → p = (f.nan, u.sig ||| v.sig))
    ∧ (∀ m n, u = .inf m → v = .inf n →
      f.add r a b = (if m = n then (f.inf m, 0) else (f.nan, flagNV)) ∧ f.mul r a b = (f.inf (m != n), 0)
        ∧ f.div r a b = (f.nan, flagNV))
    ∧ (∀ m n, u = .inf m → v = .zero n → f.mul r a b = (f.nan, flagNV) ∧ f.mul r b a = (f.nan, flagNV))
    ∧ (∀ m, u = .inf m → (f.sqrt r a = if m = true then (f.nan, flagNV) else (f.inf false, 0))
      ∧ (isNumber v = true → f.add r a b = (f.inf m, 0) ∧ f.div r a b = (f.inf (m != v.isNeg), 0)
        ∧ f.div r b a = (f.signBit (v.isNeg != m), 0)))
    ∧ (∀ m, u = .inf m →
      (∀ n, v = .inf n → f.sub r a b = (if m = n then (f.nan, flagNV) else (f.inf m, 0)))
      ∧ (isNumber v = true → f.add r b a = (f.inf m, 0) ∧ f.sub r a b = (f.inf m, 0) ∧ f.sub r b a = (f.inf (!m), 0)
        ∧ (realOf v ≠ 0 → f.mul r a b = (f.inf (m != v.isNeg), 0) ∧ f.mul r b a = (f.inf (v.isNeg != m), 0)))))
  ∧ (∀ (f : Fmt) (r : Rnd) (u v w : Val), f ∈ [fp64, fp32, fp16, bf16] →
    let p := f.finish r (Val.fma r.mode u v w)
    (u.isNan = true ∨ v.isNan = true → p = (f.nan, u.sig ||| v.sig ||| w.sig))
    ∧ (∀ m n, (u = .inf m ∧ v = .zero n) ∨ (u = .zero m ∧ v = .inf n) → p = (f.nan, flagNV ||| w.sig))
    ∧ (isNumber u = true → isNumber v = true → (w.isNan = true → p = (f.nan, w.sig)) ∧ ∀ m, w = .inf m → p = (f.inf m, 0))
    ∧ (∀ m, (u = .inf m ∧ v.isNan = false ∧ (∀ n, v ≠ .zero n)) ∨ (v = .inf m ∧ u.isNan = false ∧ ∀ n, u ≠ .zero n) →
      let neg := u.isNeg != v.isNeg
      (w.isNan = true → p = (f.nan, w.sig)) ∧ (isNumber w = true → p = (f.inf neg, 0))
      ∧ ∀ n, w = .inf n → p = if n = neg then (f.inf neg, 0) else (f.nan, flagNV)))
  ∧ fp64.nan = 0x7FF8000000000000 ∧ fp32.nan = 0x7FC00000 ∧ fp16.nan = 0x7E00 ∧ bf16.nan = 0x7FC0 ∧ e4m3.nan = 0x7F ∧ e5m2.nan = 0x7E
  ∧ (∀ (f g : Fmt) (r : Rnd) (a : Nat), f ∈ [fp64, fp32, fp16, bf16, e4m3, e5m2] → g ∈ [fp64, fp32, fp16, bf16, e4m3, e5m2] → r.mode < 6 →
    let v := f.decode a
    (v.isNan = true → convFmt f g r a = (g.nan, v.sig))
    ∧ (∀ n, v = .inf n → convFmt f g r a = (g.inf n, if g.infs = true then 0 else flagNV)
      ∧ (g.infs = false → |realOf (g.decode (g.inf n))| = 448))
    ∧ (isNumber v = true → RoundsOr0 g r v.isNeg (realOf v) (convFmt f g r a))
    ∧ (∀ z : Int, RoundsOr0 g r false z (ofIntFmt g r z))
    ∧ (∀ (n : Nat) (sg : Bool), n ∈ [32, 64] →
      let low : Int := if sg then -2 ^ (n - 1) else 0
      let high : Int := if sg then 2 ^ (n - 1) - 1 else 2 ^ n - 1
      (v.isNan = true → toInt f r n sg a = (0, flagNV))
      ∧ (∀ m, v = .inf m → toInt f r n sg a = (wrap n (if m then low else high), flagNV))
      ∧ (isNumber v = true → ∃ k : Nat, RoundsTo r (realOf v < 0) |realOf v| k ∧
        let y : Int := if v.isNeg then -k else k
        (y < low → toInt f r n sg a = (wrap n low, flagNV)) ∧ (high < y → toInt f r n sg a = (wrap n high, flagNV))
        ∧ (low ≤ y → y ≤ high → (toInt f r n sg a).1 = wrap n y ∧ ((k : ℝ) = |realOf v| → (toInt f r n sg a).2 = 0)
          ∧ ((k : ℝ) ≠ |realOf v| → (toInt f r n sg a).2 = flagNX)))))
  ∧ (∀ (r : Rnd) (x q scale : Nat) (e : Int) (l : List Nat), r.mode < 6 →
    let v := fp32.decode x
    let z := realOf v * (2 : ℝ) ^ (-e)
    (v.isNan = true → quantElem r e x = (0, flagNV))
    ∧ (∀ m, v = .inf m → quantElem r e x = (if m then -127 else 127, flagNV))
    ∧ (isNumber v = true → ∃ k : Nat, RoundsTo r (z < 0) |z| k ∧
      (let y : Int := if v.isNeg then -k else k
      (quantElem r e x).1 = min (max y (-127)) 127 ∧ ((k : ℝ) = |z| → (quantElem r e x).2 = 0)
        ∧ ((k : ℝ) ≠ |z| → (quantElem r e x).2 = flagNX)))
    ∧ ((∀ y, y ∈ l → isNumber (fp32.decode y) = true → realOf (fp32.decode y) = 0) → quantExp l = -127)
    ∧ (∀ (y : Nat) (g : Int), y ∈ l → isNumber (fp32.decode y) = true →
      (∀ w, w ∈ l → isNumber (fp32.decode w) = true → |realOf (fp32.decode w)| ≤ |realOf (fp32.decode y)|) →
      (2 : ℝ) ^ (g : Int) ≤ |realOf (fp32.decode y)| → |realOf (fp32.decode y)| < (2 : ℝ) ^ (g + 1 : Int) → quantExp l = min (max (g - 6) (-127)) 127)
    ∧ (scale < 255 → RoundsOr0 fp32 r false ((signed 8 q : ℝ) * (2 : ℝ) ^ ((scale : Int) - 127)) (dequant r q scale)))
  ∧ (∀ (f : Fmt) (a : Nat), f ∈ [fp64, fp32, bf16] →
    let w := (estimateIn f a).1
    let x := (estimateIn f a).2
    let v := w.decode x
    (v.isNan = true → ∀ p, p ∈ [fexp2 w f x, frcp w f x, frsq w f x] → p = (f.nan, v.sig))
    ∧ (v = .inf false → fexp2 w f x = (f.inf false, 0) ∧ frcp w f x = (f.signBit false, 0) ∧ frsq w f x = (f.signBit false, 0))
    ∧ (v = .inf true → fexp2 w f x = (f.signBit false, 0) ∧ frcp w f x = (f.signBit true, 0) ∧ frsq w f x = (f.nan, flagNV))
    ∧ (∀ n, v = .zero n → frcp w f x = (f.inf n, flagDZ) ∧ frsq w f x = (f.inf n, flagDZ))
    ∧ (isNumber v = true → realOf v < 0 → frsq w f x = (f.nan, flagNV))
    ∧ (∀ k : Int, isNumber v = true → realOf v = k → f.emin - (f.fracBits : Int) ≤ k → k ≤ f.emax →
      (fexp2 w f x).2 = 0 ∧ isNumber (f.decode (fexp2 w f x).1) = true ∧ realOf (f.decode (fexp2 w f x).1) = (2 : ℝ) ^ k))

/-- R249: what each integer vector instruction writes into an active element, with a and b as unsigned numbers of w bits
and sg the signed reading. -/
def Obligations.VectorInteger : Prop :=
  ∀ (s : State) (e : BitVec 2) (d a b : Reg) (f k t : BitVec 2),
    let w := ewBits e
    let n := min s.cpu.vl.toNat (4096 / w)
    let x (i : Nat) : Nat := velem w (s.rv a) i
    let y (i : Nat) : Nat := s.formInt f b w i
    let sg (z : Nat) : Int := signed w z
    let sh (i : Nat) : Nat := y i % w
    (let p (i : Instr) (g : Nat → Int) : Prop := SetsV i (useVec 2 d a b f k t) s w n d k g;
      Clear (useVec 2 d a b f k t) s →
        p (.vadd e d a b f k t) (fun i => x i + y i)
        ∧ p (.vsub e d a b f k t) (fun i => x i - y i)
        ∧ p (.vrsub e d a b f k t) (fun i => y i - x i)
        ∧ p (.vand e d a b f k t) (fun i => (x i &&& y i : Nat))
        ∧ p (.vor e d a b f k t) (fun i => (x i ||| y i : Nat))
        ∧ p (.vxor e d a b f k t) (fun i => (x i ^^^ y i : Nat))
        ∧ p (.vsll e d a b f k t) (fun i => x i * 2 ^ sh i)
        ∧ p (.vsrl e d a b f k t) (fun i => x i / 2 ^ sh i)
        ∧ p (.vsra e d a b f k t) (fun i => sg (x i) / 2 ^ sh i)
        ∧ p (.vmin e d a b f k t) (fun i => min (sg (x i)) (sg (y i)))
        ∧ p (.vmax e d a b f k t) (fun i => max (sg (x i)) (sg (y i)))
        ∧ p (.vminu e d a b f k t) (fun i => (min (x i) (y i) : Nat))
        ∧ p (.vmaxu e d a b f k t) (fun i => (max (x i) (y i) : Nat))
        ∧ p (.vsadd e d a b f k t) (fun i => satS w (sg (x i) + sg (y i)))
        ∧ p (.vsaddu e d a b f k t) (fun i => satU w (x i + y i))
        ∧ p (.vssub e d a b f k t) (fun i => satS w (sg (x i) - sg (y i)))
        ∧ p (.vssubu e d a b f k t) (fun i => satU w (x i - y i)))
    ∧ (let p (i : Instr) (g : Nat → Int) : Prop := SetsV i (useVec 3 d a b f k t) s w n d k g;
      Clear (useVec 3 d a b f k t) s →
        p (.vmul e d a b f k t) (fun i => x i * y i)
        ∧ p (.vmulh e d a b f k t) (fun i => sg (x i) * sg (y i) / 2 ^ w)
        ∧ p (.vmulhu e d a b f k t) (fun i => x i * y i / 2 ^ w))
    ∧ (let u : Use := { reads := vecReads k ++ [.v a, .v d] ++ formReads f b, writes := [.v d, .vstart], lat := 3, st := t };
      Clear u s → SetsV (.vmacc e d a b f k t) u s w n d k (fun i => velem w (s.rv d) i + x i * y i))
    ∧ (let u : Use := { reads := vecReads k ++ [.v a], writes := [.v d, .vstart], lat := 2, st := t };
      Clear u s → SetsV (.vabs e d a k t) u s w n d k (fun i => |sg (x i)|))
    ∧ (let u : Use := { reads := vecReads k ++ formReads f b, writes := [.v d, .vstart], lat := 2, st := t };
      Clear u s → SetsV (.vmv e d b f k t) u s w n d k (fun i => y i))

/-- R250, R251: the compares write the bits of active elements of a mask register; vnarrow writes elements of half the width,
vwiden of double the width. -/
def Obligations.VectorCompareAndWidth : Prop :=
  (∀ (s : State) (e : BitVec 2) (d : KIdx) (a b : Reg) (f k t : BitVec 2),
      let w := ewBits e
      let n := min s.cpu.vl.toNat (4096 / w)
      let u : Use := { reads := vecReads k ++ [.v a] ++ formReads f b, writes := [.k d, .vstart], lat := 2, st := t }
      let x (i : Nat) : Nat := velem w (s.rv a) i
      let y (i : Nat) : Nat := s.formInt f b w i
      let p (i : Instr) (g : Nat → Prop) : Prop := SetsK i u s n d k g
      Clear u s →
        p (.vceq e d a b f k t) (fun i => x i = y i)
        ∧ p (.vcne e d a b f k t) (fun i => x i ≠ y i)
        ∧ p (.vclt e d a b f k t) (fun i => signed w (x i) < signed w (y i))
        ∧ p (.vcle e d a b f k t) (fun i => signed w (x i) ≤ signed w (y i))
        ∧ p (.vcltu e d a b f k t) (fun i => x i < y i)
        ∧ p (.vcleu e d a b f k t) (fun i => x i ≤ y i))
  ∧ (∀ (s : State) (e : BitVec 2) (d a b : Reg) (f k t : BitVec 2),
      let w := ewBits e
      let sg (i : Nat) : Int := signed w (velem w (s.rv a) i)
      (Clear (useVec 3 d a b f k t) s →
        SetsV (.vnarrow e d a b f k t) (useVec 3 d a b f k t) s (w / 2) (min s.cpu.vl.toNat (4096 / w)) d k
          (fun i => satS (w / 2) (sg i / 2 ^ (s.formInt f b w i % w))))
      ∧ (let u : Use := { reads := vecReads k ++ [.v a], writes := [.v d, .vstart], lat := 3, st := t };
        Clear u s → SetsV (.vwiden e d a k t) u s (2 * w) (min s.cpu.vl.toNat (4096 / (2 * w))) d k sg))

/-- R248, R241, R243: the mask operations bit by bit, setvl and vdead. -/
def Obligations.MaskAndLength : Prop :=
  (∀ (s : State),
      (∀ d a b : KIdx, Clear { reads := [.k a, .k b], writes := [.k d] } s →
        let p (i : Instr) (g : Bool → Bool → Bool) : Prop :=
          ∃ m : KReg, (∀ j, j < 512 → m.getLsbD j = g ((s.rk a).getLsbD j) ((s.rk b).getLsbD j))
            ∧ Completes i { reads := [.k a, .k b], writes := [.k d] } s (s.wk d m).advance
        p (.kand d a b) (fun x y => x && y) ∧ p (.kor d a b) (fun x y => x || y) ∧ p (.kxor d a b) (fun x y => x != y))
      ∧ (∀ d a : KIdx, Clear { reads := [.k a], writes := [.k d] } s →
        let p (i : Instr) (g : Bool → Bool) : Prop :=
          ∃ m : KReg, (∀ j, j < 512 → m.getLsbD j = g ((s.rk a).getLsbD j))
            ∧ Completes i { reads := [.k a], writes := [.k d] } s (s.wk d m).advance
        p (.knot d a) (fun x => !x) ∧ p (.kmov d a) (fun x => x))
      ∧ (∀ (d : Reg) (a : KIdx),
        let u : Use := { reads := [.k a, .vl], writes := [.x d] }
        let lim := min s.cpu.vl.toNat 512
        Clear u s →
          WritesX (.kpop d a) u d s (BitVec.ofNat 64 ((List.range lim).countP (fun i => (s.rk a).getLsbD i)))
          ∧ ((∀ i, i < lim → (s.rk a).getLsbD i = false) → WritesX (.kfirst d a) u d s (BitVec.allOnes 64))
          ∧ (∀ i, i < lim → (s.rk a).getLsbD i = true → (∀ j, j < i → (s.rk a).getLsbD j = false) →
              WritesX (.kfirst d a) u d s (BitVec.ofNat 64 i)))
      ∧ (∀ (d : KIdx) (a b : Reg), Clear { reads := [.x a, .x b, .k d], writes := [.k d] } s →
        let j := (s.rx b).toNat % 8
        ∃ m : KReg, (∀ i, i < 512 → m.getLsbD i = if i / 64 = j then (s.rx a).getLsbD (i % 64) else (s.rk d).getLsbD i)
          ∧ Completes (.kset d a b) { reads := [.x a, .x b, .k d], writes := [.k d] } s (s.wk d m).advance)
      ∧ (∀ (d : Reg) (a : KIdx) (b : Reg), Clear { reads := [.k a, .x b], writes := [.x d] } s →
        ∃ v : Dword, (∀ i, i < 64 → v.getLsbD i = (s.rk a).getLsbD (64 * ((s.rx b).toNat % 8) + i))
          ∧ WritesX (.kget d a b) { reads := [.k a, .x b], writes := [.x d] } d s v))
  ∧ (∀ (s : State),
      (∀ d a b : Reg, Clear { reads := [.x a, .x b], writes := [.x d, .vl, .vew] } s →
        let ew := (s.rx b).toNat % 4
        let grant := s.pwrgrant.toNat % 4
        let n := min (s.rx a).toNat (512 / 2 ^ ew / 2 ^ grant)
        Completes (.setvl d a b) { reads := [.x a, .x b], writes := [.x d, .vl, .vew] } s
          (State.advance (State.wx { s with cpu := { s.cpu with vl := BitVec.ofNat 10 n, vew := BitVec.ofNat 2 ew } } d (BitVec.ofNat 64 n))))
      ∧ (let u : Use := { writes := (List.range 32).map (fun i => RegName.v (BitVec.ofNat 5 i)) };
        Clear u s → ∃ t : State, Completes .vdead u s (t.advance) ∧ t = { s with cpu := { s.cpu with v := t.cpu.v, vdead := t.cpu.vdead } }
          ∧ ∀ n : Reg, t.cpu.v.get n.toFin = 0 ∧ t.cpu.vdead.getLsbD n.toNat = true))

/-! ## Floating-point vector instructions, conversions and packing -/

/-- R252, R240: the rounding operations of BF16, FP32 and FP64 vectors; element i is rounded under stat.VRM with key
sbase + i, and the flags of active elements are ORed into fflags (R78). A stat.VRM of 6 or 7 raises ILLOP with the word (R62). -/
def Obligations.VectorFloatArithmetic : Prop :=
  ∀ (s : State) (e : BitVec 2) (d a b : Reg) (f k t : BitVec 2),
    let m := fpFmt e
    let n := min s.cpu.vl.toNat (4096 / m.width)
    let x (i : Nat) : Nat := velem m.width (s.rv a) i
    let y (i : Nat) : Nat := s.formFp f b m i
    let z (i : Nat) : Nat := velem m.width (s.rv d) i
    let r (i : Nat) : Rnd := { mode := statVrm s.cpu.stat, key := s.cpu.sbase + BitVec.ofNat 64 i, seed := s.cpu.seed }
    let lat := if e = 2 then 4 else 3
    let use (l : Nat) (more : List RegName) : Use :=
      { reads := vecReads k ++ [.v a] ++ more ++ formReads f b ++ [.vrm, .sbase, .seed], writes := [.v d, .vstart], lat := l, st := t }
    let unary : Use := { reads := vecReads k ++ [.v a] ++ [.vrm, .sbase, .seed], writes := [.v d, .vstart], st := t }
    let illop (j : Instr) : Prop := Traps j s causeIllop (s.cpu.ir.setWidth 64)
    (6 ≤ statVrm s.cpu.stat →
      (Clear (use lat []) s → illop (.vfadd e d a b f k t) ∧ illop (.vfsub e d a b f k t) ∧ illop (.vfmul e d a b f k t))
      ∧ (Clear (use 1 []) s → illop (.vfdiv e d a b f k t))
      ∧ (Clear (use lat [.v d]) s → illop (.vfma e d a b f k t) ∧ illop (.vfms e d a b f k t) ∧ illop (.vfnma e d a b f k t))
      ∧ (Clear unary s → illop (.vfsqrt e d a k t)))
    ∧ (statVrm s.cpu.stat < 6 →
    (Clear (use lat []) s →
      SetsFp (.vfadd e d a b f k t) (use lat []) s m.width n d k (fun i => m.add (r i) (x i) (y i))
      ∧ SetsFp (.vfsub e d a b f k t) (use lat []) s m.width n d k (fun i => m.sub (r i) (x i) (y i))
      ∧ SetsFp (.vfmul e d a b f k t) (use lat []) s m.width n d k (fun i => m.mul (r i) (x i) (y i)))
    ∧ (Clear (use 1 []) s → SetsFp (.vfdiv e d a b f k t) (use 1 []) s m.width n d k (fun i => m.div (r i) (x i) (y i)))
    ∧ (Clear (use lat [.v d]) s →
      SetsFp (.vfma e d a b f k t) (use lat [.v d]) s m.width n d k (fun i => m.fma (r i) false false (x i) (y i) (z i))
      ∧ SetsFp (.vfms e d a b f k t) (use lat [.v d]) s m.width n d k (fun i => m.fma (r i) false true (x i) (y i) (z i))
      ∧ SetsFp (.vfnma e d a b f k t) (use lat [.v d]) s m.width n d k (fun i => m.fma (r i) true true (x i) (y i) (z i)))
    ∧ (Clear unary s → SetsFp (.vfsqrt e d a k t) unary s m.width n d k (fun i => m.sqrt (r i) (x i))))

/-- R252, R75, R61, R80 to R83: the vector operations that do not read stat.VRM, and what vfrcp and vfrsq make of a number: the sequences
of R81 and R82, whose every step is rounded in the working format and the last to the destination. -/
def Obligations.VectorFloatOther : Prop :=
  (∀ (f : Fmt) (a : Nat), f ∈ [fp64, fp32, bf16] →
    let w := (estimateIn f a).1
    let x := (estimateIn f a).2
    let v := w.decode x
    (let steps := if f = fp64 then 3 else 2
      let val (y : Nat × BitVec 7) : ℝ := realOf (w.decode y.1)
      (isNumber v = true → realOf v ≠ 0 → ∃ (g : Int) (m : ℝ) (y e : Nat → Nat × BitVec 7),
        |realOf v| = m * (2 : ℝ) ^ g ∧ 1 ≤ m ∧ m < 2 ∧ RoundsOr0 w rne false (1 / (1 + ((⌊(m - 1) * 128⌋₊ : ℝ) + 1 / 2) / 128)) (y 0)
        ∧ (∀ k, k < steps → RoundsOr0 w rne false (1 - m * val (y k)) (e k)
          ∧ RoundsOr0 w rne false (val (y k) * val (e k) + val (y k)) (y (k + 1)))
        ∧ Rounds f rne ((if realOf v < 0 then -1 else 1) * val (y steps) * (2 : ℝ) ^ (-g)) (frcp w f x).1 (frcp w f x).2)
      ∧ (isNumber v = true → 0 < realOf v → ∃ (g : Int) (m : ℝ) (h : Nat × BitVec 7) (y q e : Nat → Nat × BitVec 7),
        let c : ℝ := if 2 ≤ m then 2 else 1
        realOf v = m * (2 : ℝ) ^ (2 * g) ∧ 1 ≤ m ∧ m < 4
        ∧ RoundsOr0 w rne false (1 / Real.sqrt (c * (1 + ((⌊(m / c - 1) * 64⌋₊ : ℝ) + 1 / 2) / 64))) (y 0)
        ∧ RoundsOr0 w rne false (m / 2) h
        ∧ (∀ k, k < steps → RoundsOr0 w rne false (val (y k) * val (y k)) (q k) ∧ RoundsOr0 w rne false (3 / 2 - val h * val (q k)) (e k)
          ∧ RoundsOr0 w rne false (val (y k) * val (e k)) (y (k + 1)))
        ∧ Rounds f rne (val (y steps) * (2 : ℝ) ^ (-g)) (frsq w f x).1 (frsq w f x).2)))
  ∧ ∀ (s : State) (e : BitVec 2) (d a b : Reg) (f k t : BitVec 2),
    let m := fpFmt e
    let n := min s.cpu.vl.toNat (4096 / m.width)
    let x (i : Nat) : Nat := velem m.width (s.rv a) i
    let y (i : Nat) : Nat := s.formFp f b m i
    let one (l : Nat) : Use := { reads := vecReads k ++ [.v a], writes := [.v d, .vstart], lat := l, st := t }
    let est := if e = 2 then 9 else 6
    let nan (v : Nat) : Prop := (m.decode v).isNan = true
    (Clear (useVec 2 d a b f k t) s →
      SetsFp (.vfmin e d a b f k t) (useVec 2 d a b f k t) s m.width n d k (fun i => m.minMax false (x i) (y i))
      ∧ SetsFp (.vfmax e d a b f k t) (useVec 2 d a b f k t) s m.width n d k (fun i => m.minMax true (x i) (y i)))
    ∧ (Clear (one 2) s →
      (∀ g : Nat → Nat, (∀ i, g i = if nan (x i) then m.nan else x i % 2 ^ (m.width - 1)) →
        SetsFp (.vfabs e d a k t) (one 2) s m.width n d k (fun i => (g i, 0)))
      ∧ (∀ g : Nat → Nat, (∀ i, g i = if nan (x i) then m.nan else x i ^^^ 2 ^ (m.width - 1)) →
        SetsFp (.vfneg e d a k t) (one 2) s m.width n d k (fun i => (g i, 0)))
      ∧ SetsFp (.vfclass e d a k t) (one 2) s m.width n d k (fun i => (m.fclass (x i), 0)))
    ∧ (Clear (one est) s →
      SetsFp (.vfexp2 e d a k t) (one est) s m.width n d k (fun i => fexp2 (estimateIn m (x i)).1 m (estimateIn m (x i)).2)
      ∧ SetsFp (.vfrcp e d a k t) (one est) s m.width n d k (fun i => frcp (estimateIn m (x i)).1 m (estimateIn m (x i)).2)
      ∧ SetsFp (.vfrsq e d a k t) (one est) s m.width n d k (fun i => frsq (estimateIn m (x i)).1 m (estimateIn m (x i)).2))
    ∧ (let u : Use := { reads := vecReads k ++ formReads f b, writes := [.v d, .vstart], lat := 2, st := t };
      Clear u s → SetsV (.vfmv e d b f k t) u s m.width n d k (fun i => y i))
    ∧ (∀ c : KIdx,
      let u : Use := { reads := vecReads k ++ [.v a] ++ formReads f b, writes := [.k c, .vstart], lat := 2, st := t }
      let sets (j : Instr) (g : Nat → Bool × BitVec 7) : Prop := ∃ (v : KReg) (fl : BitVec 7),
        (∀ i, i < 512 → v.getLsbD i = if s.active k n i then (g i).1 else (s.kbase c).getLsbD i)
        ∧ (∀ z, fl.getLsbD z = true ↔ ∃ i, s.active k n i = true ∧ (g i).2.getLsbD z = true)
        ∧ Completes j u s ((s.wk c v).addFlags fl).vdone
      Clear u s →
        sets (.vfceq e c a b f k t) (fun i => m.eq (x i) (y i))
        ∧ sets (.vfclt e c a b f k t) (fun i => m.lt (x i) (y i))
        ∧ sets (.vfcle e c a b f k t) (fun i => m.le (x i) (y i)))

/-- R253, R70 to R72: the twelve conversions. The widening forms are exact and read no mode; the others raise ILLOP with the word when
stat.VRM is 6 or 7 (R62). -/
def Obligations.VectorConvert : Prop :=
  ∀ (s : State) (d a : Reg) (k t : BitVec 2),
    let r (i : Nat) : Rnd := { mode := statVrm s.cpu.stat, key := s.cpu.sbase + BitVec.ofNat 64 i, seed := s.cpu.seed }
    let x (w i : Nat) : Nat := velem w (s.rv a) i
    let up (i : Instr) (src dst : Fmt) : Prop :=
      let u : Use := { reads := vecReads k ++ [.v a], writes := [.v d, .vstart], lat := 3, st := t }
      Clear u s → SetsFp i u s dst.width (min s.cpu.vl.toNat (4096 / dst.width)) d k (fun j => convFmt src dst rne (x src.width j))
    let down (i : Instr) (ws wd : Nat) (g : Nat → Nat × BitVec 7) : Prop :=
      let u : Use := { reads := vecReads k ++ [.v a] ++ [.vrm, .sbase, .seed], writes := [.v d, .vstart], lat := 3, st := t }
      Clear u s → (statVrm s.cpu.stat < 6 → SetsFp i u s wd (min s.cpu.vl.toNat (4096 / max ws wd)) d k g)
        ∧ (6 ≤ statVrm s.cpu.stat → Traps i s causeIllop (s.cpu.ir.setWidth 64))
    up (.vconvSfBf d a k t) bf16 fp32
    ∧ up (.vconvSfHf d a k t) fp16 fp32
    ∧ up (.vconvSfE4 d a k t) e4m3 fp32
    ∧ up (.vconvSfE5 d a k t) e5m2 fp32
    ∧ up (.vconvDfSf d a k t) fp32 fp64
    ∧ down (.vconvBfSf d a k t) 32 16 (fun j => convFmt fp32 bf16 (r j) (x 32 j))
    ∧ down (.vconvHfSf d a k t) 32 16 (fun j => convFmt fp32 fp16 (r j) (x 32 j))
    ∧ down (.vconvE4Sf d a k t) 32 8 (fun j => convFmt fp32 e4m3 (r j) (x 32 j))
    ∧ down (.vconvE5Sf d a k t) 32 8 (fun j => convFmt fp32 e5m2 (r j) (x 32 j))
    ∧ down (.vconvSfDf d a k t) 64 32 (fun j => convFmt fp64 fp32 (r j) (x 64 j))
    ∧ down (.vconvSfW d a k t) 32 32 (fun j => ofIntFmt fp32 (r j) (signed 32 (x 32 j)))
    ∧ down (.vconvWSf d a k t) 32 32 (fun j => toInt fp32 (r j) 32 true (x 32 j))

/-- R53, R54, R58, R254 to R256: KI8 quantisation, a block of 32 elements at a time, and dequantisation; ternary and nibble
packing. A reserved scale of an active element's block raises FMTCODE at the block, a reserved code of an active element
there, with the elements below it done. kq8 raises ILLOP when D = B or stat.VRM is 6 or 7, and ILLSTATE with vstart when vstart is not 0
(R238); kdq8 raises ILLOP under such a stat.VRM. -/
def Obligations.QuantiseAndPack : Prop :=
  (∀ (s : State) (d a b : Reg) (k t : BitVec 2),
      let n := min s.cpu.vl.toNat 128
      let r (i : Nat) : Rnd := { mode := statVrm s.cpu.stat, key := s.cpu.sbase + BitVec.ofNat 64 i, seed := s.cpu.seed }
      (let u : Use := { reads := [.vl, .vstart, .v a] ++ [.vrm, .sbase, .seed], writes := [.v d, .v b, .vstart], lat := 5, st := t };
        let x (i : Nat) : Nat := velem 32 (s.rv a) i
        let exp (blk : Nat) : Int := quantExp (((List.range n).filter (fun i => i / 32 = blk)).map x)
        let q (i : Nat) : Int × BitVec 7 := quantElem (r i) (exp (i / 32)) (x i)
        Clear u s →
        (d = b ∨ 6 ≤ statVrm s.cpu.stat → Traps (.kq8 d a b t) s causeIllop (s.cpu.ir.setWidth 64))
        ∧ (d ≠ b → statVrm s.cpu.stat < 6 → s.cpu.vstart ≠ 0 → Traps (.kq8 d a b t) s causeIllstate (s.cpu.vstart.setWidth 64))
        ∧ (d ≠ b → statVrm s.cpu.stat < 6 → s.cpu.vstart = 0 →
        ∃ (v c : VReg) (fl : BitVec 7),
          (∀ i, i < 512 → velem 8 v i = if i < n then wrap 8 (q i).1 else velem 8 (s.vbase d) i)
          ∧ (∀ i, i < 512 → velem 8 c i = if 32 * i < n then (exp i + 127).toNat else velem 8 (s.vbase b) i)
          ∧ (∀ z, fl.getLsbD z = true ↔ ∃ i, i < n ∧ (q i).2.getLsbD z = true)
          ∧ Completes (.kq8 d a b t) u s (((s.wv d v).wv b c).addFlags fl).vdone))
      ∧ (let u : Use := { reads := vecReads k ++ [.v a, .v b] ++ [.vrm, .sbase, .seed], writes := [.v d, .vstart], lat := 3, st := t };
        let scale (i : Nat) : Nat := velem 8 (s.rv b) (i / 32)
        let g (i : Nat) : Nat × BitVec 7 := dequant (r i) (velem 8 (s.rv a) i) (scale i)
        Clear u s →
        (6 ≤ statVrm s.cpu.stat → Traps (.kdq8 d a b k t) s causeIllop (s.cpu.ir.setWidth 64))
        ∧ (statVrm s.cpu.stat < 6 →
        ((∀ i, s.active k n i = true → scale i ≠ 0xFF) → SetsFp (.kdq8 d a b k t) u s 32 n d k g)
        ∧ (∀ i, s.active k n i = true → scale i = 0xFF → (∀ j, j < i → s.active k n j = true → scale j ≠ 0xFF) →
          let v := max (32 * (i / 32)) s.cpu.vstart.toNat
          ∃ (c : VReg) (fl : BitVec 7),
            (∀ j, j < 128 → velem 32 c j = if s.active k v j then (g j).1 % 2 ^ 32 else velem 32 (s.vbase d) j)
            ∧ (∀ z, fl.getLsbD z = true ↔ ∃ j, s.active k v j = true ∧ (g j).2.getLsbD z = true)
            ∧ Faults (.kdq8 d a b k t) u s
                { (s.wv d c).addFlags fl with cpu := { ((s.wv d c).addFlags fl).cpu with vstart := BitVec.ofNat 10 v } }
                causeFmtcode (BitVec.ofNat 64 v)))))
  ∧ (∀ (s : State) (d a : Reg) (e k t : BitVec 2),
      let w := ewBits e
      let n := min s.cpu.vl.toNat (4096 / w)
      let z (i : Nat) : Int := signed w (velem w (s.rv a) i)
      let code (i : Nat) : Nat := velem 2 (s.rv a) i
      let t2 (i : Nat) : Int := if code i = 1 then 1 else if code i = 3 then -1 else 0
      (let u : Use := { reads := [.vl, .vstart, .v a], writes := [.v d, .vstart], lat := 2, st := t };
        Clear u s →
          SetsV (.t2pack d a e t) u s 2 n d 0 (fun i => if z i < 0 then 3 else if 0 < z i then 1 else 0)
          ∧ SetsV (.q4pack d a e t) u s 4 n d 0 (fun i => satS 4 (z i)))
      ∧ (let u : Use := { reads := vecReads k ++ [.v a], writes := [.v d, .vstart], lat := 2, st := t };
        Clear u s →
          SetsV (.q4unpack d a e k t) u s w n d k (fun i => signed 4 (velem 4 (s.rv a) i))
          ∧ ((∀ i, s.active k n i = true → code i ≠ 2) → SetsV (.t2unpack d a e k t) u s w n d k t2)
          ∧ (∀ i, s.active k n i = true → code i = 2 → (∀ j, j < i → s.active k n j = true → code j ≠ 2) →
            ∃ c : VReg, (∀ j, j < 4096 / w → velem w c j = if s.active k i j then wrap w (t2 j) else velem w (s.vbase d) j)
              ∧ Faults (.t2unpack d a e k t) u s
                  { s.wv d c with cpu := { (s.wv d c).cpu with vstart := BitVec.ofNat 10 i } } causeFmtcode (BitVec.ofNat 64 i))))

/-! ## Reductions, permutations and irregular work -/

/-- R257, R76: the reductions combine active elements in ascending index into element 0 of V[D]. With vstart not 0 they raise ILLSTATE
with tinfo vstart (R238); vfredsum raises ILLOP with the word first when stat.VRM is 6 or 7 (R62, R158). -/
def Obligations.Reductions : Prop :=
  ∀ (s : State) (d a b : Reg) (e k t : BitVec 2),
    let w := ewBits e
    let sg (z : Nat) : Int := signed w z
    let whole (j : Instr) : Prop := Traps j s causeIllstate (s.cpu.vstart.setWidth 64)
    let intUse : Use := { reads := vecReads k ++ [.v a, .v b], writes := [.v d, .vstart], st := t }
    let sumUse : Use := { reads := vecReads k ++ [.v a, .v b] ++ [.vrm, .sbase, .seed], writes := [.v d, .vstart], st := t }
    (Clear intUse s → s.cpu.vstart ≠ 0 →
      ∀ j, j ∈ [Instr.vredsum d a b e k t, .vredmax d a b e k t, .vredmin d a b e k t, .vredmaxu d a b e k t, .vredminu d a b e k t,
        .vfredmax d a b e k t] → whole j)
    ∧ (Clear sumUse s → statVrm s.cpu.stat < 6 → s.cpu.vstart ≠ 0 → whole (.vfredsum d a b e k t))
    ∧ (Clear sumUse s → 6 ≤ statVrm s.cpu.stat → Traps (.vfredsum d a b e k t) s causeIllop (s.cpu.ir.setWidth 64))
    ∧ (s.cpu.vstart = 0 → (let u : Use := { reads := vecReads k ++ [.v a, .v b], writes := [.v d, .vstart], st := t };
      Clear u s →
        Reduces (.vredsum d a b e k t) u s w d a b k (fun x y _ => ((x + y) % 2 ^ w, 0))
        ∧ Reduces (.vredmax d a b e k t) u s w d a b k (fun x y _ => (if sg x < sg y then y else x, 0))
        ∧ Reduces (.vredmin d a b e k t) u s w d a b k (fun x y _ => (if sg y < sg x then y else x, 0))
        ∧ Reduces (.vredmaxu d a b e k t) u s w d a b k (fun x y _ => (max x y, 0))
        ∧ Reduces (.vredminu d a b e k t) u s w d a b k (fun x y _ => (min x y, 0))
        ∧ (let m := fpFmt (e - 1);
          Reduces (.vfredmax d a b e k t) u s m.width d a b k (fun x y _ => m.minMax true x y)))
    ∧ (let m := fpFmt (e - 1);
      let u : Use := { reads := vecReads k ++ [.v a, .v b] ++ [.vrm, .sbase, .seed], writes := [.v d, .vstart], st := t }
      Clear u s → statVrm s.cpu.stat < 6 →
        Reduces (.vfredsum d a b e k t) u s m.width d a b k (fun x y i =>
          m.add { mode := statVrm s.cpu.stat, key := s.cpu.sbase + BitVec.ofNat 64 i, seed := s.cpu.seed } x y)))

/-- R258 to R261: slides, permutation, broadcast, compress, expand, merge and the moves of element 0. Slides, vperm, vcompress and vexpand
raise ILLSTATE with tinfo vstart when vstart is not 0 (R238). -/
def Obligations.Permutations : Prop :=
  ∀ (s : State) (d a b : Reg) (e k t : BitVec 2),
    let w := ewBits e
    let n := min s.cpu.vl.toNat (4096 / w)
    let x (i : Nat) : Int := velem w (s.rv a) i
    let dist := (s.rx b).toNat
    let act (g : Nat → Option Int) (i : Nat) : Option Int := if s.active k n i then g i else none
    let whole (j : Instr) : Prop := s.cpu.vstart ≠ 0 → Traps j s causeIllstate (s.cpu.vstart.setWidth 64)
    (let u : Use := { reads := vecReads k ++ [.v a, .x b], writes := [.v d, .vstart], lat := 3, st := t };
      Clear u s →
        whole (.vslideup d a b e k t) ∧ whole (.vslidedn d a b e k t) ∧
        (s.cpu.vstart = 0 →
          SetsEl (.vslideup d a b e k t) u s w d (act (fun i => if dist ≤ i then some (x (i - dist)) else none))
          ∧ SetsEl (.vslidedn d a b e k t) u s w d (act (fun i => some (if i + dist < n then x (i + dist) else 0))))
        ∧ SetsEl (.vbcast d a b e k t) u s w d (act (fun _ => some (if dist < n then x dist else 0))))
    ∧ (let u : Use := { reads := vecReads k ++ [.v a, .v b], writes := [.v d, .vstart], lat := 3, st := t };
      Clear u s → whole (.vperm d a b e k t) ∧ (s.cpu.vstart = 0 → SetsEl (.vperm d a b e k t) u s w d
        (act (fun i => some (if velem w (s.rv b) i < n then x (velem w (s.rv b) i) else 0)))))
    ∧ (∀ c : KIdx,
      let u : Use := { reads := [.vl, .vstart, .v a, .k c], writes := [.v d, .vstart], lat := 3, st := t }
      let bits := (List.range n).filter (fun i => (s.rk c).getLsbD i)
      Clear u s → whole (.vcompress d a c e t) ∧ whole (.vexpand d a c e t) ∧ (s.cpu.vstart = 0 →
        SetsEl (.vcompress d a c e t) u s w d (fun i => (bits[i]?).map x)
        ∧ SetsEl (.vexpand d a c e t) u s w d (fun i =>
          if i < n ∧ (s.rk c).getLsbD i = true then some (x ((bits.filter (fun j => j < i)).length)) else none)))
    ∧ (let u : Use := { reads := vecReads k ++ [.v a, .v b], writes := [.v d, .vstart], lat := 2, st := t };
      Clear u s → SetsEl (.vmerge d a b e k t) u s w d (fun i =>
        if s.cpu.vstart.toNat ≤ i ∧ i < n then some (if (s.rk (k.setWidth 3)).getLsbD i then x i else velem w (s.rv b) i) else none))
    ∧ (let u : Use := { reads := [.v a], writes := [.x d, .vstart], lat := 2, st := t };
      Clear u s → Completes (.vmvxs d a e t) u s (s.wx d (BitVec.ofInt 64 (signed w (velem w (s.rv a) 0)))).vdone)
    ∧ (let u : Use := { reads := [.x a], writes := [.v d, .vstart], lat := 2, st := t };
      Clear u s → SetsEl (.vmvsx d a e t) u s w d (fun i => if i = 0 then some (s.rx a).toNat else none))

/-- R262 to R264: index and count vectors, prefix sums, ranks of equal keys, and the merge of two ascending key vectors. vscan, vbin and
vmrgs raise ILLSTATE with tinfo vstart when vstart is not 0 (R238). -/
def Obligations.IrregularWork : Prop :=
  ∀ (s : State) (d a b : Reg) (c : KIdx) (e k t : BitVec 2),
    let w := ewBits e
    let n := min s.cpu.vl.toNat (4096 / w)
    let x (i : Nat) : Nat := velem w (s.rv a) i
    let whole (j : Instr) : Prop := s.cpu.vstart ≠ 0 → Traps j s causeIllstate (s.cpu.vstart.setWidth 64)
    (let u : Use := { reads := vecReads k, writes := [.v d, .vstart], lat := 2, st := t };
      Clear u s → SetsV (.vid d e k t) u s w n d k (fun i => i))
    ∧ (let u : Use := { reads := vecReads k ++ [.k c], writes := [.v d, .vstart], lat := 2, st := t };
      Clear u s → SetsV (.viota d c e k t) u s w n d k (fun i => (List.range i).countP (fun j => (s.rk c).getLsbD j)))
    ∧ (let u : Use := { reads := vecReads k ++ [.v a], writes := [.v d, .vstart], st := t };
      Clear u s → whole (.vscan d a e k t) ∧ (s.cpu.vstart = 0 →
        SetsV (.vscan d a e k t) u s w n d k (fun i => (loopTo (s.active k n) (fun z j => (z + x j) % 2 ^ w) 0 (i + 1) : Nat))))
    ∧ (let u : Use := { reads := vecReads k ++ [.v a], writes := [.v d, .k c, .vstart], st := t };
      Clear u s → whole (.vbin d a c e k t) ∧ (s.cpu.vstart = 0 →
      ∃ (v : VReg) (m : KReg),
        (∀ i, i < 4096 / w → velem w v i =
          if s.active k n i then wrap w ((List.range i).countP (fun j => s.active k n j && x j == x i)) else velem w (s.vbase d) i)
        ∧ (∀ i, i < 512 → (m.getLsbD i = true ↔
          if i < n then s.active k n i = true ∧ ∀ j, i < j → s.active k n j = true → x j ≠ x i else (s.kbase c).getLsbD i = true))
        ∧ Completes (.vbin d a c e k t) u s ((s.wv d v).wk c m).vdone))
    ∧ (let u : Use := { reads := [.vl, .vstart, .v a, .v b], writes := [.v d, .vstart] ++ kmReads k, st := t };
      let h := min s.cpu.vl.toNat (4096 / w / 2)
      let y (i : Nat) : Nat := velem w (s.rv b) i
      Clear u s → whole (.vmrgs d a b e k t) ∧ (s.cpu.vstart = 0 →
      ∃ (ia ib : Nat → Nat) (v : VReg) (m : KReg),
        let fromA (j : Nat) : Prop := ib j = h ∨ (ia j < h ∧ x (ia j) ≤ y (ib j))
        ia 0 = 0 ∧ ib 0 = 0
        ∧ (∀ j, j < 2 * h → (fromA j → ia (j + 1) = ia j + 1 ∧ ib (j + 1) = ib j ∧ velem w v j = x (ia j) ∧ m.getLsbD j = false)
          ∧ (¬ fromA j → ia (j + 1) = ia j ∧ ib (j + 1) = ib j + 1 ∧ velem w v j = y (ib j) ∧ m.getLsbD j = true))
        ∧ (∀ j, 2 * h ≤ j → j < 4096 / w → velem w v j = velem w (s.vbase d) j)
        ∧ (k ≠ 0 → ∀ j, 2 * h ≤ j → j < 512 → m.getLsbD j = (s.kbase (k.setWidth 3)).getLsbD j)
        ∧ Completes (.vmrgs d a b e k t) u s (if k = 0 then (s.wv d v).vdone else ((s.wv d v).wk (k.setWidth 3) m).vdone)))

/-! ## Loads, stores and atomics -/

/-- R88, R190 to R192: a load writes the number it reads, sign- or zero-extended, and a store writes the low bytes of X[S]; an
address not aligned to the access traps as ALIGN with tinfo the address; an access that stops faults or waits as its stop says. -/
def Obligations.LoadsAndStores : Prop :=
  (∀ (s : State) (d a : Reg) (i : BitVec 16),
      let u : Use := { reads := [.x a], writes := [.x d], flight := some .memory }
      let ea := wrap64 ((s.rx a).toNat + i.toInt)
      let w (j : Instr) (n : Nat) (v : Nat → Dword) : Prop :=
        (ea.toNat % n ≠ 0 → Traps j s causeAlign ea)
        ∧ (∀ e, s.load .gather ea n n = .error e → TakesStop j u s s e)
        ∧ (∀ bs t, s.load .gather ea n n = .ok (bs, t) → Completes j u s (t.wx d (v (leNat bs))).advance)
      Clear u s →
        w (.lb d a i) 1 (fun z => sextN 8 z)
        ∧ w (.lbu d a i) 1 (fun z => wrap64 z)
        ∧ w (.lh d a i) 2 (fun z => sextN 16 z)
        ∧ w (.lhu d a i) 2 (fun z => wrap64 z)
        ∧ w (.lw d a i) 4 (fun z => sextN 32 z)
        ∧ w (.lwu d a i) 4 (fun z => wrap64 z)
        ∧ w (.ld d a i) 8 (fun z => wrap64 z))
  ∧ (∀ (s : State) (r a : Reg) (i : BitVec 16),
      let u : Use := { reads := [.x r, .x a], flight := some .memory }
      let ea := wrap64 ((s.rx a).toNat + i.toInt)
      let w (j : Instr) (n : Nat) : Prop :=
        (ea.toNat % n ≠ 0 → Traps j s causeAlign ea)
        ∧ (∀ e, s.store .gather ea (leBytes n (s.rx r).toNat) n = .error e → TakesStop j u s s e)
        ∧ (∀ t, s.store .gather ea (leBytes n (s.rx r).toNat) n = .ok t → Completes j u s t.advance)
      Clear u s → w (.sb r a i) 1 ∧ w (.sh r a i) 2 ∧ w (.sw r a i) 4 ∧ w (.sd r a i) 8)

/-- R45, R46, R86, R87, R191, R192: in the private LS window a store of every width writes its bytes, every other byte of the window
staying, and a load reads what was written last; neither changes memory. In the shared window a load reads the thread's bytes, and a
store writes them outside a region and traps as SEGV inside one. No write meets the spill area of an installed format context, which
the array alone writes (R299), and the address space is not in breach (log entry 25). -/
def Obligations.LocalStoreAccess : Prop :=
  ∀ (s : State) (r a : Reg) (i : BitVec 16) (off : Nat),
    let ea := wrap64 ((s.rx a).toNat + i.toInt)
    let put : Use := { reads := [.x r, .x a], flight := some .memory }
    let get : Use := { reads := [.x a], writes := [.x r], flight := some .memory }
    let byte (v k : Nat) : Byte := BitVec.ofNat 8 (v / 2 ^ (8 * k))
    let seg (need : Need) (n : Nat) (g : Target) : Prop := ea.toNat % n = 0 ∧ segTarget (s.descriptor ea) s.smode need ea n = some g
    let loaded (t : State) : State := if s.isHead then t else { t with cpu := { t.cpu with loaded := true } }
    (Clear put s → ∀ j n, (j, n) ∈ [(Instr.sb r a i, 1), (.sh r a i, 2), (.sw r a i, 4), (.sd r a i, 8)] →
      (seg .store n (.priv off) → s.inSpill off n = false → ∃ ls : List Host.Cell,
        (∀ k, k < n → Written.get ls (off + k) = some (byte (s.rx r).toNat k))
        ∧ (∀ k, k < off ∨ off + n ≤ k → Written.get ls k = Written.get s.cpu.ls k)
        ∧ Completes j put s (State.advance { s with cpu := { s.cpu with ls := ls } }))
      ∧ (seg .store n (.shared off) → s.openRegion.isSome = true → Faults j put s s causeSegv ea)
      ∧ (seg .store n (.shared off) → s.openRegion = none → ∃ m : List Host.Cell,
        (∀ k, k < n → Memory.get m (off + k) = byte (s.rx r).toNat k)
        ∧ (∀ k, k < off ∨ off + n ≤ k → Memory.get m k = Memory.get s.thr.shared k)
        ∧ Completes j put s (State.advance { s with thr := { s.thr with shared := m } })))
    ∧ (Clear get s → s.coh.breach.contains s.thr.asid = false → ∀ (j : Instr) (n : Nat) (f : Nat → Dword),
      (j, n) ∈ [(Instr.lb r a i, 1), (.lh r a i, 2), (.lw r a i, 4)] ∧ (∀ z, f z = sextN (8 * n) z)
        ∨ (j, n) ∈ [(Instr.lbu r a i, 1), (.lhu r a i, 2), (.lwu r a i, 4), (.ld r a i, 8)] ∧ (∀ z, f z = wrap64 z) →
      ∀ v, v < 2 ^ (8 * n) →
      (seg .load n (.priv off) → (∀ k, k < n → Written.get s.cpu.ls (off + k) = some (byte v k)) →
        Completes j get s ((loaded s).wx r (f v)).advance)
      ∧ (seg .load n (.shared off) → (∀ k, k < n → Memory.get s.thr.shared (off + k) = byte v k) →
        Completes j get s ((loaded s).wx r (f v)).advance))

/-- R104, R191, R192: a load by the head from a page of this package's memory: the bytes are memory's, with the collect copies
of the line merged first (R110), and nothing but that merge and the translation changes memory. A store by the head to a page
that is not SIV writes its bytes and no other byte of memory, but for those collect copies. The ring's cache has room for the line, and
no unchecked obligation is broken (R8, log entry 25). -/
def Obligations.GlobalAccess : Prop :=
  (∀ (s s1 : State) (d a : Reg) (i : BitVec 16) (va : Nat) (m : Mapped),
      let u : Use := { reads := [.x a], writes := [.x d], flight := some .memory }
      let ea := wrap64 ((s.rx a).toNat + i.toInt)
      let q := s1.settledAt (m.pa / 64)
      let w (j : Instr) (n : Nat) (v : Nat → Dword) : Prop :=
        ea.toNat % n = 0 → segTarget (s.descriptor ea) s.smode .load ea n = some (.global va) → va % 64 + n ≤ 64 →
        (∀ g, s1.openRegion = some g → g.aliased [] [s1.extent va n m] = false) →
        ∃ t, Gives j s t
          ∧ t.mem = q.mem
          ∧ t.cpu.x = (s.wx d (v (leNat (Memory.getBytes q.mem m.pa n)))).cpu.x
          ∧ t.cpu.pc = s.cpu.pc + 4
      Clear u s → s.isHead = true → s.reach .gather .load va = .ok (m, s1) → s1.Sound → s1.place m.pa = .hbm m.pa →
      purging s1.coh.dir (m.pa / 64) = false → q.deviceStop m.pa = none → q.poisoned (64 * (m.pa / 64)) 64 = false →
      orphanFind s.coh.l1 s.who va = none → s1.coh.breach.contains s1.thr.asid = false →
      s1.coh.clash.contains (m.pa / 2 ^ 16) = false → (q.ringHolds s1.ring).length < ringLines →
      (m.coh = .siv → ∀ x, x ∈ s1.coh.siv → x.ring = s1.ring →
        x.line ≠ m.pa / 64 ∧ ¬ (x.asid = s1.thr.asid ∧ x.va = va / 64)) →
        w (.lb d a i) 1 (fun z => sextN 8 z)
        ∧ w (.lbu d a i) 1 (fun z => wrap64 z)
        ∧ w (.lh d a i) 2 (fun z => sextN 16 z)
        ∧ w (.lhu d a i) 2 (fun z => wrap64 z)
        ∧ w (.lw d a i) 4 (fun z => sextN 32 z)
        ∧ w (.lwu d a i) 4 (fun z => wrap64 z)
        ∧ w (.ld d a i) 8 (fun z => wrap64 z))
  ∧ (∀ (s s1 : State) (r a : Reg) (i : BitVec 16) (va : Nat) (m : Mapped),
      let u : Use := { reads := [.x r, .x a], flight := some .memory }
      let ea := wrap64 ((s.rx a).toNat + i.toInt)
      let q := s1.settledAt (m.pa / 64)
      let w (j : Instr) (n : Nat) : Prop :=
        ea.toNat % n = 0 → segTarget (s.descriptor ea) s.smode .store ea n = some (.global va) → va % 64 + n ≤ 64 →
        (m.coh = .trk ∧ q.poisoned (64 * (m.pa / 64)) 64 = false) ∨ (m.coh = .nc ∧ q.partialPoison m.pa n = false) →
        s.ownedByUnit va (leBytes n (s.rx r).toNat) = false →
        ∃ t, Gives j s t
          ∧ (∀ k, k < n → Memory.get t.mem (m.pa + k) = BitVec.ofNat 8 ((s.rx r).toNat / 2 ^ (8 * k)))
          ∧ (∀ b, b < m.pa ∨ m.pa + n ≤ b → Memory.get t.mem b = Memory.get q.mem b)
          ∧ t.cpu.x = s.cpu.x ∧ t.cpu.pc = s.cpu.pc + 4
      Clear u s → s.isHead = true → s.reach .gather .store va = .ok (m, s1) → s1.Sound → s1.place m.pa = .hbm m.pa →
      purging s1.coh.dir (m.pa / 64) = false → q.deviceStop m.pa = none → (q.ringHolds s1.ring).length < ringLines →
        w (.sb r a i) 1 ∧ w (.sh r a i) 2 ∧ w (.sw r a i) 4 ∧ w (.sd r a i) 8)

/-- R34, R35, R9: a speculative chunk's store, of every width, goes into its versions and not to memory, is remembered as one request for
its commit, and its words go as notices to every younger chunk; no other byte has a new version. -/
def Obligations.SpeculativeStore : Prop :=
  ∀ (s s1 : State) (r a : Reg) (i : BitVec 16) (va : Nat) (m : Mapped),
    let u : Use := { reads := [.x r, .x a], flight := some .memory }
    let ea := wrap64 ((s.rx a).toNat + i.toInt)
    ∀ j n, (j, n) ∈ [(Instr.sb r a i, 1), (.sh r a i, 2), (.sw r a i, 4), (.sd r a i, 8)] →
    Clear u s → s.isHead = false → s.capacityStall = false → updated [s.cpu] va n = false → s.thr.snaps = [] →
    ea.toNat % n = 0 → segTarget (s.descriptor ea) s.smode .store ea n = some (.global va) → va % 64 + n ≤ 64 →
    s.ownedByUnit va (leBytes n (s.rx r).toNat) = false → s.reach .gather .store va = .ok (m, s1) →
    ∃ t, Gives j s t
      ∧ t.mem = s1.mem
      ∧ (∀ k, k < n → verGet t.cpu.ver (va + k) = some (BitVec.ofNat 8 ((s.rx r).toNat / 2 ^ (8 * k))))
      ∧ (∀ b, b < va ∨ va + n ≤ b → verGet t.cpu.ver b = verGet s.cpu.ver b)
      ∧ t.cpu.stores = s.cpu.stores ++ [{ va := va, dest := m, data := leBytes n (s.rx r).toNat }]
      ∧ t.younger.length = s.younger.length
      ∧ (∀ c, c ∈ t.younger → ∀ b, va ≤ b → b < va + n → b / 8 ∈ c.inbox)
      ∧ t.cpu.x = s.cpu.x ∧ t.cpu.pc = s.cpu.pc + 4

/-- R194: acquire loads read and then acquire; release stores release and then write. Both are held until head (R40). -/
def Obligations.AcquireRelease : Prop :=
  ∀ (s : State) (d a b : Reg) (scope : BitVec 2),
    (let u : Use := { held := true, reads := [.x a], writes := [.x d], flight := some .memory };
      let w (j : Instr) (n : Nat) : Prop :=
        ((s.rx a).toNat % n ≠ 0 → Traps j s causeAlign (s.rx a))
        ∧ (∀ e, s.load .gather (s.rx a) n n = .error e → TakesStop j u s s e)
        ∧ (∀ bs t t1, s.load .gather (s.rx a) n n = .ok (bs, t) → t.acquire scope.toNat = .ok t1 →
          Completes j u s (t1.wx d (sextN (8 * n) (leNat bs))).advance)
      Clear u s → w (.ldAcqW d a scope) 4 ∧ w (.ldAcqD d a scope) 8)
    ∧ (let u : Use := { held := true, reads := [.x a, .x b], flight := some .memory };
      let w (j : Instr) (n : Nat) : Prop :=
        let put (r : State) : Except Stop State := r.store .gather (s.rx a) (leBytes n (s.rx b).toNat) n
        ((s.rx a).toNat % n ≠ 0 → Traps j s causeAlign (s.rx a))
        ∧ (∀ e, put s = .error e → TakesStop j u s s e)
        ∧ (∀ r t t1, put s = .ok t1 → s.release scope.toNat = .ok r → put r = .ok t → Completes j u s t.advance)
      Clear u s → w (.stRelW a b scope) 4 ∧ w (.stRelD a b scope) 8)
    ∧ (∀ j, (j = .ldAcqW d a scope ∨ j = .ldAcqD d a scope ∨ j = .stRelW a b scope ∨ j = .stRelD a b scope) →
      s.isHead = false → Gives j s s)

/-- R195, R196: the old value goes to X[D], sign-extended, and the word takes the operation's result; orders rel and ar
release first, orders acq and ar acquire after; a cas that does not match writes nothing and is no release. The read-modify-write
answers the number at the address, and leaves there the bytes of the operation's result, if it has one; every other byte of memory,
and of LS, stays, once the home of the line has settled. The ring's cache has room for the line, and no unchecked obligation is broken
(R8, log entry 25). -/
def Obligations.Atomics : Prop :=
  ∀ (s : State) (d a b : Reg) (scope o : BitVec 2) (z : BitVec 1),
    let n := if z = 0 then 4 else 8
    let w := 8 * n
    let y := (s.rx b).toNat % 2 ^ w
    let acq (t r : State) : Prop := if o = 1 ∨ o = 3 then t.acquire scope.toNat = .ok r else r = t
    let rel (t r : State) : Prop := if o = 2 ∨ o = 3 then t.release scope.toNat = .ok r else r = t
    let ends (j : Instr) (u : Use) (f : Nat → Option Nat) : Prop :=
      ((s.rx a).toNat % n ≠ 0 → Traps j s causeAlign (s.rx a))
      ∧ (∀ e, s.rmw (s.rx a) n f = .error e → TakesStop j u s s e)
      ∧ (∀ old t r, s.rmw (s.rx a) n f = .ok (old, t) → f old = none → acq t r →
        Completes j u s (r.wx d (sextN w old)).advance)
      ∧ (∀ old v t q old' t' r, s.rmw (s.rx a) n f = .ok (old, t) → f old = some v → rel s q →
        q.rmw (s.rx a) n f = .ok (old', t') → acq t' r → Completes j u s (r.wx d (sextN w old')).advance)
    (let u : Use := { held := true, reads := [.x a, .x b], writes := [.x d], flight := some .memory };
      let amo (j : Instr) (g : Nat → Nat) : Prop := ∃ f, (∀ x, f (x % 2 ^ w) = some (g (x % 2 ^ w))) ∧ ends j u f
      Clear u s →
        amo (.amoSwap d a b scope o z) (fun _ => y)
        ∧ amo (.amoAdd d a b scope o z) (fun x => (x + y) % 2 ^ w)
        ∧ amo (.amoAnd d a b scope o z) (fun x => x &&& y)
        ∧ amo (.amoOr d a b scope o z) (fun x => x ||| y)
        ∧ amo (.amoXor d a b scope o z) (fun x => x ^^^ y)
        ∧ amo (.amoMin d a b scope o z) (fun x => if signed w y < signed w x then y else x)
        ∧ amo (.amoMax d a b scope o z) (fun x => if signed w x < signed w y then y else x)
        ∧ amo (.amoMinu d a b scope o z) (fun x => min x y)
        ∧ amo (.amoMaxu d a b scope o z) (fun x => max x y))
    ∧ (let u : Use := { held := true, reads := [.x d, .x a, .x b], writes := [.x d], flight := some .memory };
      Clear u s → ends (.cas d a b scope o z) u (fun x => if x = (s.rx d).toNat % 2 ^ w then some y else none))
    ∧ (∀ (f : Nat → Option Nat) (old off : Nat) (t : State), s.rmw (s.rx a) n f = .ok (old, t) →
      s.coh.breach.contains s.thr.asid = false →
      (segTarget (s.descriptor (s.rx a)) s.smode .rmw (s.rx a) n = some (.priv off) → s.inSpill off n = false →
        t.mem = s.mem
        ∧ (∀ k v, k < n → Written.get s.cpu.ls (off + k) = some v → v = BitVec.ofNat 8 (old / 2 ^ (8 * k)))
        ∧ (∀ v k, f old = some v → k < n → Written.get t.cpu.ls (off + k) = some (BitVec.ofNat 8 (v / 2 ^ (8 * k))))
        ∧ (∀ k, f old = none ∨ k < off ∨ off + n ≤ k → Written.get t.cpu.ls k = Written.get s.cpu.ls k))
      ∧ (∀ (va : Nat) (m : Mapped) (s1 : State),
        let q := (if m.coh = .siv then s1.sivDrainLine s.who (m.pa / 64) else s1).settledAt (m.pa / 64)
        segTarget (s.descriptor (s.rx a)) s.smode .rmw (s.rx a) n = some (.global va) → va % 64 + n ≤ 64 →
        (∀ x v, f x = some v → s.ownedByUnit va (leBytes n v) = false) → s.isHead = true → s.reach .gather .rmw va = .ok (m, s1) →
        s1.Sound → s1.place m.pa = .hbm m.pa → s1.coh.breach.contains s1.thr.asid = false →
        (∀ g, s1.openRegion = some g → g.aliased [s1.extent va n m] [s1.extent va n m] = false) → s1.coh.clash.contains (m.pa / 2 ^ 16) = false →
        (q.ringHolds s1.ring).length < ringLines →
          old = leNat (Memory.getBytes q.mem m.pa n)
          ∧ (∀ v k, f old = some v → k < n → Memory.get t.mem (m.pa + k) = BitVec.ofNat 8 (v / 2 ^ (8 * k)))
          ∧ (∀ b, f old = none ∨ b < m.pa ∨ m.pa + n ≤ b → Memory.get t.mem b = Memory.get q.mem b)))

/-- R109, R110, R271: an integer scatter-reduce by a ring to a TRK line that no ring holds is collected, and the home's next
read of the word answers the operation applied to the old word. The ring's cache has room for the line, and the page is mapped with
one COH value (R108, log entry 25). -/
def Obligations.CollectedUpdate : Prop :=
  ∀ (s s' t t' : State) (w : Who) (m : Mapped) (va n v : Nat) (op : RmwOp) (old new : List Byte),
    op ∈ [RmwOp.add, .min, .max, .or] → n ∈ [1, 2, 4, 8] → m.pa % n = 0 → v < 2 ^ (8 * n) → s.Sound → m.coh = .trk →
    s.place m.pa = .hbm m.pa → chainOf s.coh.dir (m.pa / 64) = [] → s.poisoned (64 * (m.pa / 64)) 64 = false →
    s.coh.clash.contains (m.pa / 2 ^ 16) = false → (s.ringHolds w.ring).length < ringLines →
    s.homeRead m.pa n = .ok (old, s') → s.scatterAt w va m op n v = .ok t → t.homeRead m.pa n = .ok (new, t') →
    leNat new = rmwInt op n (leNat old) v
      ∧ (op = .add → leNat new = (leNat old + v) % 2 ^ (8 * n)) ∧ (op = .or → leNat new = leNat old ||| v)
      ∧ (op = .min → signed (8 * n) (leNat new) = min (signed (8 * n) (leNat old)) (signed (8 * n) v))
      ∧ (op = .max → signed (8 * n) (leNat new) = max (signed (8 * n) (leNat old)) (signed (8 * n) v))
      ∧ ∀ b, b < m.pa ∨ m.pa + n ≤ b → Memory.get t'.mem b = Memory.get s.mem b

/-- What an access leaves alone: a load, a store, an atomic or a scatter-reduce element changes no register, no older chunk
and no recorded fault; only a scatter-reduce may add FP flags. -/
def Obligations.AccessFrame : Prop :=
  ∀ s t : State,
    (∀ st ea n al bs, s.load st ea n al = .ok (bs, t) → SameRegisters s t ∧ t.cpu.fflags = s.cpu.fflags ∧ t.cpu.ls = s.cpu.ls)
    ∧ (∀ st ea bs al, s.store st ea bs al = .ok t → SameRegisters s t ∧ t.cpu.fflags = s.cpu.fflags)
    ∧ (∀ ea n f old, s.rmw ea n f = .ok (old, t) → SameRegisters s t ∧ t.cpu.fflags = s.cpu.fflags)
    ∧ (∀ u, s.scatterElem u = .ok t → SameRegisters s t)
    ∧ (∀ scope, (s.acquire scope = .ok t → SameRegisters s t) ∧ (s.release scope = .ok t → SameRegisters s t))

/-! ## Vector memory instructions -/

/-- R266, R267, R269, R270: vector loads: active elements take what their accesses read, in ascending index; a fault at
element f leaves those below loaded and vstart at f; vldb makes one access, whose fault leaves vstart at the first active element; vldff
faults at its first element alike, and past it shortens vl instead, a speculative chunk waiting until it is head. -/
def Obligations.VectorLoads : Prop :=
  ∀ (s : State) (d a b : Reg) (e k t : BitVec 2),
    let w := ewBits e
    let n := min s.cpu.vl.toNat (4096 / w)
    let act := (List.range n).filter (fun i => s.active k n i)
    let filled (c : VReg) (p : Nat → Bool) (v : Nat → Nat) : Prop :=
      ∀ j, j < 4096 / w → velem w c j = if p j then v j % 2 ^ w else velem w (s.vbase d) j
    let ends (j : Instr) (u : Use) (str : Stream) (ea : Nat → Dword) : Prop :=
      (∀ v t', LoadsAll str (w / 8) v s (act.map (fun i => (i, ea i))) t' →
        ∃ c, filled c (s.active k n) v ∧ Completes j u s (t'.wv d c).vdone)
      ∧ (∀ v t' f x y, f ∈ act →
        LoadsAll str (w / 8) v s ((act.filter (fun i => i < f)).map (fun i => (i, ea i))) t' →
        t'.load str (ea f) (w / 8) (w / 8) = .error (.trap x y) →
        ∃ c, filled c (fun i => s.active k n i && decide (i < f)) v
          ∧ Faults j u s { t'.wv d c with cpu := { (t'.wv d c).cpu with vstart := BitVec.ofNat 10 f } } x y)
    let first (j : Instr) (u : Use) (ea : Nat → Dword) : Prop :=
      ∀ f x y, f ∈ act → (∀ i, i ∈ act → f ≤ i) → s.load .unit (ea f) (w / 8) (w / 8) = .error (.trap x y) →
        ∃ c, filled c (fun _ => false) (fun _ => 0)
          ∧ Faults j u s { s.wv d c with cpu := { (s.wv d c).cpu with vstart := BitVec.ofNat 10 f } } x y
    (let u : Use := { reads := vecReads k ++ [.x a], writes := [.v d, .vstart], st := t, flight := some .memory };
      Clear u s →
        ends (.vld d a e k t) u .unit (fun i => wrap64 ((s.rx a).toNat + i * (w / 8) : Nat))
        ∧ (act = [] → ∃ c, filled c (fun _ => false) (fun _ => 0) ∧ Completes (.vldb d a e k t) u s (s.wv d c).vdone)
        ∧ first (.vldb d a e k t) u (fun _ => s.rx a)
        ∧ (∀ bs t', act ≠ [] → s.load .unit (s.rx a) (w / 8) (w / 8) = .ok (bs, t') →
          ∃ c, filled c (s.active k n) (fun _ => leNat bs) ∧ Completes (.vldb d a e k t) u s (t'.wv d c).vdone))
    ∧ (let u : Use := { reads := vecReads k ++ [.x a, .x b], writes := [.v d, .vstart], st := t, flight := some .memory };
      Clear u s → ends (.vlds d a b e k t) u .gather (fun i => wrap64 ((s.rx a).toNat + i * (s.rx b).toInt)))
    ∧ (let u : Use := { reads := vecReads k ++ [.x a, .v b], writes := [.v d, .vstart], st := t, flight := some .memory };
      let ea (i : Nat) : Dword := wrap64 ((s.rx a).toNat + velem w (s.rv b) i * (w / 8) : Nat)
      Clear u s →
        ends (.vldxO d a b e k t) u .gather ea
        ∧ (statDet s.cpu.stat = false → ends (.vldxU d a b e k t) u .gather ea)
        ∧ (statDet s.cpu.stat = true → Traps (.vldxU d a b e k t) s causeIllop (s.cpu.ir.setWidth 64)))
    ∧ (let u : Use := { reads := vecReads k ++ [.x a], writes := [.v d, .vstart, .vl], st := t, flight := some .memory };
      let ea (i : Nat) : Dword := wrap64 ((s.rx a).toNat + i * (w / 8) : Nat)
      Clear u s →
        (∀ v t', LoadsAll .unit (w / 8) v s (act.map (fun i => (i, ea i))) t' →
          ∃ c, filled c (s.active k n) v ∧ Completes (.vldff d a e k t) u s (t'.wv d c).vdone)
        ∧ first (.vldff d a e k t) u ea
        ∧ (∀ v t' f x y, f ∈ act → (∃ i, i ∈ act ∧ i < f) →
          LoadsAll .unit (w / 8) v s ((act.filter (fun i => i < f)).map (fun i => (i, ea i))) t' →
          t'.load .unit (ea f) (w / 8) (w / 8) = .error (.trap x y) →
          (s.isHead = false → Waits (.vldff d a e k t) u s s)
          ∧ (s.isHead = true → ∃ c, filled c (fun i => s.active k n i && decide (i < f)) v
            ∧ Completes (.vldff d a e k t) u s
                (State.vdone (State.wv { t' with cpu := { t'.cpu with vl := BitVec.ofNat 10 f } } d c)))))

/-- R266, R267, R269: vector stores: every active element is checked, then stored in ascending index; of elements with one
target, vst, vsts and vstx.u store only the highest-indexed. When element f fails its check, the elements below it are stored alike and
vstart is f. That elements have one target exactly when their targets are equal is the model's reading (log entry 59). -/
def Obligations.VectorStores : Prop :=
  ∀ (s : State) (r a b : Reg) (e k t : BitVec 2),
    let w := ewBits e
    let n := min s.cpu.vl.toNat (4096 / w)
    let act := (List.range n).filter (fun i => s.active k n i)
    let ends (j : Instr) (u : Use) (str : Stream) (every : Bool) (ea : Nat → Dword) : Prop :=
      let stores (l : List Nat) (g : Nat → Target) (t1 t2 : State) : Prop :=
        RunsAll (fun q i x => q.store str x (leBytes (w / 8) (velem w (s.rv r) i)) (w / 8)) t1
          ((l.filter (fun i => every || !(l.any (fun j => decide (i < j) && g j == g i)))).map (fun i => (i, ea i))) t2
      (∀ g t1 t2, ChecksAll .store (w / 8) str g s (act.map (fun i => (i, ea i))) t1 → stores act g t1 t2 →
        Completes j u s t2.vdone)
      ∧ (∀ g t1 t2 f x y, f ∈ act →
        let below := act.filter (fun i => decide (i < f))
        ChecksAll .store (w / 8) str g s (below.map (fun i => (i, ea i))) t1 →
        t1.checkOne .store (w / 8) str (ea f) = .error (.trap x y) → stores below g t1 t2 →
        Faults j u s { t2 with cpu := { t2.cpu with vstart := BitVec.ofNat 10 f } } x y)
    (let u : Use := { reads := vecReads k ++ [.v r] ++ [.x a], writes := [.vstart], st := t, flight := some .memory };
      Clear u s → ends (.vst r a e k t) u .unit false (fun i => wrap64 ((s.rx a).toNat + i * (w / 8) : Nat)))
    ∧ (let u : Use := { reads := vecReads k ++ [.v r] ++ [.x a, .x b], writes := [.vstart], st := t, flight := some .memory };
      Clear u s → ends (.vsts r a b e k t) u .gather false (fun i => wrap64 ((s.rx a).toNat + i * (s.rx b).toInt)))
    ∧ (let u : Use := { reads := vecReads k ++ [.v r] ++ [.x a, .v b], writes := [.vstart], st := t, flight := some .memory };
      let ea (i : Nat) : Dword := wrap64 ((s.rx a).toNat + velem w (s.rv b) i * (w / 8) : Nat)
      Clear u s → ends (.vstxO r a b e k t) u .gather true ea ∧ ends (.vstxU r a b e k t) u .gather false ea)

/-- R73, R195, R266, R271 to R274: what the operations make of two words of each width, and the fixed-point conversion of an FP32 value;
scatter-reduces apply each active element to the word at its address, in ascending index; vscadd.x
adds fixed-point numbers and skips what has none; vscadd.f rounds with key sbase + i and traps as ILLOP under stat.DET, and under a
stat.VRM of 6 or 7. When element f fails its check, those below it are performed and vstart is f (R269). -/
def Obligations.ScatterReduce : Prop :=
  (∀ (n old new : Nat), n ∈ [1, 2, 4, 8] → old < 2 ^ (8 * n) → new < 2 ^ (8 * n) →
    let w := 8 * n
    rmwInt .add n old new = (old + new) % 2 ^ w ∧ rmwInt .or n old new = old ||| new
      ∧ (rmwInt .min n old new < 2 ^ w ∧ signed w (rmwInt .min n old new) = min (signed w old) (signed w new))
      ∧ (rmwInt .max n old new < 2 ^ w ∧ signed w (rmwInt .max n old new) = max (signed w old) (signed w new)))
  ∧ (∀ (shift : Int) (e : Nat),
    let v := fp32.decode e
    (isNumber v = false → fixCvt shift e = (none, flagSK))
    ∧ (isNumber v = true → ∃ n : Nat, RoundsTo rne (realOf v < 0) (|realOf v| * (2 : ℝ) ^ shift) n ∧
      let y : Int := if v.isNeg then -n else n
      (y < -2 ^ 63 → fixCvt shift e = (some (2 ^ 63), flagXO)) ∧ (2 ^ 63 ≤ y → fixCvt shift e = (some (2 ^ 63 - 1), flagXO))
      ∧ (-2 ^ 63 ≤ y → y < 2 ^ 63 → fixCvt shift e = (some (wrap 64 y), 0))))
  ∧ ∀ (s : State) (r a b : Reg) (e k t : BitVec 2),
    let act (w : Nat) : List Nat := (List.range (min s.cpu.vl.toNat (4096 / w))).filter (fun i => s.active k (min s.cpu.vl.toNat (4096 / w)) i)
    let ea (w n i : Nat) : Nat × Dword := (i, wrap64 ((s.rx a).toNat + velem w (s.rv b) i * n : Nat))
    let x (w i : Nat) : Nat := velem w (s.rv r) i
    let runs (j : Instr) (u : Use) (w n : Nat) (one : State → Nat → Dword → Except Stop State) : Prop :=
      (∀ t', RunsAll one s ((act w).map (ea w n)) t' → Completes j u s t'.vdone)
      ∧ (∀ t' f c y, f ∈ act w → RunsAll one s (((act w).filter (fun i => decide (i < f))).map (ea w n)) t' →
        one t' f (ea w n f).2 = .error (.trap c y) →
        Faults j u s { t' with cpu := { t'.cpu with vstart := BitVec.ofNat 10 f } } c y)
    (let u : Use := { reads := vecReads k ++ [.v r, .x a, .v b], writes := [.vstart], st := t, flight := some .memory };
      let w := ewBits e
      let ends (j : Instr) (op : RmwOp) : Prop :=
        runs j u w (w / 8) (fun s' i p => s'.scatterElem { ea := p, op := op, n := w / 8, val := x w i, rnd := rne })
      Clear u s →
        ends (.vscaddI r a b e k t) .add ∧ ends (.vscmin r a b e k t) .min ∧ ends (.vscmax r a b e k t) .max
          ∧ ends (.vscor r a b e k t) .or)
    ∧ (let u : Use := { reads := vecReads k ++ [.v r, .x a, .v b] ++ [.fxs], writes := [.vstart], st := t, flight := some .memory };
      let fx (i : Nat) : Option Nat × BitVec 7 := fixCvt (signed 8 s.cpu.fxs.toNat) (x 32 i)
      let one (s' : State) (i : Nat) (p : Dword) : Except Stop State :=
        Except.map (fun (t : State) => t.addFlags (fx i).2)
          (match (fx i).1 with
            | some v => s'.scatterElem { ea := p, op := .add, n := 8, val := v, rnd := rne }
            | none => Except.map (fun (q : Target × State) => q.2) (s'.checkOne .scatter 8 .gather p))
      Clear u s → runs (.vscaddX r a b k t) u 32 8 one)
    ∧ (∀ c : BitVec 1,
      let n := if c = 0 then 4 else 8
      let u : Use :=
        { reads := vecReads k ++ [.v r, .x a, .v b] ++ [.vrm, .sbase, .seed], writes := [.vstart], st := t, flight := some .memory }
      Clear u s →
        (statDet s.cpu.stat = true ∨ 6 ≤ statVrm s.cpu.stat → Traps (.vscaddF r a b c k t) s causeIllop (s.cpu.ir.setWidth 64))
        ∧ (statDet s.cpu.stat = false → statVrm s.cpu.stat < 6 →
          runs (.vscaddF r a b c k t) u (8 * n) n (fun s' i p => s'.scatterElem
            { ea := p, op := .fadd, n := n, val := x (8 * n) i,
              rnd := { mode := statVrm s.cpu.stat, key := s.cpu.sbase + BitVec.ofNat 64 i, seed := s.cpu.seed } })))

/-! ## Control, repeat frames and regions -/

/-- R199 to R203, R205: branches, jumps with link, the table jump and the lane loop. -/
def Obligations.ControlTransfer : Prop :=
  ∀ (s : State) (d a b : Reg) (i : BitVec 16) (o : BitVec 13) (l : BitVec 21),
    let pc := s.cpu.pc
    let x := s.rx a
    let y := s.rx b
    (let u : Use := { reads := [.x a, .x b] };
      let br (j : Instr) (p : Prop) : Prop :=
        (p → Completes j u s (s.setPc (wrap64 (pc.toNat + o.toInt * 4))))
        ∧ (¬ p → Completes j u s (s.setPc (wrap64 (pc.toNat + 4))))
      Clear u s →
        br (.beq a b o) (x = y) ∧ br (.bne a b o) (x ≠ y) ∧ br (.blt a b o) (x.toInt < y.toInt)
        ∧ br (.bge a b o) (y.toInt ≤ x.toInt) ∧ br (.bltu a b o) (x.toNat < y.toNat) ∧ br (.bgeu a b o) (y.toNat ≤ x.toNat))
    ∧ (let u : Use := { writes := [.x d] };
      Clear u s → Completes (.jal d l) u s ((s.wx d (wrap64 (pc.toNat + 4))).setPc (wrap64 (pc.toNat + l.toInt * 4))))
    ∧ (let u : Use := { reads := [.x a], writes := [.x d] };
      let t := wrap64 (x.toNat + i.toInt)
      let next := (s.wx d (wrap64 (pc.toNat + 4))).setPc t
      Clear u s →
        (t.toNat % 4 ≠ 0 → Traps (.jalr d a i) s causeAlign t)
        ∧ (t.toNat % 4 = 0 → (∀ g, s.openRegion = some g → g.kind ≠ .loop) → Completes (.jalr d a i) u s next)
        ∧ (t.toNat % 4 = 0 → (∃ g, s.openRegion = some g ∧ g.kind = .loop) →
          Completes (.jalr d a i) u s { next with cpu := { next.cpu with final := true } }))
    ∧ (let u : Use := { reads := [.x d, .x a, .x b], flight := some .memory };
      Clear u s →
        ((s.rx d).toNat ≤ x.toNat → Completes (.jt d a b) u s (s.setPc (wrap64 (pc.toNat + 4))))
        ∧ (x.toNat < (s.rx d).toNat →
          let ea := wrap64 (y.toNat + 4 * x.toNat)
          (∀ e, s.load .gather ea 4 4 = .error e → TakesStop (.jt d a b) u s s e)
          ∧ (∀ bs t, s.load .gather ea 4 4 = .ok (bs, t) →
            let target := wrap64 (y.toNat + signed 32 (leNat bs))
            (target.toNat % 4 ≠ 0 → Faults (.jt d a b) u s t causeAlign target)
            ∧ (target.toNat % 4 = 0 → Completes (.jt d a b) u s (t.setPc target)))))
    ∧ (∀ (k : KIdx) (e : BitVec 2),
      let u : Use := { reads := [.v a, .k k, .vl], writes := [.v a, .k k] }
      let w := ewBits e
      let n := min s.cpu.vl.toNat (4096 / w)
      let c (j : Nat) : Nat := velem w (s.rv a) j
      let on (j : Nat) : Bool := decide (j < n) && (s.rk k).getLsbD j
      Clear u s → ∃ (v : VReg) (m : KReg) (p : Dword),
        (∀ j, j < 4096 / w → velem w v j = if on j then c j - 1 else c j)
        ∧ (∀ j, j < 512 → m.getLsbD j = if on j then decide (1 < c j) else (s.rk k).getLsbD j)
        ∧ ((∃ j, on j = true ∧ 1 < c j) → p = wrap64 (pc.toNat + o.toInt * 4))
        ∧ ((∀ j, on j = true → c j ≤ 1) → p = wrap64 (pc.toNat + 4))
        ∧ Completes (.vloop a k e o) u s (((s.wv a v).wk k m).setPc p))

/-- R207 to R210: a frame of n words run c times: it is fetched and checked whole, starts or resumes where rptst says, runs
its words in order and its runs in order with staggered registers, shown for five shapes of instruction, and ends after its last word
with rptst cleared. That opening the frame takes a turn of its own and each captured word a later one is the model's choice (log entry
72). -/
def Obligations.RepeatFrame : Prop :=
  ∀ (s : State) (sd sa sb : BitVec 2) (c : BitVec 8) (m : BitVec 4),
    let count := c.toNat + 1
    let n := m.toNat + 1
    let rpt : Instr := .rpt sd sa sb c m
    let act := s.cpu.rptst.getLsbD 16
    let run := bitsOf s.cpu.rptst.toNat 8 8
    let index := bitsOf s.cpu.rptst.toNat 4 4
    (s.cpu.frame = none → Clear {} s →
      (∀ w t, captureWords [] (s.cpu.pc + 4) s n = .illegal w t → exec rpt s = .next (t.raise causeIllop (w.setWidth 64)))
      ∧ (∀ x t, captureWords [] (s.cpu.pc + 4) s n = .fetch x t → exec rpt s = .next (t.raise causeFetch x))
      ∧ (∀ ws t, captureWords [] (s.cpu.pc + 4) s n = .ok ws t →
        (act = false → Completes rpt {} s { t with cpu := { t.cpu with frame := some { words := ws, run := 0, index := 0 } } })
        ∧ (act = true → run < count → index < n →
          Completes rpt {} s { t with cpu := { t.cpu with frame := some { words := ws, run := run, index := index } } })
        ∧ (act = true → count ≤ run ∨ n ≤ index → exec rpt s = .next (t.raise causeIllstate s.cpu.rptst))))
    ∧ (∀ (f : Frame) (j : Instr) (t : State), s.cpu.frame = some f → decodeCaptured (f.words.getD f.index 0) = .ok j →
      runCaptured (sd, sa, sb) f.run j { s with cpu := { s.cpu with ir := f.words.getD f.index 0 } } = .next t →
      t.cpu.frame.isSome = true → t.cpu.pc = s.cpu.pc + 4 →
      let go (p : Dword) (g : Option Frame) (v : Dword) : Prop :=
        exec rpt s = .next { t with cpu := { t.cpu with ir := s.cpu.ir, pc := p, frame := g, rptst := v } }
      (f.index + 1 < f.words.length → go s.cpu.pc (some { f with index := f.index + 1 }) t.cpu.rptst)
      ∧ (f.index + 1 ≥ f.words.length → f.run + 1 < count → go s.cpu.pc (some { f with run := f.run + 1, index := 0 }) t.cpu.rptst)
      ∧ (f.index + 1 ≥ f.words.length → f.run + 1 ≥ count →
        go (s.cpu.pc + BitVec.ofNat 64 (4 * (f.words.length + 1))) none 0))
    ∧ (∀ (e : BitVec 2) (d a b : Reg) (z : KIdx) (f k t : BitVec 2) (r : Nat),
      let step (q : BitVec 2) : Nat := if q = 0 then 0 else if q = 1 then 1 else if q = 2 then 2 else 4
      let st (q : BitVec 2) (g : Reg) : Reg := BitVec.ofNat 5 (g.toNat + r * step q)
      runCaptured (sd, sa, sb) r (.vadd e d a b f k t) s
          = exec (.vadd e (st sd d) (st sa a) (if f = 2 then b else st sb b) f k t) s
        ∧ runCaptured (sd, sa, sb) r (.vceq e z a b f k t) s
          = exec (.vceq e z (st sa a) (if f = 2 then b else st sb b) f k t) s
        ∧ runCaptured (sd, sa, sb) r (.vperm d a b e k t) s = exec (.vperm (st sd d) (st sa a) (st sb b) e k t) s
        ∧ runCaptured (sd, sa, sb) r (.vcompress d a z e t) s = exec (.vcompress (st sd d) (st sa a) z e t) s
        ∧ runCaptured (sd, sa, sb) r (.vmvxs d a e t) s = exec (.vmvxs (st sd d) (st sa a) e t) s)

/-- R211 to R214, R22 to R26: fork opens a loop region at the head and fcut a cut region, or both are ignored hints counted
in spec4, a fork among them whose word at the region's end cannot be fetched; an fcut in the youngest chunk of a cut region extends it,
and in a chunk that has younger ones it is ignored. A chunk that was squashed after its fcut has younger ones still: when it executes the
fcut that set its end again that is ignored, and another fcut sets the end anew, with the chunks beyond the old one discarded (R29); that
a squash leaves a successor in place is the model's reading (log entry 29). fwd sends listed registers of the mask;
fserial closes the region. -/
def Obligations.Regions : Prop :=
  ∀ (s : State) (d a b : Reg) (o : BitVec 13) (l : BitVec 21),
    let full := s.thr.cores = 1 ∧ 4 ≤ s.chunks.length + (s.thr.freeing.filter (fun f => f.1 == 0 && decide (s.cyc < f.2))).length
    let holds := s.isHead = true ∧ (s.cpu.bank.isSome = true ∨ s.cpu.loupe.isSome = true)
    (let u : Use := { reads := [.x a, .x b] };
      let last := wrap64 (s.cpu.pc.toNat + o.toInt * 4)
      Clear u s →
        (o.toInt ≤ 0 ∨ s.isHead = false ∨ s.thr.region.isSome = true ∨ holds ∨ full →
          Completes (.fork a b o) u s (s.spec 4 1).advance)
        ∧ (∀ e c x, 0 < o.toInt → s.isHead = true → s.thr.region = none → ¬ holds → ¬ full → s.fetchWord last = .error e →
          e = .trap c x ∨ (∃ pa k, e = .logged c x pa k) → Completes (.fork a b o) u s ((s.logStop e).spec 4 1).advance)
        ∧ (∀ w t, 0 < o.toInt → s.isHead = true → s.thr.region = none → ¬ holds → ¬ full → s.fetchWord last = .ok (w, t) →
          (backEdge w last (s.cpu.pc + 4) = false → Completes (.fork a b o) u s (t.spec 4 1).advance)
          ∧ (backEdge w last (s.cpu.pc + 4) = true → ∃ t' : State, Completes (.fork a b o) u s t'
            ∧ t'.thr.region = some { kind := .loop, first := t.cpu.pc + 4, last := last, mask := s.rx a &&& ~~~(1#64), grain := if s.rx b = 0 then 1 else min (s.rx b).toNat 65535, home := t.cpu.core, wrote := [], read := [] }
            ∧ t'.cpu.num = 0 ∧ t'.cpu.left = (if s.rx b = 0 then 1 else min (s.rx b).toNat 65535)
            ∧ t'.cpu.pc = t.cpu.pc + 4 ∧ t'.cpu.x = t.cpu.x ∧ t'.mem = t.mem)))
    ∧ (let u : Use := { reads := [.x d] };
      let label := wrap64 (s.cpu.pc.toNat + l.toInt * 4)
      Clear u s →
        (l.toInt ≤ 0 ∨ s.thr.susp = true ∨ holds ∨ (s.cpu.recut = false ∧ full) → Completes (.fcut d l) u s (s.spec 4 1).advance)
        ∧ (0 < l.toInt → s.thr.susp = false → ¬ holds → s.cpu.recut = true →
          let m := (s.cpu.mask ||| s.rx d) &&& ~~~(1#64)
          (s.cpu.cut = some (label, m) →
            Completes (.fcut d l) u s (State.spec { s with cpu := { s.cpu with recut := false } } 4 1).advance)
          ∧ (s.cpu.cut ≠ some (label, m) → s.isHead = true → ∃ t' : State, Completes (.fcut d l) u s t'
            ∧ t'.thr.region = some { kind := .cut, first := s.cpu.pc + 4, last := label, mask := s.rx d &&& ~~~(1#64), grain := 1, home := s.cpu.core, wrote := [], read := [] }
            ∧ t'.cpu.cut = some (label, s.rx d &&& ~~~(1#64)) ∧ t'.cpu.recut = false ∧ t'.cpu.num = 0 ∧ t'.younger = []
            ∧ t'.cpu.pc = s.cpu.pc + 4 ∧ t'.cpu.x = s.cpu.x ∧ t'.mem = s.mem)
          ∧ (∀ g, s.cpu.cut ≠ some (label, m) → s.isHead = false → s.thr.region = some g → g.kind = .cut →
            ∃ t' : State, Completes (.fcut d l) u s t' ∧ t'.cpu.recut = false ∧ t'.younger = []
              ∧ t'.cpu.num = s.cpu.num ∧ t'.cpu.pc = s.cpu.pc + 4 ∧ t'.cpu.x = s.cpu.x ∧ t'.mem = s.mem
              ∧ (s.cpu.wrote &&& ~~~m = 0#64 →
                t'.cpu.cut = some (label, m) ∧ t'.thr.region = some { g with last := label, mask := m })
              ∧ (s.cpu.wrote &&& ~~~m ≠ 0#64 → t'.cpu.cut = none)))
        ∧ (0 < l.toInt → s.thr.susp = false → ¬ holds → s.cpu.recut = false → ¬ full →
          (s.thr.region = none → s.isHead = false → Completes (.fcut d l) u s (s.spec 4 1).advance)
          ∧ (s.thr.region = none → s.isHead = true → ∃ t' : State, Completes (.fcut d l) u s t'
            ∧ t'.thr.region = some { kind := .cut, first := s.cpu.pc + 4, last := label, mask := s.rx d &&& ~~~(1#64), grain := 1, home := s.cpu.core, wrote := [], read := [] }
            ∧ t'.cpu.cut = some (label, s.rx d &&& ~~~(1#64)) ∧ t'.cpu.num = 0
            ∧ t'.cpu.pc = s.cpu.pc + 4 ∧ t'.cpu.x = s.cpu.x ∧ t'.mem = s.mem)
          ∧ (∀ g, s.thr.region = some g →
            let m := (s.cpu.mask ||| s.rx d) &&& ~~~(1#64)
            let may := g.kind = .cut ∧ s.younger = [] ∧ s.cpu.cut = none ∧ s.cpu.wrote &&& ~~~m = 0#64
            (may → ∃ t' : State, Completes (.fcut d l) u s t'
              ∧ t'.cpu.cut = some (label, m) ∧ t'.cpu.num = s.cpu.num ∧ t'.cpu.pc = s.cpu.pc + 4 ∧ t'.cpu.x = s.cpu.x ∧ t'.mem = s.mem
              ∧ t'.younger = [] ∧ t'.thr.region = some { g with last := label, mask := m })
            ∧ (¬ may → Completes (.fcut d l) u s (s.spec 4 1).advance))))
    ∧ (let u : Use := { reads := [.x a] };
      Clear u s →
        (s.openRegion = none → Completes (.fwd a) u s s.advance)
        ∧ (∀ m, s.sendMask = some m →
          Completes (.fwd a) u s (State.advance
            { s with cpu := s.cpu.send ((maskMembers (s.rx a &&& m)).filter (fun r => (maskBit r).isSome)) })))
    ∧ (Clear { held := true } s →
      (s.thr.region = none → Completes .fserial { held := true } s s.advance)
      ∧ (s.thr.region.isSome = true → ∃ t', Completes .fserial { held := true } s t'
        ∧ t'.thr.region = none ∧ t'.thr.susp = false ∧ t'.younger = [] ∧ t'.cpu.pc = s.cpu.pc + 4 ∧ t'.cpu.x = s.cpu.x
        ∧ t'.mem = s.mem))

/-! ## Synchronisation and messages -/

/-- R132, R215, R216, R218: fences, and waiting for a word; a word that cannot be read yet keeps waitw parked, and one that cannot be
read at all raises its fault. -/
def Obligations.FenceAndWait : Prop :=
  ∀ (s : State),
    (∀ (scope : BitVec 2) (bl bs e : BitVec 1),
      let u : Use := { held := true, again := some .fence }
      let fault := oldestFault s.thr.cmds (fun _ => true)
      let busy := e = 1 ∧ s.thr.cmds.any (fun c => c.committed && !c.done) = true
      let open_ := bs = 1 ∧ s.thr.unacked ≠ 0
      Clear u s →
        (∀ c, e = 1 → fault = some c → Traps (.fence scope bl bs e) s causeEngfault c.ticket)
        ∧ (e = 0 ∨ fault = none →
          (busy ∨ open_ → Waits (.fence scope bl bs e) u s (s.parkAs .fence 0 0 0 e.toNat))
          ∧ (¬ busy → ¬ open_ → ∀ r q : State, (if bs = 1 then s.release scope.toNat = .ok r else r = s) →
            (if bl = 1 then r.acquire scope.toNat = .ok q else q = r) → Completes (.fence scope bl bs e) u s q.advance)))
    ∧ (∀ (d a b : Reg) (c : BitVec 2) (z : BitVec 1),
      let u : Use := { held := true, reads := [.x a, .x b], writes := [.x d] }
      let n := if z = 0 then 4 else 8
      let y := (s.rx b).toNat % 2 ^ (8 * n)
      let met (v : Nat) : Prop := if c = 0 then v = y else if c = 1 then v ≠ y else if c = 2 then v < y else y ≤ v
      let parked (t : State) : State := t.parkAs .waitw d (s.rx a) (s.rx b) (c.toNat * 16 + n)
      Clear u s →
        ((s.rx a).toNat % n ≠ 0 → Traps (.waitw d a b c z) s causeAlign (s.rx a))
        ∧ (∀ k x, s.waitRead (s.rx a) n = .error (.trap k x) → Faults (.waitw d a b c z) u s s k x)
        ∧ (s.waitRead (s.rx a) n = .error .wait → Waits (.waitw d a b c z) u s (parked s))
        ∧ (∀ q, s.waitRead (s.rx a) n = .error (.queue q) → Waits (.waitw d a b c z) u s (parked (s.queueUp q)))
        ∧ (∀ v t, s.waitRead (s.rx a) n = .ok (v, t) →
          (met v → ∀ r, t.acquire 3 = .ok r → Completes (.waitw d a b c z) u s (r.wx d 0).advance)
          ∧ (¬ met v → t.limitPassed t.thr.wtime = true → Completes (.waitw d a b c z) u s (t.wx d 1).advance)
          ∧ (¬ met v → t.limitPassed t.thr.wtime = false →
            Waits (.waitw d a b c z) u s (parked t))))

/-- R219 to R222: joining and leaving a group, and arriving at its barrier: a join adds the thread to the member set and makes its ASID
the owner's, a leave takes it out of both sets and may complete the instance; the last arrival completes the instance, and a
parked gbar then returns 0 after an acquire at scope PKG. -/
def Obligations.Groups : Prop :=
  ∀ (s : State) (d a b : Reg),
    let id := (s.rx a).toNat
    let me := (s.thr.lid, s.thr.tix)
    let g := s.host.groups.find? (fun g => g.id == id)
    let member := ∃ x, g = some x ∧ me ∈ x.members
    let set (gs : List Group) : State := { s with host := { s.host with groups := gs } }
    (let u : Use := { held := true, reads := [.x a], writes := [.x d] };
      Clear u s →
        (64 ≤ id → Completes (.gjoin d a) u s (s.wx d 2).advance ∧ Completes (.gleave d a) u s (s.wx d 2).advance)
        ∧ (id < 64 →
          (member → Completes (.gjoin d a) u s (s.wx d 1).advance)
          ∧ (∀ x, g = some x → x.members ≠ [] → me ∉ x.members → x.asid ≠ s.thr.asid →
            Completes (.gjoin d a) u s (s.wx d 3).advance)
          ∧ (g = none → Completes (.gjoin d a) u s
            ((set (s.host.groups ++ [{ id := id, asid := s.thr.asid, members := [me], arrived := [], limits := [], release := [] }])).wx d 0).advance)
          ∧ (∀ x, g = some x → me ∉ x.members → x.members = [] ∨ x.asid = s.thr.asid →
            Completes (.gjoin d a) u s ((set (groupJoin s.host.groups id s.thr.asid me)).wx d 0).advance)
          ∧ (¬ member → Completes (.gleave d a) u s (s.wx d 1).advance)
          ∧ (member → Completes (.gleave d a) u s ((set (groupLeave s.cyc s.host.groups id me)).wx d 0).advance)))
    ∧ (∀ x, g = some x → (s.host.groups.map (fun y => y.id)).Nodup →
      (me ∉ x.members → x.members = [] ∨ x.asid = s.thr.asid → ∀ y, y ∈ groupJoin s.host.groups id s.thr.asid me ↔
        (y ∈ s.host.groups ∧ y.id ≠ id) ∨ y = { x with asid := s.thr.asid, members := x.members ++ [me] })
      ∧ (me ∈ x.members →
        let z := Group.settle s.cyc { x with members := x.members.filter (fun m => m != me), arrived := x.arrived.filter (fun m => m != me) }
        ∀ y, y ∈ groupLeave s.cyc s.host.groups id me ↔
          ((y ∈ s.host.groups ∧ y.id ≠ id) ∨ y = z) ∧ ¬ (y.members = [] ∧ y.release = [])))
    ∧ (∀ (x : Group) (cyc : Nat),
      let late (q : Nat × Nat) : Prop := ∃ k, (q, k) ∈ x.limits ∧ k < cyc
      let complete := x.members ≠ [] ∧ ∀ q, q ∈ x.members → q ∈ x.arrived ∧ ¬ late q
      (complete → x.settle cyc = { x with arrived := [], limits := [], release := x.release ++ x.members })
      ∧ (¬ complete → ∃ l, x.settle cyc = { x with arrived := l } ∧ ∀ q, q ∈ l ↔ q ∈ x.arrived ∧ ¬ late q))
    ∧ (let u : Use := { held := true, reads := [.x a, .x b], writes := [.x d] };
      Clear u s →
        (64 ≤ id ∨ ¬ member → Completes (.gbar d a b) u s (s.wx d 2).advance)
        ∧ (id < 64 → member → ∀ r, s.release 2 = .ok r → Waits (.gbar d a b) u s (State.parkAs
            { r with host := { r.host with groups := groupArrive r.cyc r.host.groups id me (if s.rx b = 0 then none else some (s.cyc + (s.rx b).toNat)) } }
            .gbar d (s.rx a) (s.rx b) id)))
    ∧ (∀ (p : Park) (n : Nat) (r : State), s.cpu.park = some p → p.kind = .gbar → p.c = n →
      (groupReleased s.host.groups n me = true → (set (groupReturn s.host.groups n me)).acquire 2 = .ok r →
        Gives (.gbarComplete n) s (r.finishParked p.d 0))
      ∧ (groupReleased s.host.groups n me = false → s.limitPassed p.b = true →
        (set (groupWithdraw s.host.groups n me)).acquire 2 = .ok r → Gives .gbarTimeout s (r.finishParked p.d 1)))
    ∧ (∀ (x : Group) (n cyc : Nat) (m : Nat × Nat) (lim : Option Nat), x ∈ s.host.groups → x.id = n → x.members ≠ [] →
      let y : Group := { x with arrived := addNew m x.arrived, limits := x.limits.filter (fun q => q.1 != m) ++ (lim.map (fun k => (m, k))).toList }
      let late (q : Nat × Nat) : Prop := ∃ k, (q, k) ∈ y.limits ∧ k < cyc
      y.settle cyc ∈ groupArrive cyc s.host.groups n m lim
        ∧ ((∀ q, q ∈ x.members → (q = m ∨ q ∈ x.arrived) ∧ ¬ late q) →
          (y.settle cyc).arrived = [] ∧ (y.settle cyc).release = x.release ++ x.members)
        ∧ ((∃ q, q ∈ x.members ∧ (late q ∨ (q ≠ m ∧ q ∉ x.arrived))) → (y.settle cyc).release = x.release
          ∧ ∀ q, q ∈ (y.settle cyc).arrived ↔ (q = m ∨ q ∈ x.arrived) ∧ ¬ late q))

/-- R225 to R227, R230, R231: the statuses of msend: delivered, parked in the lowest free entry of the sender's parking region, FULL, no such
endpoint, too long, a bad record and no mailbox, to an endpoint of this package; to another package one of the same, which its message
unit answers freely (log entry 14), but never delivered past an earlier parked message of the channel; and what mrecv and mcount
return. The zeros of a parking entry's bytes 40 to 63 are the model's choice (log entry 87). -/
def Obligations.Messages : Prop :=
  (∀ (s : State) (r : MsgRecord) (bs pay : List Byte),
    let base := parkBase s.thr.parkr
    let entry := leBytes 8 1 ++ bs ++ List.replicate 24 0 ++ pay
    (parkEn s.thr.parkr = false → s.parkMessage r bs pay = .ok (false, s))
    ∧ (∀ h t, parkEn s.thr.parkr = true → s.loadVa .gather base 64 = .ok (h, t) →
      (∀ t', t.freeEntry base (min (field h 0 2) 64) 0 = .ok (none, t') → s.parkMessage r bs pay = .ok (false, t'))
      ∧ (∀ i t' q, t.freeEntry base (min (field h 0 2) 64) 0 = .ok (some i, t') →
        t'.storePieces .gather entry (pieces (entry.length + 1) (base + 64 + 4160 * i) entry.length) = .ok q →
        s.parkMessage r bs pay = .ok (true, { q with host := { q.host with parked := q.host.parked
          ++ [{ lid := q.thr.lid, tix := q.thr.tix, entry := i, pkg := r.pkg, ep := r.ep, mbox := r.mbox, ch := r.ch }] } })))
    ∧ (∀ i, s.freeEntry base 0 i = .ok (none, s))
    ∧ (∀ n i b t, s.loadVa .gather (base + 64 + 4160 * i) 8 = .ok (b, t) →
      let stray := leNat b ≠ 2 ∧ ∀ p, p ∈ t.host.parked → p.lid = t.thr.lid → p.tix = t.thr.tix → p.entry ≠ i
      (leNat b = 0 → s.freeEntry base (n + 1) i = .ok (some i, t))
      ∧ (leNat b ≠ 0 → ¬ stray → s.freeEntry base (n + 1) i = t.freeEntry base n (i + 1))
      ∧ (leNat b ≠ 0 → stray → s.freeEntry base (n + 1) i = (t.breach t.thr.asid).freeEntry base n (i + 1))))
  ∧ ∀ (s : State) (d a b : Reg),
    (let u : Use := { held := true, reads := [.x a], writes := [.x d] };
      let ends (t : State) (n : Nat) : Prop := Completes (.msend d a) u s (t.wx d (BitVec.ofNat 64 n)).advance
      Clear u s →
        ((s.rx a).toNat % 32 ≠ 0 → Traps (.msend d a) s causeAlign (s.rx a))
        ∧ (∀ e, s.readRecord (s.rx a) 32 32 = .error e → TakesStop (.msend d a) u s s e)
        ∧ (∀ bs q, s.readRecord (s.rx a) 32 32 = .ok bs → s.release 3 = .ok q →
          let r := MsgRecord.ofBytes bs
          let pkg := field bs 0 2
          let ep := field bs 2 1
          let box := field bs 3 1 % 4
          let ch := field bs 3 1 / 4 % 4
          let len := field bs 4 2
          let zBad := 1024 ≤ pkg ∨ 16 ≤ field bs 3 1 ∨ field bs 6 2 ≠ 0 ∨ field bs 24 8 ≠ 0
          let ahead (t : State) : Prop :=
            ∃ p, p ∈ t.host.parked ∧ p.lid = t.thr.lid ∧ p.tix = t.thr.tix ∧ p.pkg = pkg ∧ p.ep = ep ∧ p.mbox = box ∧ p.ch = ch
          (lsWindow (field bs 8 8) len = none → ends q 5)
          ∧ (∀ w, lsWindow (field bs 8 8) len = some w →
            (zBad → ends q 5)
            ∧ (¬ zBad → pkg ≠ q.plat.pkid.toNat → (∀ p, p ∈ q.plat.pod → p.1 ≠ pkg) → ends q 3)
            ∧ (∀ p o, ¬ zBad → pkg ≠ q.plat.pkid.toNat → p ∈ q.plat.pod → p.1 = pkg →
              q.parkMessage r bs (q.lsSeen w len) = .ok o →
              ∃ t n, ends t n ∧ n ∈ [0, 1, 2, 3, 4, 6] ∧ (n = 0 → len ≤ 4096 ∧ ¬ ahead q) ∧ (n = 1 → o = (true, t) ∧ len ≤ 4096)
                ∧ (n = 2 → o = (false, t) ∧ len ≤ 4096) ∧ (n ≠ 1 → n ≠ 2 → t.host.parked = q.host.parked))
            ∧ (¬ zBad → pkg = q.plat.pkid.toNat →
              (q.endpoint ep = none → ends q 3)
              ∧ (∀ e k x va, q.endpoint ep = some e → q.mailbox e box = .error (.trap k x, va) →
                ends (q.abandon q.thr.lid q.thr.tix e.asid (.trap k x) va) 3)
              ∧ (∀ e m t, q.endpoint ep = some e → q.mailbox e box = .ok (m, t) →
                (m.cap = 0 → ends t 6)
                ∧ (m.cap ≠ 0 → 4096 < len ∨ m.slotsz < len → ends t 4)
                ∧ (∀ t', m.cap ≠ 0 → len ≤ 4096 → len ≤ m.slotsz → m.waiting ≠ m.cap → ¬ ahead t →
                  t.deliver e box m t.plat.pkid.toNat (sourceEp t.thr.mbase) ch (field64 bs 16) (q.lsSeen w len) = .ok t' →
                  ends t' 0)
                ∧ (m.cap ≠ 0 → len ≤ 4096 → len ≤ m.slotsz → m.waiting = m.cap ∨ ahead t →
                  ∀ put v, t.parkMessage r bs (q.lsSeen w len) = .ok (put, v) → ends v (if put = true then 1 else 2)))))))
    ∧ (let u : Use := { held := true, reads := [.x a, .x b], writes := [.x d] };
      Clear u s →
        (∀ e, s.thr.mbase.getLsbD 63 = false → s.lsDestination (s.rx b) 64 = .error e → TakesStop (.mrecv d a b) u s s e)
        ∧ (∀ e, s.thr.mbase.getLsbD 63 = true → s.ownMailbox (s.rx a) = .error e → TakesStop (.mrecv d a b) u s s e)
        ∧ (s.thr.mbase.getLsbD 63 = false → ∀ l, s.lsDestination (s.rx b) 64 = .ok l →
          Completes (.mrecv d a b) u s (s.wx d (BitVec.allOnes 64)).advance)
        ∧ (s.thr.mbase.getLsbD 63 = true → ∀ m t l, s.ownMailbox (s.rx a) = .ok (m, t) →
          s.lsDestination (s.rx b) (64 + m.slotsz) = .ok l →
          (m.cap = 0 ∨ m.count = m.taken → Completes (.mrecv d a b) u s (t.wx d (BitVec.allOnes 64)).advance)
          ∧ (∀ h s1 p s2 s3 s3' s4, m.cap ≠ 0 → m.count ≠ m.taken → t.loadVa .gather (m.slot m.taken) 64 = .ok (h, s1) →
            s1.loadPieces .gather (pieces (field h 4 2 + 1) (m.slot m.taken + 64) (field h 4 2)) = .ok (p, s2) →
            s2.storeVa .gather (descriptorVa (mbaseBase t.thr.mbase) ((s.rx a).toNat % 4) + 8) (leBytes 8 (m.taken + 1)) = .ok s3 →
            s3.lsStore l ((h ++ p).take (64 + m.slotsz)) = .ok s3' → s3'.acquire 3 = .ok s4 →
            Completes (.mrecv d a b) u s (s4.wx d (BitVec.ofNat 64 (field h 4 2))).advance)))
    ∧ (let u : Use := { reads := [.x a], writes := [.x d] };
      Clear u s →
        (s.thr.mbase.getLsbD 63 = false → WritesX (.mcount d a) u d s 0)
        ∧ (s.thr.mbase.getLsbD 63 = true → ∀ bs t,
          s.loadVa .gather (descriptorVa (mbaseBase s.thr.mbase) ((s.rx a).toNat % 4)) 16 = .ok (bs, t) →
          Completes (.mcount d a) u s (t.wx d (field64 bs 0 - field64 bs 8)).advance))

/-! ## Threads, status registers and traps -/

/-- R232 to R234, R343, R362: spawn answers the new launch's id, or all ones when the launch table is full, or traps; rexit
ends the thread once its stores and commands are done; yield and halt give the ring back, and a yield that cannot do so yet leaves the ring
before any further instruction (R328, R405). That one at its chunk's end waits until that chunk has committed is the model's choice (log
entry 3), and so are the zeros of the event record of halt (log entry 48). -/
def Obligations.ThreadInstructions : Prop :=
  ∀ (s : State) (d a : Reg),
    (let u : Use := { held := true, reads := [.x a], writes := [.x d] };
      Clear u s →
        ((s.rx a).toNat % 64 ≠ 0 → Traps (.spawn d a) s causeAlign (s.rx a))
        ∧ (∀ bs, s.readRecord (s.rx a) 256 64 = .ok bs →
          let r : LaunchRec := { bytes := bs }
          let asks := (field64 bs 0x28).getLsbD 0 = true ∨ field64 bs 0x40 ≠ 0
          (s.smode = false → asks → Traps (.spawn d a) s causePriv (s.cpu.ir.setWidth 64))
          ∧ ((s.smode = true ∨ ¬ asks) → ∀ q, s.release 3 = .ok q →
            (4096 ≤ q.host.launches.length → Completes (.spawn d a) u s (q.wx d (BitVec.allOnes 64)).advance)
            ∧ (∀ off, q.host.launches.length < 4096 → q.badRec r [q.thr.asid] none = some off →
              Faults (.spawn d a) u s q causeIllstate (BitVec.ofNat 64 off))
            ∧ (∀ code detail t, q.host.launches.length < 4096 → q.badRec r [q.thr.asid] none = none →
              q.admitLaunch (q.spawnAdmit r) = .error (.fail code detail t) →
              Faults (.spawn d a) u s t causeIllstate (spawnInfo code detail))
            ∧ (∀ lid t, q.host.launches.length < 4096 → q.badRec r [q.thr.asid] none = none →
              q.admitLaunch (q.spawnAdmit r) = .ok (lid, t) →
              Completes (.spawn d a) u s
                (State.advance (State.wx { t with thr := { t.thr with spawns := t.thr.spawns + 1 } } d (BitVec.ofNat 64 lid)))))))
    ∧ (let u : Use := { held := true, reads := [.x a] };
      let q := if s.thr.region.isSome then s.closeRegion else s
      Clear u s →
        (∀ c, oldestFault q.thr.cmds (fun _ => true) = some c → Faults (.rexit a) u s q causeEngfault c.ticket)
        ∧ (oldestFault q.thr.cmds (fun _ => true) = none →
          (q.copyBusy = true ∨ q.thr.unacked ≠ 0 → Waits (.rexit a) u s q)
          ∧ (∀ r, q.copyBusy = false → q.thr.unacked = 0 → q.fenced 3 true true = .ok r →
            Gives (.rexit a) s (r.exitThread ((s.rx a).toNat % 2 ^ 32)))))
    ∧ (let u : Use := { held := true, writes := [.x d] };
      let q := s.squashYounger
      let ready := q.saved.any (fun v => v.thr.st == .ready && q.quotaOk v.thr.lid && q.permits v.thr q.ring
        && decide (q.prioOf q.thr.lid ≤ q.prioOf v.thr.lid))
      Clear u s →
        (ready = false → Completes (.yield d) u s (q.wx d 0).advance)
        ∧ (ready = true →
          let t := (q.wx d 1).advance
          let e := (t.noteWrites [.x d]).settle s.cpu.pc
          let later : Prop := Completes (.yield d) u s { t with thr := { t.thr with leaving := true } }
          (e.cpu.ended = true ∨ e.canSave = false → later)
          ∧ (∀ x, e.cpu.ended = false → e.canSave = true → e.saveThread .ready = .error x → later)
          ∧ (∀ t, e.cpu.ended = false → e.canSave = true → e.saveThread .ready = .ok t →
            Gives (.yield d) s t ∧ t.live = false ∧ ∃ v, v ∈ t.saved ∧ v.thr.lid = s.thr.lid ∧ v.thr.tix = s.thr.tix
              ∧ v.thr.st = .ready ∧ v.head.x = (q.wx d 1).cpu.x)))
    ∧ (let u : Use := { held := true, reads := [.x a] };
      Clear u s →
        (s.smode = false → Traps (.halt a) s causePriv (s.cpu.ir.setWidth 64))
        ∧ (∀ t, s.smode = true → s.dropSuspended.advance.haltThread (fun q =>
            eventRecord q 2 (s.launchTag s.thr.lid).1 s.thr.lid s.thr.tix ((s.rx a).toNat % 2 ^ 32) 0 0 0 (s.launchTag s.thr.lid).2)
            = .ok t → Gives (.halt a) s t))

/-- R151, R322, R336: reading, writing and exchanging a status register: an unassigned number, and a write of a register
that the mode may only read, raise ILLOP; an S register, or a change of an S field of stat, raises PRIV in U mode. -/
def Obligations.StatusRegisterAccess : Prop :=
  ∀ (s : State) (d a : Reg) (n : BitVec 10),
    let z := n.toNat
    let x := s.rx a
    let known := z ≤ 0x16 ∨ z ∈ [0x18, 0x19, 0x1A] ∨ (0x20 ≤ z ∧ z ≤ 0x27) ∨ z ∈ [0x30, 0x31, 0x40] ∨ (0x50 ≤ z ∧ z ≤ 0x56)
    let onlyS := (1 ≤ z ∧ z ≤ 6) ∨ z ∈ [0x15, 0x16, 0x19, 0x1A, 0x30, 0x31]
    let fixed := (s.smode = false ∧ z ∈ [0x08, 0x0F]) ∨ (0x10 ≤ z ∧ z ≤ 0x14) ∨ z ∈ [0x16, 0x18, 0x40] ∨ (0x20 ≤ z ∧ z ≤ 0x27) ∨ 0x50 ≤ z
    let statS := z = 0 ∧ s.smode = false ∧ (x ^^^ s.cpu.stat) &&& 0xB#64 ≠ 0
    let word := s.cpu.ir.setWidth 64
    (let u : Use := { held := true, writes := [.x d] };
      Clear u s →
        (¬ known → Traps (.sregR d n) s causeIllop word)
        ∧ (known → onlyS → s.smode = false → Traps (.sregR d n) s causePriv word)
        ∧ (known → ¬ (onlyS ∧ s.smode = false) → Completes (.sregR d n) u s (s.wx d (s.readSreg z)).advance))
    ∧ (∀ (j : Instr) (u : Use) (t : State),
      (j = .sregW a n ∧ u = { held := true, reads := [.x a], writes := sregWrites z } ∧ t = (s.setSreg z x).advance)
        ∨ (j = .sregX d a n ∧ u = { held := true, reads := [.x a], writes := .x d :: sregWrites z }
          ∧ t = ((s.setSreg z x).wx d (s.readSreg z)).advance) →
      Clear u s →
        (¬ known → Traps j s causeIllop word)
        ∧ (known → onlyS → s.smode = false → Traps j s causePriv word)
        ∧ (known → ¬ (onlyS ∧ s.smode = false) → fixed → Traps j s causeIllop word)
        ∧ (known → ¬ (onlyS ∧ s.smode = false) → ¬ fixed → statS → Traps j s causePriv word)
        ∧ (known → ¬ (onlyS ∧ s.smode = false) → ¬ fixed → ¬ statS → Completes j u s t))

/-- R42, R79, R91, R149, R150, R223, R335, R336: what writing a status register leaves: the register reads as written, its
Z bits as zero; writes of fflags, asid and pgroot squash the younger chunks; a new address space reaches fetch later, as the model
chooses (log entry 18). That a binding keeps the page-table root of its mbase write is the model's choice (log entry 89). -/
def Obligations.StatusRegisterEffects : Prop :=
  ∀ (s : State) (v : Dword),
    (s.setSreg 0x000 v).readSreg 0x000 = v &&& 0x77F
    ∧ (∀ n, n ∈ [0x001, 0x002, 0x004, 0x006, 0x00A, 0x00B, 0x00D, 0x015] → (s.setSreg n v).readSreg n = v)
    ∧ (s.setSreg 0x003 v).readSreg 0x003 = v &&& 0xFF
    ∧ (s.setSreg 0x005 v).readSreg 0x005 = v &&& ~~~3#64
    ∧ (s.setSreg 0x007 v).readSreg 0x007 = v &&& 0x7F
    ∧ (s.setSreg 0x008 v).readSreg 0x008 = v &&& 0x3FF
    ∧ (s.setSreg 0x009 v).readSreg 0x009 = v &&& 0x3FF
    ∧ (s.setSreg 0x00C v).readSreg 0x00C = v &&& 0xFF
    ∧ (s.setSreg 0x00E v).readSreg 0x00E = v &&& 0x1FFF0
    ∧ (s.setSreg 0x00F v).readSreg 0x00F = v &&& 3
    ∧ (s.setSreg 0x019 v).readSreg 0x019 = v &&& 0xFFF
    ∧ (s.setSreg 0x01A v).readSreg 0x01A = v &&& 0x000FFFFFFFFF0000
    ∧ (s.setSreg 0x031 v).readSreg 0x031 = v &&& 0x81FFFFFFFFFFFFC0
    ∧ s.readSreg 0x010 = BitVec.ofNat 64 s.ring ∧ s.readSreg 0x011 = s.plat.pkid.setWidth 64
    ∧ s.readSreg 0x014 = BitVec.ofNat 64 s.cyc ∧ s.readSreg 0x018 = 0x6656
    ∧ (∀ n, n ∈ [0x007, 0x019, 0x01A] → ∀ c, c ∈ (s.setSreg n v).younger → c.squashed = true)
    ∧ (s.setSreg 0x019 v).thr.fetchOld = { s.thr.fetchOld with asid := addNew s.thr.asid s.thr.fetchOld.asid }
    ∧ (s.setSreg 0x01A v).thr.fetchOld = { s.thr.fetchOld with root := addNew s.thr.pgroot s.thr.fetchOld.root }
    ∧ (∀ n : BitVec 10, n ∈ [0x019#10, 0x01A#10] →
      State.reset.readSreg n.toNat = 0 ∧ (s.setSreg n.toNat v).coh = s.coh ∧ (s.setSreg n.toNat v).mem = s.mem
      ∧ (s.smode = false → ∀ (d a : Reg),
        (Clear { held := true, writes := [.x d] } s → Traps (.sregR d n) s causePriv (s.cpu.ir.setWidth 64))
        ∧ (Clear { held := true, reads := [.x a], writes := sregWrites n.toNat } s →
          Traps (.sregW a n) s causePriv (s.cpu.ir.setWidth 64))
        ∧ (Clear { held := true, reads := [.x a], writes := .x d :: sregWrites n.toNat } s →
          Traps (.sregX d a n) s causePriv (s.cpu.ir.setWidth 64))))
    ∧ (v.getLsbD 63 = true →
      (s.setSreg 0x030 v).endpoint (v.toNat % 256) = some { ep := v.toNat % 256, lid := s.thr.lid, tix := s.thr.tix, asid := s.thr.asid, root := s.thr.pgroot, base := v &&& 0x01FFFFFFFFFFFF00 })
    ∧ (v.getLsbD 63 = false → ∀ e, e ∈ (s.setSreg 0x030 v).host.endpoints → ¬ (e.lid = s.thr.lid ∧ e.tix = s.thr.tix))

/-- R21, R42, R44, R210, R322, R326, R327, R337, R338: a fault of the head: tsave, tloc, tcause and tinfo are written, stat.MODE
becomes 1 and IE 0, pc becomes tvec, an open region is suspended and its younger chunks discarded (the descriptor of a cut region
then names the head's own end), a frame's place goes to rptst, a claimed bank gives up its lease; every other register, the claim, the
Loupe's binding and counters, and memory stay. A fault in a speculative chunk
is only recorded. scall and brk complete by that entry, with the next instruction's address and their code; tret completes with
stat, pc and a suspended region brought back, and squashes younger chunks when it changes what they copied of stat. -/
def Obligations.TrapsAndReturns : Prop :=
  (∀ (s : State) (c : Byte) (x : Dword),
      (s.isHead = true →
        let t := s.raise c x
        t.thr.tsave = s.cpu.stat ∧ t.thr.tloc = s.cpu.pc &&& ~~~3#64 ∧ t.thr.tcause = c.setWidth 64 ∧ t.thr.tinfo = x
        ∧ t.cpu.pc = s.thr.tvec
        ∧ (∀ i, i < 64 → t.cpu.stat.getLsbD i = if i = 0 then true else if i = 1 then false else s.cpu.stat.getLsbD i)
        ∧ t.thr.susp = s.thr.region.isSome ∧ t.younger = []
        ∧ (s.younger = [] ∨ (∀ g, s.thr.region = some g → g.kind = .loop) → t.thr.region = s.thr.region)
        ∧ (∀ g, s.younger ≠ [] → s.thr.region = some g → g.kind = .cut →
          let e := if s.cpu.recut = true then (s.cpu.start, s.cpu.mask) else s.cpu.cut.getD (s.cpu.start, s.cpu.mask)
          t.thr.region = some { g with last := e.1, mask := e.2 })
        ∧ t.cpu.x = s.cpu.x ∧ t.cpu.v = s.cpu.v ∧ t.cpu.vdead = s.cpu.vdead ∧ t.cpu.k = s.cpu.k ∧ t.cpu.fflags = s.cpu.fflags
        ∧ t.cpu.vl = s.cpu.vl ∧ t.cpu.vew = s.cpu.vew ∧ t.cpu.vstart = s.cpu.vstart ∧ t.cpu.seed = s.cpu.seed
        ∧ t.cpu.sbase = s.cpu.sbase ∧ t.cpu.fxs = s.cpu.fxs ∧ t.cpu.ls = s.cpu.ls ∧ t.thr.shared = s.thr.shared
        ∧ t.mem = s.mem ∧ t.coh = s.coh ∧ t.host = s.host ∧ t.plat = s.plat ∧ t.others = s.others ∧ t.saved = s.saved
        ∧ t.thr.tvec = s.thr.tvec ∧ t.thr.tscr = s.thr.tscr ∧ t.thr.asid = s.thr.asid ∧ t.thr.pgroot = s.thr.pgroot
        ∧ t.thr.sg = s.thr.sg ∧ t.thr.mbase = s.thr.mbase ∧ t.thr.parkr = s.thr.parkr ∧ t.thr.wtime = s.thr.wtime
        ∧ t.thr.tmcmp = s.thr.tmcmp ∧ t.thr.hostirq = s.thr.hostirq ∧ t.thr.fflags = s.thr.fflags ∧ t.thr.spec = s.thr.spec
        ∧ t.thr.lcnt = s.thr.lcnt ∧ t.thr.lid = s.thr.lid ∧ t.thr.tix = s.thr.tix ∧ t.thr.cores = s.thr.cores ∧ t.ring = s.ring
        ∧ t.cyc = s.cyc ∧ t.cpu.bank = s.cpu.bank.map (fun (b : Bank) => { b with lease := none }) ∧ t.cpu.loupe = s.cpu.loupe
        ∧ t.cpu.lcnt = s.cpu.lcnt
        ∧ (s.cpu.frame = none → t.cpu.rptst = s.cpu.rptst)
        ∧ (∀ f, s.cpu.frame = some f → f.run < 256 → f.index < 16 → t.cpu.frame = none ∧ rptAct t.cpu.rptst = true
          ∧ rptReplay t.cpu.rptst = f.run ∧ rptIndex t.cpu.rptst = f.index))
      ∧ (s.isHead = false → s.cpu.frame = none →
        s.raise c x = { s with cpu := { s.cpu with trap := some { cause := c, loc := s.cpu.pc, info := x }, held := [] } }))
  ∧ (∀ (s : State) (n : BitVec 10),
      (Clear { held := true } s →
        let enters (j : Instr) (c : Byte) : Prop :=
          Completes j { held := true } s (s.raiseAt c (s.cpu.pc + 4) (n.setWidth 64))
          ∧ ∃ t, Gives j s t ∧ t.thr.tcause = c.setWidth 64 ∧ t.thr.tinfo = n.setWidth 64
            ∧ t.thr.tloc = (s.cpu.pc + 4) &&& ~~~3#64 ∧ t.thr.tsave = s.cpu.stat ∧ t.cpu.pc = s.thr.tvec
            ∧ t.cpu.stat.getLsbD 0 = true ∧ t.cpu.stat.getLsbD 1 = false ∧ t.thr.susp = s.thr.region.isSome ∧ t.younger = []
            ∧ t.cpu.x = s.cpu.x ∧ t.cpu.v = s.cpu.v ∧ t.cpu.k = s.cpu.k ∧ t.mem = s.mem
        enters (.scall n) 0x14 ∧ enters (.brk n) 0x15)
      ∧ (let u : Use := { held := true, writes := [.frm, .vrm] };
        Clear u s →
          (s.smode = false → Traps .tret s causeIllop (s.cpu.ir.setWidth 64))
          ∧ (s.smode = true →
            (s.thr.tsave &&& ~~~(0x77F#64) ≠ 0 → Traps .tret s causeIllstate s.thr.tsave)
            ∧ (s.thr.tsave &&& ~~~(0x77F#64) = 0 → s.thr.tloc.toNat % 4 ≠ 0 → Traps .tret s causeIllstate s.thr.tloc)
            ∧ (s.thr.tsave &&& ~~~(0x77F#64) = 0 → s.thr.tloc.toNat % 4 = 0 →
              let q := if (s.thr.tsave ^^^ s.cpu.stat) &&& ~~~(0x770#64) = 0 then s else s.squashYounger
              Completes .tret u s { q with
                cpu := { q.cpu with stat := s.thr.tsave, pc := s.thr.tloc, pend := [] }
                thr := { q.thr with susp := false, fetchOld := FetchOld.empty } }
              ∧ ∃ t, Gives .tret s t ∧ t.cpu.stat = s.thr.tsave ∧ t.cpu.pc = s.thr.tloc ∧ t.thr.susp = false
                ∧ t.thr.region = q.thr.region ∧ t.cpu.x = s.cpu.x ∧ t.cpu.v = s.cpu.v ∧ t.cpu.k = s.cpu.k ∧ t.mem = s.mem))))

/-- R322, R335, R339 to R342, R344: the other system instructions; those marked S trap as PRIV in U mode, with the word. -/
def Obligations.SystemInstructions : Prop :=
  ∀ (s : State) (n : BitVec 3) (d a l : Reg),
    (let u : Use := { held := true, reads := [.x a] };
      Clear u s →
        (s.smode = false → ∀ j, j ∈ [Instr.sgld n a, .sgst n a, .pflush a] → Traps j s causePriv (s.cpu.ir.setWidth 64))
        ∧ (s.smode = true →
          (∀ e, s.load .gather (s.rx a) 8 16 = .error e → TakesStop (.sgld n a) u s s e)
          ∧ (∀ b0 t0 e, s.load .gather (s.rx a) 8 16 = .ok (b0, t0) → t0.load .gather (s.rx a + 8) 8 8 = .error e →
            TakesStop (.sgld n a) u s s e)
          ∧ (∀ e, andThen (s.store .gather (s.rx a) (leBytes 8 (s.thr.sg.get n.toFin).1.toNat) 16)
              (fun t => t.store .gather (s.rx a + 8) (leBytes 8 (s.thr.sg.get n.toFin).2.toNat) 8) = .error e →
            TakesStop (.sgst n a) u s s e)
          ∧ (∀ b0 t0 b1 t, s.load .gather (s.rx a) 8 16 = .ok (b0, t0) → t0.load .gather (s.rx a + 8) 8 8 = .ok (b1, t) →
            let v := (field64 b0 0, field64 b1 0)
            (t.thr.sg.get n.toFin = v → Completes (.sgld n a) u s (t.setSegment n v).advance)
            ∧ (t.thr.sg.get n.toFin ≠ v → Completes (.sgld n a) u s (t.squashYounger.setSegment n v).advance)
            ∧ (t.setSegment n v).thr.sg.get n.toFin = v
            ∧ ∀ m, m ≠ n → (t.setSegment n v).thr.sg.get m.toFin = t.thr.sg.get m.toFin)
          ∧ (∀ t0 t, s.store .gather (s.rx a) (leBytes 8 (s.thr.sg.get n.toFin).1.toNat) 16 = .ok t0 →
            t0.store .gather (s.rx a + 8) (leBytes 8 (s.thr.sg.get n.toFin).2.toNat) 8 = .ok t →
            Completes (.sgst n a) u s t.advance)
          ∧ Waits (.pflush a) u s (State.parkAs
              { s with coh := { s.coh with shoots := s.coh.shoots ++ [{ client := s.ring, id := s.tick, asid := (s.rx a).setWidth 12, all := (s.rx a).getLsbD 15, vpn := bitsOf (s.rx a).toNat 16 41, wide := false, left := List.range 32 }] } }
              .pflush 0 0 0 s.tick)))
    ∧ (let u : Use := { held := true, writes := [.x d], again := some .idle };
      Clear u s →
        (s.smode = false → Traps (.idle d) s causePriv (s.cpu.ir.setWidth 64))
        ∧ (s.smode = true → s.ipend ≠ 0 → WritesX (.idle d) u d s s.ipend)
        ∧ (s.smode = true → s.ipend = 0 → Waits (.idle d) u s (s.parkAs .idle d 0 0 0)))
    ∧ (Clear { held := true } s →
      (s.thr.unacked ≠ 0 ∨ s.cpu.flight ≠ [] → Waits .ssync { held := true } s s)
      ∧ (s.thr.unacked = 0 → s.cpu.flight = [] →
        Completes .ssync { held := true } s (State.advance { s with thr := { s.thr with fetchOld := FetchOld.empty } })))
    ∧ (let u : Use := { held := true, reads := [.x a, .x l] };
      let r := segPieces 3 (s.rx a).toNat (s.rx l).toNat
      let lines := s.rangeLines r
      let k := s.flushCount lines
      Clear u s → ∀ (j : Instr) (inv : Bool), (j = .cflush l a ∧ inv = false) ∨ (j = .cinv l a ∧ inv = true) →
        (2 ^ 32 < (s.rx l).toNat → Traps j s causeIllstate (s.rx l))
        ∧ ((s.rx l).toNat ≤ 2 ^ 32 →
          (∀ ea, s.rangeFault r = some ea → Traps j s causeSegv ea)
          ∧ (∀ q, s.rangeFault r = none → s.flushRange inv lines = .ok q →
            let t : State := { q with thr := { q.thr with unacked := q.thr.unacked + k } }
            (k = 0 → Completes j u s t.advance)
            ∧ (k ≠ 0 → Waits j u s (t.parkAs .cflush 0 0 0 0)))))

/-! ## Steps that no encoded instruction names: the thread, its chunks and the coherence protocol -/

/-- R16, R79, R91, R150, R151, R157, R175, R223, R328 to R331, R336, R342: the write that an sreg instruction of the head
makes, and a word that no encoding gives, as steps of their own; results arrive, time reaches tmcmp, and a pending interrupt
is taken at the head's next boundary, which comes after an access that waits at a home and after a yield's pre-emption: HOSTIRQ first, then TIMER, then MSGIRQ, with pc in tloc. That the rows of the register writes
and of ILLOP are steps of their own (log entry 56), that time moves on to tmcmp (log entry 4) and that an interrupt comes ahead of a
recorded trap (log entry 55) are the model's choices. -/
def Obligations.RegisterWritesAndInterrupts : Prop :=
  (∀ (s : State) (v : BitVec 64) (w : BitVec 32),
      (s.notReady none = false → Gives (.illop w) s (s.raise causeIllop (w.setWidth 64)))
      ∧ (s.notReady none = false → s.isHead = true →
        (s.smode = true ∨ (v ^^^ s.cpu.stat) &&& 0xB#64 = 0 → Gives (.statWrite v) s (s.setSreg 0x000 v))
        ∧ (s.smode = false → (v ^^^ s.cpu.stat) &&& 0xB#64 ≠ 0 → Traps (.statWrite v) s causePriv (s.cpu.ir.setWidth 64))
        ∧ Gives (.fflagsWrite v) s (s.setSreg 0x007 v)
        ∧ (s.smode = true →
          Gives (.tmcmpWrite v) s (s.setSreg 0x015 v) ∧ Gives (.mbaseWrite v) s (s.setSreg 0x030 v)
          ∧ Gives (.asidWrite v) s (s.setSreg 0x019 v) ∧ Gives (.pgrootWrite v) s (s.setSreg 0x01A v))
        ∧ (s.smode = false → ∀ j, j ∈ [Instr.tmcmpWrite v, .mbaseWrite v, .asidWrite v, .pgrootWrite v] →
          Traps j s causePriv (s.cpu.ir.setWidth 64))))
  ∧ (∀ (s : State),
      (∀ l f r, s.cpu.flight = l ++ f :: r → f.kind = .memory → (∀ g, g ∈ r → g.kind ≠ .memory) →
        Gives .loadResultReturn s { s with cpu := { s.cpu with flight := l ++ r } })
      ∧ (∀ l f r, s.cpu.flight = l ++ f :: r → f.kind = .long → (∀ g, g ∈ r → g.kind ≠ .long) →
        Gives .longOpResult s { s with cpu := { s.cpu with flight := l ++ r } })
      ∧ (s.live = true → s.thr.tmcmp ≠ 0 →
        let t : State := { s with cyc := max s.cyc s.thr.tmcmp.toNat }
        t.timerPend = true
        ∧ (s.cpu.park = none → Gives .timerPending s t)
        ∧ (∀ p, s.cpu.park = some p → p.kind = .idle → Gives .timerPending s (t.finishParked p.d t.ipend)))
      ∧ (s.live = true → s.isHead = true → s.cpu.ended = false → s.cpu.squashed = false → s.cpu.park = none → s.cpu.frame = none →
        s.thr.leaving = false → s.cpu.held = [] ∨ s.cpu.fetching = true → s.cpu.stat.getLsbD 1 = true →
        let enters (c : Byte) (x : Dword) : Prop := ∃ t, Gives .interruptEntry s t
          ∧ t.thr.tcause = c.setWidth 64 ∧ t.thr.tinfo = x ∧ t.thr.tloc = s.cpu.pc &&& ~~~3#64 ∧ t.thr.tsave = s.cpu.stat
          ∧ t.cpu.pc = s.thr.tvec ∧ t.cpu.stat.getLsbD 0 = true ∧ t.cpu.stat.getLsbD 1 = false ∧ t.thr.hostirq = none
          ∧ t.cpu.x = s.cpu.x ∧ t.mem = s.mem
        (∀ v, s.thr.hostirq = some v → enters causeHostirq v)
        ∧ (s.thr.hostirq = none → s.timerPend = true → enters causeTimer (BitVec.ofNat 64 s.cyc))
        ∧ (s.thr.hostirq = none → s.timerPend = false → s.messageBits s.thr ≠ 0 →
          enters causeMsgirq (BitVec.ofNat 64 (s.messageBits s.thr))))
      ∧ (s.cpu.stat.getLsbD 1 = false ∨ s.thr.leaving = true → Gives .interruptEntry s s)
      ∧ (s.cpu.park = none → s.cpu.held ≠ [] → s.cpu.fetching = false → Gives .interruptEntry s s))

/-- R27, R28, R30, R32, R35, R38, R39, R213: chunks are created with the head's registers, take what their predecessor has sent and
await the other members of their create mask; values and store notices arrive: a value sent again squashes a chunk that has consumed
the earlier one, and one predicted otherwise squashes too; squashed chunks restart; the head commits when its successor may follow, whose
pages then take A and D, whose stores reach memory in program order, one request each, and whose update records are applied after them.
That spsquash counts the squashes of reduce records too is the model's choice (log entry 84). -/
def Obligations.ChunkSteps : Prop :=
  ∀ (s : State),
    (∀ g start mask, s.openRegion = some g → s.successorStart s.youngest = some (start, mask) → s.youngest.squashed = false →
      s.slotFree ((g.home + (s.youngest.num + 1)) % s.thr.cores) = true →
      ∃ (t : State) (c : Chunk), Gives .chunkCreate s t ∧ t.younger.length = s.younger.length + 1 ∧ t.younger.getLast? = some c
        ∧ t.mem = s.mem ∧ t.older.length = s.older.length ∧ t.cpu.num = s.cpu.num
        ∧ c.num = s.youngest.num + 1 ∧ c.core = (g.home + (s.youngest.num + 1)) % s.thr.cores ∧ c.pc = start ∧ c.start = start
        ∧ c.mask = mask ∧ c.left = g.grain ∧ c.stat &&& ~~~(0x770#64) = s.headChunk.stat &&& ~~~(0x770#64) ∧ c.ls = [] ∧ c.ver = []
        ∧ (∀ r, maskHas mask r = false → c.reg r = s.headChunk.reg r)
        ∧ (∀ r, r ∈ c.wait → r ∈ maskMembers mask)
        ∧ (∀ r, r ∈ maskMembers mask → r ∈ s.youngest.sent → r ∉ c.wait ∧ c.reg r = s.youngest.reg r)
        ∧ (∀ r, r ∈ maskMembers mask → r ∉ s.youngest.sent → r ∈ c.wait ∨ ∃ n x, r = .x n ∧ (n, x) ∈ c.pred))
    ∧ (∀ p rest r v more, s.older.reverse = p :: rest → p.outbox = (r, v) :: more → s.cpu.squashed = false → r ∈ s.cpu.wait →
      ∃ t, Gives .stitchValueArrival s t ∧ t.cpu.reg r = (s.cpu.setReg r v).reg r ∧ r ∉ t.cpu.wait ∧ t.cpu.pc = s.cpu.pc ∧ t.mem = s.mem)
    ∧ (∀ p rest r v more, s.older.reverse = p :: rest → p.outbox = (r, v) :: more → s.cpu.squashed = false → r ∉ s.cpu.wait →
      (∀ n x, r = .x n → (n, x) ∉ s.cpu.pred) → ∃ t, Gives .stitchValueArrival s t ∧ t.mem = s.mem
        ∧ (r ∈ s.cpu.used → t.cpu.squashed = true ∧ t.cpu.pc = s.cpu.start)
        ∧ (r ∉ s.cpu.used → t.cpu.squashed = false ∧ t.cpu.pc = s.cpu.pc
          ∧ t.cpu.reg r = if r ∈ s.cpu.made then s.cpu.reg r else (s.cpu.setReg r v).reg r))
    ∧ (∀ p rest n x y more, s.older.reverse = p :: rest → p.outbox = (.x n, .scalar y) :: more → s.cpu.squashed = false →
      .x n ∉ s.cpu.wait → s.cpu.pred.find? (fun q => q.1 == n) = some (n, x) → ∃ t, Gives .stitchValueArrival s t ∧ t.mem = s.mem
        ∧ (x = y → t.cpu.squashed = false ∧ t.cpu.pc = s.cpu.pc ∧ ∀ z, (n, z) ∉ t.cpu.pred)
        ∧ (x ≠ y → t.cpu.squashed = true ∧ t.cpu.pc = s.cpu.start
          ∧ t.thr.spec.toList.getD 2 0 = s.thr.spec.toList.getD 2 0 + 1))
    ∧ (∀ w rest, s.cpu.inbox = w :: rest →
      let q : State := { s with cpu := { s.cpu with inbox := rest } }
      (s.isHead = false → w ∈ s.cpu.reads → Gives .storeNoticeArrival s (q.squashSelf.spec 1 1))
      ∧ (s.isHead = true ∨ w ∉ s.cpu.reads → Gives .storeNoticeArrival s q))
    ∧ (s.cpu.squashed = true →
      (s.isHead = true → ∃ t, Gives .chunkRestart s t ∧ t.cpu = { s.cpu with squashed := false })
      ∧ (∀ p rest, s.older.reverse = p :: rest → s.cpu.guarded = false → s.thr.leaving = false → ∃ t, Gives .chunkRestart s t
        ∧ t.cpu.squashed = false ∧ t.cpu.pc = s.cpu.start ∧ t.cpu.num = s.cpu.num ∧ t.cpu.core = s.cpu.core ∧ t.cpu.ver = []
        ∧ t.cpu.cut = s.cpu.cut ∧ t.cpu.recut = s.cpu.cut.isSome ∧ t.cpu.mask = s.cpu.mask ∧ t.cpu.ls = []))
    ∧ (∀ n rest, s.older = [] → s.younger = n :: rest → s.cpu.ended = true → s.cpu.trap = none → s.cpu.outbox = [] → n.inbox = [] →
      s.openRegion.isSome = true →
      let p := (s.present.commitLoupe.promote n rest).unaliased [] n.loads
      (n.stores = [] → n.touches = [] → n.upds = [] → n.squashed = false →
        ∃ t, Gives .chunkCommit s t ∧ t.older = [] ∧ t.cpu.num = n.num ∧ t.cpu.pc = n.pc ∧ t.cpu.x = n.x ∧ t.cpu.v = n.v
          ∧ t.thr.fflags = s.thr.fflags ||| s.cpu.fflags ∧ t.mem = s.mem)
      ∧ (∀ q1 q2 q3, n.squashed = false → RunsEach State.settleTouch p n.touches q1 → RunsEach State.commitSpec q1 n.stores q2 →
        RunsEach State.applyUpdate q2 n.upds q3 →
        ∃ t, Gives .chunkCommit s t ∧ t.mem = q3.mem ∧ t.coh.dir = q3.coh.dir ∧ t.coh.siv = q3.coh.siv ∧ t.older = []
          ∧ t.cpu.num = n.num ∧ t.cpu.pc = n.pc ∧ t.cpu.x = n.x ∧ t.cpu.v = n.v
          ∧ t.cpu.ver = [] ∧ t.cpu.stores = [] ∧ t.cpu.upds = [] ∧ t.cpu.touches = [] ∧ t.cpu.reads = [] ∧ t.cpu.loads = [])
      ∧ (∀ va m bs, n.squashed = false → n.touches = [] → n.upds = [] → n.stores = [{ va := va, dest := m, data := bs }] →
        let q := p.settledAt (m.pa / 64)
        p.Sound → p.place m.pa = .hbm m.pa → 0 < bs.length → m.pa % 64 + bs.length ≤ 64 → purging p.coh.dir (m.pa / 64) = false →
        q.deviceStop m.pa = none → (q.ringHolds p.ring).length < ringLines →
        (m.coh = .trk ∧ q.poisoned (64 * (m.pa / 64)) 64 = false) ∨ (m.coh = .nc ∧ q.partialPoison m.pa bs.length = false) →
        ∃ t, Gives .chunkCommit s t
          ∧ (∀ k, k < bs.length → bs[k]? = some (Memory.get t.mem (m.pa + k)))
          ∧ (∀ b, b < m.pa ∨ m.pa + bs.length ≤ b → Memory.get t.mem b = Memory.get q.mem b))
      ∧ (∀ x u, n.squashed = false → n.touches = [] → n.stores = [] → n.upds = [x] → x.op ≠ .fadd →
        p.scatterAt p.who x.va x.dest x.op x.bytes x.val = .ok u → ∃ t, Gives .chunkCommit s t ∧ t.mem = u.mem ∧ t.coh.dir = u.coh.dir))

/-- R98, R101, R105 to R107, R114, R341: the steps of a line's chain, of a purge, whose waiting requests are served when it ends, of a
ring cache, of the walkers, of a shootdown and of acknowledged write-backs. Two points are the model's choice: memory lists the bytes
of an owned line, so that its write-back changes none (log entry 64), and a completed walk sets neither A nor D, which the access
sets (log entry 65). -/
def Obligations.CoherenceSteps : Prop :=
  ∀ (s : State) (ring line die : Nat) (va : BitVec 64),
    (∀ r, s.lineReq ring line false = some r →
      (purging s.coh.dir line = true → Gives (.trkReadMiss ring line) s (s.waitLine r line))
      ∧ (∀ bs t, purging s.coh.dir line = false → s.Sound → s.place (64 * line) = .hbm (64 * line) →
        s.cachedRead r.who (64 * r.va) (r.target line) 64 = .ok (bs, t) →
        Gives (.trkReadMiss ring line) s t ∧ (∃ m, m ∈ chainOf t.coh.dir line ∧ m.ring = ring ∧ m.st ≠ .collect)
          ∧ ((s.ringHolds ring).length < ringLines → t.mem = (s.recall line).mem)))
    ∧ (∀ r, s.lineReq ring line true = some r →
      (purging s.coh.dir line = true → Gives (.trkOwnershipRequest ring line) s (s.waitLine r line))
      ∧ (purging s.coh.dir line = false →
        ∃ t, Gives (.trkOwnershipRequest ring line) s t ∧ purging t.coh.dir line = true ∧ t.mem = (s.recall line).mem
          ∧ ∃ p, purgeOf t.coh.dir line = some (p, []) ∧ p.req = r ∧ p.req.ring = ring
            ∧ p.left = ((chainOf t.coh.dir line).filter (fun m => m.ring != ring)).map (fun m => m.ring)))
    ∧ (∀ r q, (s.waitLine r line).coh.dir.find? (fun d => d.line == line) = some q →
      let ahead := ((s.coh.dir.find? (fun d => d.line == line)).map (fun d => d.waiting)).getD []
      q.waiting = if r ∈ ahead then ahead else ahead ++ [r])
    ∧ (∀ p ws m rest, purgeOf s.coh.dir line = some (p, ws) → p.left = m :: rest →
      ∃ t, Gives (.trkPurge line) s t ∧ purgeOf t.coh.dir line = some ({ p with left := rest }, ws)
        ∧ (∀ x, x ∈ chainOf t.coh.dir line → x.ring ≠ m)
        ∧ ((∀ x, x ∈ chainOf s.coh.dir line → x.st ≠ .collect) → t.mem = s.mem))
    ∧ (∀ p ws u, purgeOf s.coh.dir line = some (p, ws) → p.left = [] → (∀ w, w ∈ s.plat.queued → w.pa / 64 ≠ line) →
      (let q := s.mapLine line (fun d => { d with purge := none, waiting := [] });
        State.trkTake { q with plat := { q.plat with serves := some (64 * line, 0) } } p.req.who (64 * p.req.va) (p.req.target line) = .ok u) →
      let t : State := { u with plat := { u.plat with serves := s.plat.serves } }
      Gives (.purgeAck line) s (t.serveWaiting line ws)
        ∧ (∃ m, chainOf t.coh.dir line = [m] ∧ m.ring = p.req.ring ∧ m.st = .owned) ∧ purgeOf t.coh.dir line = none)
    ∧ s.serveWaiting line [] = s
    ∧ (∀ r ws, (r.own = false → s.serveWaiting line (r :: ws) = (s.serveRead r line).serveWaiting line ws)
      ∧ (r.own = true → ∃ p, purgeOf (s.serveWaiting line (r :: ws)).coh.dir line = some (p, ws) ∧ p.req = r))
    ∧ (∀ p ws, purgeOf s.coh.dir line = some (p, ws) →
      (∃ w, w ∈ s.plat.queued ∧ w.pa / 64 = line ∧ (w.ofRing = true ∨ w.since < p.since)) → Gives (.purgeAck line) s s)
    ∧ (purging s.coh.dir line = false → ∃ t, Gives (.ringCacheEviction ring line) s t
      ∧ (∀ x, x ∈ t.coh.siv → ¬ (x.ring = ring ∧ x.line = line))
      ∧ (s.Sound → ∀ x, x ∈ chainOf t.coh.dir line → x.ring ≠ ring))
    ∧ (s.live = true → dieOf s.ring = die →
      (∀ x, x ∈ s.coh.walks → ¬ (x.die = die ∧ x.asid = s.thr.asid ∧ x.va / 2 ^ 16 = va.toNat % 2 ^ 57 / 2 ^ 16)) →
      Gives (.pageWalkStart die va) s { s with coh := { s.coh with walks :=
        s.coh.walks ++ [{ die := die, asid := s.thr.asid, root := s.thr.pgroot, va := va.toNat % 2 ^ 57 }] } })
    ∧ (∀ w, s.coh.walks.find? (fun w => w.die == die) = some w →
      let q : State := { s with coh := { s.coh with walks := s.coh.walks.erase w } }
      (∀ e, q.walk die .load w.root w.va = .error e → Gives (.pageWalkComplete die) s q)
      ∧ (∀ f t, q.walk die .load w.root w.va = .ok (f, t) →
        (t.heldPage f = true → Gives (.pageWalkComplete die) s t)
        ∧ (t.heldPage f = false → Gives (.pageWalkComplete die) s (t.tlbAdd (8 * die) w.asid .gather w.va f))))
    ∧ (∀ x, s.coh.shoots.find? (fun x => x.left.contains die) = some x →
      (s.shootWaits x die = true → Gives (.shootdownAck die) s s)
      ∧ (s.shootWaits x die = false → ∃ t, Gives (.shootdownAck die) s t
        ∧ ((∃ d, d ∈ x.left ∧ d ≠ die) → t.mem = (s.shootDie x die).mem
          ∧ t.coh.tlb = (s.shootDie x die).coh.tlb)))
    ∧ (let n := s.plat.queued.countP (fun w => w.ofRing && w.src % 256 == s.ring)
      let q : State := { s with thr := { s.thr with unacked := s.thr.unacked - 1 } }
      (s.thr.unacked ≤ n → Gives .writeBackAcknowledgement s s)
      ∧ (n < s.thr.unacked → 1 < s.thr.unacked ∨ (s.isHead = true ∧ s.cpu.park = none) → Gives .writeBackAcknowledgement s q)
      ∧ (∀ p, n < s.thr.unacked → s.isHead = true → s.cpu.park = some p → p.kind = .cflush → s.thr.unacked = 1 → ∃ t, Gives .writeBackAcknowledgement s t
        ∧ t.cpu.park = none ∧ t.cpu.pc = s.cpu.pc + 4 ∧ t.thr.unacked = 0))
/-! ## Copy engines, the Enlarger and the Loupe -/

/-- R276, R282 to R291: the copy instructions check their record and join a queue with a ticket; cwait, cquery, cresume and
cabort answer from the commands of a barrier; a queued command becomes active; an active one performs a group of elements,
which the barrier's count loses, or takes a fault record; a memory command's groups may run out of order, a stream command's append their
elements' bits in order, as room allows (R279, R280, R312), and its last group stays counted until its bytes are consumed (R291); the
completion word comes last. The model's choices here: which free entry a
command takes, and so its ticket (log entry 93), how long it holds it and what an abort leaves of a stream (log entry 52), that a group
is as long as R279 allows (log entry 13), and log entries 10, 32, 42 and 43. -/
def Obligations.CopyCommands : Prop :=
  ∀ (s : State) (d a : Reg) (b : KIdx) (q l : BitVec 1) (c t : BitVec 2),
    (let u : Use := { reads := [.x a], writes := [.x d], st := t };
      ∀ (fn : Nat) (j : Instr),
      (fn, j) ∈ [(0, Instr.ccopy d a b q l c t), (1, .cgath d a b q l c t), (2, .cscat d a b q l c t), (3, .cfill d a b q l c t)] →
      Clear u s →
        (∀ y x, s.readRecord (s.rx a) 256 64 = .error (.trap y x) → Traps j s y x)
        ∧ (∀ bs, s.readRecord (s.rx a) 256 64 = .ok bs →
          let r : Shape := { bytes := bs }
          (∀ off, r.bad fn = some off → Traps j s causeIllstate (BitVec.ofNat 64 off))
          ∧ (r.bad fn = none →
            (r.dkind = 1 ∨ r.dkind = 2 → s.cpu.bank = none → Traps j s causeLease 0)
            ∧ (r.dkind = 3 → s.cpu.loupe = none → Traps j s causeLease 0)
            ∧ (∀ p, r.dkind = 3 → s.cpu.loupe = some p → r.dst.toNat ≠ p.pos → Traps j s causeIllstate 8)
            ∧ (s.streamCheck r = none →
              (s.copyHeld fn r = true → Waits j u s s)
              ∧ (s.copyHeld fn r = false →
                ((∀ k, k < 16 → entryUsed s.thr.cmds s.cpu.core k = true) → Waits j u s s)
                ∧ (∀ k, k < 16 → (∀ i, i < k → entryUsed s.thr.cmds s.cpu.core i = true) → entryUsed s.thr.cmds s.cpu.core k = false →
                  let ticket : Dword := BitVec.ofNat 64 (b.toNat * 1024 + s.cpu.core / 4 * 256 + (16 * (s.cpu.core % 4) + k))
                  ∃ (m : CopyCmd), m.fn = fn ∧ m.record = bs ∧ m.barrier = b.toNat ∧ m.committed = s.isHead ∧ m.chunk = s.cpu.num
                    ∧ m.left = r.pending fn ∧ m.fault = none ∧ m.active = false ∧ m.done = false ∧ m.pos = 0
                    ∧ m.acq = (q == 1) ∧ m.rel = (l == 1) ∧ m.scope = c.toNat ∧ m.smode = s.smode ∧ m.ticket = ticket
                    ∧ (s.isHead = false → s.snapRange m = none → Waits j u s s)
                    ∧ (∀ n, (if s.isHead then n = [] else s.snapRange m = some n) →
                      ∃ t' : State, Completes j u s (t'.wx d ticket).advance
                        ∧ t'.thr.cmds = s.thr.cmds ++ [m] ∧ t'.thr.snaps = s.thr.snaps ++ n
                        ∧ t'.cpu.x = s.cpu.x ∧ t'.cpu.pc = s.cpu.pc ∧ t'.mem = s.mem)))))))
    ∧ (let u : Use := { held := true, writes := [.x d], st := t, again := some .cwait };
      let n := ((s.thr.cmds.filter (fun x => x.committed && x.barrier == b.toNat)).map (fun x => x.left + x.kept)).sum
      let bad := oldestFault s.thr.cmds (fun x => x.barrier == b.toNat)
      Clear u s →
        (∀ m, bad = some m → Traps (.cwait d b t) s causeEngfault m.ticket)
        ∧ (∀ r, bad = none → n = 0 → s.acquire 0 = .ok r → Completes (.cwait d b t) u s (r.wx d 0).advance)
        ∧ (bad = none → n ≠ 0 → s.limitPassed s.thr.wtime = true → WritesX (.cwait d b t) u d s 1)
        ∧ (bad = none → n ≠ 0 → s.limitPassed s.thr.wtime = false →
          Waits (.cwait d b t) u s (s.parkAs .cwait d 0 s.thr.wtime b.toNat t)))
    ∧ (∀ p, s.cpu.park = some p → p.kind = .cwait → s.limitPassed p.b = true → barrierCount s.thr.cmds p.c ≠ 0 →
      let bad := oldestFault s.thr.cmds (fun x => x.barrier == p.c)
      (∀ m, bad = some m → Gives .cwaitTimeout s (State.raise { s with cpu := { s.cpu with park := none } } causeEngfault m.ticket))
      ∧ (bad = none → Gives .cwaitTimeout s (s.finishParked p.d 1)))
    ∧ (let u : Use := { held := true, reads := [.x a], writes := [.x d], st := t };
      let bad := oldestFault s.thr.cmds (fun x => x.barrier == b.toNat)
      Clear u s →
        (∀ g, s.resolveLs .store (s.rx a) 64 64 = .ok g →
          (s.sharedLocked g = true → Traps (.cquery d a b t) s causeSegv (s.rx a))
          ∧ (s.sharedLocked g = false → bad = none → WritesX (.cquery d a b t) u d s 1)
          ∧ (∀ m f, s.sharedLocked g = false → bad = some m → m.fault = some f →
            ∀ r, s.lsStore g (leBytes 8 m.ticket.toNat ++ [f.cause] ++ List.replicate 7 0
              ++ leBytes 8 f.info.toNat ++ leBytes 8 f.index ++ leBytes 8 (m.left + m.kept) ++ List.replicate 24 0) = .ok r →
            Completes (.cquery d a b t) u s (r.wx d 0).advance))
        ∧ (s.cmdOf (s.rx a) b = none → WritesX (.cresume d a b t) u d s 1)
        ∧ (∀ m, s.cmdOf (s.rx a) b = some m → m.fault = none → WritesX (.cresume d a b t) u d s 1)
        ∧ (∀ m f, s.cmdOf (s.rx a) b = some m → m.fault = some f →
          let again : CopyCmd :=
            { m with
              fault := none, ahead := m.ahead.filter (fun r => decide (r.1 < f.index))
              counted := m.counted ++ m.ahead.filter (fun r => decide (f.index ≤ r.1))
              once := m.once ++ m.ahead.filter (fun r => decide (f.index ≤ r.1)) }
          let r : State := { s with thr := { s.thr with cmds := s.thr.cmds.map (fun x => if x = m then again else x) } }
          let twice := ∃ q, q ∈ m.ahead ∧ f.index ≤ q.1
          (m.dirty = false ∨ ¬ twice → Completes (.cresume d a b t) u s (r.wx d 0).advance)
          ∧ (m.dirty = true → twice → Completes (.cresume d a b t) u s ((r.breach s.thr.asid).wx d 0).advance))
        ∧ (let hit (m : CopyCmd) : Bool :=
            m.committed && m.barrier == b.toNat && (s.rx a == BitVec.allOnes 64 || m.ticket == s.rx a)
          let q := s.abortCmds hit
          Completes (.cabort d a b t) u s (q.wx d (BitVec.ofNat 64 (s.thr.cmds.filter hit).length)).advance
          ∧ q.cpu.x = s.cpu.x ∧ q.mem = s.mem
          ∧ ((∀ m, m ∈ s.thr.cmds → hit m = true → m.shape.dkind = 0) → q.thr.cmds = s.thr.cmds.filter (fun m => !hit m))
          ∧ (∀ pre m post, s.thr.cmds = pre ++ m :: post → hit m = true → (∀ y, y ∈ pre ++ post → hit y = false) →
            let gap := s.unpushed m
            q.thr.cmds = pre ++ post.map (fun (y : CopyCmd) =>
              if m.shape.dkind ≠ 0 ∧ y.chunk = m.chunk ∧ y.shape.dkind = m.shape.dkind then { y with soff := y.soff - gap, next := y.next - gap }
              else y)
            ∧ (m.shape.dkind = 1 → q.cpu.bank = s.cpu.bank.map (fun (b : Bank) => { b with accA := b.accA - gap }))
            ∧ (m.shape.dkind = 2 → q.cpu.bank = s.cpu.bank.map (fun (b : Bank) => { b with accB := b.accB - gap }))
            ∧ (m.shape.dkind = 3 → q.cpu.loupe = s.cpu.loupe.map (fun (l : LoupeBind) => { l with gone := l.gone + gap })))))
    ∧ (∀ (quad : Nat) (pre post : List CopyCmd) (m : CopyCmd), s.thr.cmds = pre ++ m :: post → m.queued quad = true →
      (s.thr.cmds.filter (fun x => x.quad == quad && x.active)).length < 8 →
      (∀ x, x ∈ pre → x.queued quad = true → x.chunk ≠ s.headChunk.num ∧ m.chunk = s.headChunk.num) →
      (m.chunk ≠ s.headChunk.num → ∀ x, x ∈ post → x.queued quad = true → x.chunk ≠ s.headChunk.num) →
      ∀ r, (if m.acq && m.pos == 0 then s.sivAcquire s.ring m.scope = .ok r else r = s) →
      (m.shape.total ≤ m.pos → m.shape.cen = false → Gives (.copyCommandActivate quad) s (r.finishCmd m))
      ∧ (m.pos < m.shape.total ∨ m.shape.cen = true → Gives (.copyCommandActivate quad) s (r.setCmd m { m with active := true })))
    ∧ (∀ (k : Nat) (m : CopyCmd), s.thr.cmds[k]? = some m → m.active = true → m.fault = none → m.shape.dkind = 0 → m.ahead = [] →
      m.counted = [] → m.once = [] → m.asked = none → s.older = [] → s.younger = [] →
      (m.pos < m.shape.total →
        (∀ y x, s.copyRun m m.pos m.shape.total = .error (.trap y x) → Gives (.copyElementGroup k 0) s
          (s.setCmd m { m with active := false, fault := some { cause := y, info := x, index := m.pos }, held := [] }))
        ∧ (∀ xs r, s.copyRun m m.pos m.shape.total = .ok (xs, r) →
          (∀ y x, r.runValues m xs = .error (.trap y x) → Gives (.copyElementGroup k 0) s
            (s.setCmd m { m with active := false, fault := some { cause := y, info := x, index := m.pos }, held := [] }))
          ∧ (∀ vs r' v, r.runValues m xs = .ok (vs, r') →
            r'.putRun m (((xs.filter (fun x => !x.skip)).zip vs).filterMap (fun x => x.1.dst.map (fun a => (a, x.2)))) = .ok v →
            let nb := (xs.filter (fun x => !x.skip)).length * m.shape.dstBits
            let by_ := (m.bits + nb) / 8 - m.bits / 8
            let m' : CopyCmd :=
              { m with pos := m.pos + xs.length, scaled := false, bits := m.bits + nb, part := 0, next := m.next + by_, left := m.left - by_, held := [] }
            let w := v.setCmd m { m' with left := m.shape.cen.toNat, kept := 0 }
            (m.pos + xs.length < m.shape.total → Gives (.copyElementGroup k 0) s (v.setCmd m m'))
            ∧ (m.pos + xs.length = m.shape.total → (∀ y, y ∈ w.thr.cmds → w.consumedAll y = false) →
              (m.shape.cen = true → Gives (.copyElementGroup k 0) s w)
              ∧ (m.shape.cen = false → m.rel = false →
                Gives (.copyElementGroup k 0) s (w.dropCmd { m' with left := 0, kept := 0 }))))
          ∧ (∀ ys q vs r' v, m.pos + xs.length < m.shape.total → s.copyRun m (m.pos + xs.length) m.shape.total = .ok (ys, q) →
            q.runValues m ys = .ok (vs, r') →
            r'.putRun m (((ys.filter (fun x => !x.skip)).zip vs).filterMap (fun x => x.1.dst.map (fun a => (a, x.2)))) = .ok v →
            let nb := (ys.filter (fun x => !x.skip)).length * m.shape.dstBits
            let by_ := (m.bits + nb) / 8 - m.bits / 8
            Gives (.copyElementGroup k 1) s (v.setCmd m
              { m with ahead := [(m.pos + xs.length, ys.length)], scaled := false, bits := m.bits + nb, part := 0, next := m.next + by_
                       left := m.left - by_, held := [] }))))
      ∧ (∀ q r, m.shape.total ≤ m.pos → m.shape.cen = true → s.sivRelease s.ring m.scope = .ok q →
        q.engineWrite m m.shape.caddr (leBytes 8 m.shape.cval.toNat) = .ok r →
        Gives (.copyElementGroup k 0) s (r.dropCmd m)))
    ∧ (∀ (k e n : Nat) (m : CopyCmd), s.thr.cmds[k]? = some m → m.active = true → m.fault = none → m.shape.dkind = 0 → m.ahead = [(e, n)] →
      m.counted = [] → m.once = [] → m.asked = none → s.older = [] → s.younger = [] → m.pos < e → e + n < m.shape.total →
      ∀ xs r vs r' v, s.copyRun m m.pos e = .ok (xs, r) → r.runValues m xs = .ok (vs, r') →
      r'.putRun m (((xs.filter (fun x => !x.skip)).zip vs).filterMap (fun x => x.1.dst.map (fun a => (a, x.2)))) = .ok v →
      let nb := (xs.filter (fun x => !x.skip)).length * m.shape.dstBits
      let by_ := (m.bits + nb) / 8 - m.bits / 8
      let on (p : Nat) (l : List (Nat × Nat)) : Prop := Gives (.copyElementGroup k 0) s (v.setCmd m
        { m with pos := p, ahead := l, scaled := false, bits := m.bits + nb, part := 0, next := m.next + by_, left := m.left - by_, held := [] })
      (m.pos + xs.length = e → on (e + n) []) ∧ (m.pos + xs.length < e → on (m.pos + xs.length) [(e, n)]))
    ∧ (∀ (k : Nat) (m : CopyCmd) (pre post : List CopyCmd), s.thr.cmds[k]? = some m → s.thr.cmds = pre ++ m :: post → m ∉ pre → m.active = true →
      m.fault = none → m.shape.dkind ∈ [1, 2, 3] → m.ahead = [] → m.asked = none → s.older = [] → s.younger = [] → m.pos < m.shape.total →
      ((∃ y, y ∈ pre ∧ y.chunk = m.chunk ∧ y.shape.dkind = m.shape.dkind ∧ y.pos < y.shape.total) → Gives (.copyElementGroup k 0) s s)
      ∧ ((∀ y, y ∈ pre → y.chunk = m.chunk → y.shape.dkind = m.shape.dkind → y.shape.total ≤ y.pos) →
        m.shape.conv ≠ 1 ∨ m.pos % 4096 ≠ 0 ∨ m.scaled = true →
        ∀ base buf, (m.shape.dkind = 1 → ∃ b, s.cpu.bank = some b ∧ b.baseA = base ∧ b.fifoA = buf) →
        (m.shape.dkind = 2 → ∃ b, s.cpu.bank = some b ∧ b.baseB = base ∧ b.fifoB = buf) →
        (m.shape.dkind = 3 → ∃ l, s.cpu.loupe = some l ∧ l.base + l.taken.length = base ∧ l.buf = buf) →
        ∀ xs r, s.copyRun m m.pos (if m.shape.conv = 1 then min m.shape.total ((m.pos / 4096 + 1) * 4096) else m.shape.total) = .ok (xs, r) →
        let z := m.shape.dstBits
        let off := m.bits % 8
        let nb := (xs.filter (fun x => !x.skip)).length * z
        let by_ := (m.bits + nb) / 8 - m.bits / 8
        let reach := (off + nb + 7) / 8
        let isLast := m.pos + xs.length = m.shape.total
        let out := if isLast then reach else by_
        let size := if m.shape.dkind = 3 then 65536 else 32768
        let on (w : State) (part : Nat) : Prop :=
          let m' : CopyCmd :=
            { m with pos := m.pos + xs.length, scaled := false, bits := m.bits + nb, part := part, next := m.next + by_, left := m.left - by_, held := [] }
          let cen := m.shape.cen.toNat
          let last : CopyCmd := { m' with left := cen, kept := if m.shape.dkind = 3 then 0 else max 1 (m.left - cen) }
          let q := w.setCmd m last
          (¬ isLast → Gives (.copyElementGroup k 0) s (w.setCmd m m'))
          ∧ (isLast → (∀ y, y ∈ q.thr.cmds → q.consumedAll y = false) →
            (m.shape.cen = true → Gives (.copyElementGroup k 0) s q)
            ∧ (m.shape.cen = false → m.rel = false →
              Gives (.copyElementGroup k 0) s (q.setCmd last { last with active := false, done := true, left := 0, asked := none, held := [] })))
        (size < buf.length + out → s.cpu.park = none → Gives (.copyElementGroup k 0) s s)
        ∧ (buf.length + out ≤ size → m.next + reach ≤ base → on s 0)
        ∧ (∀ vs r', buf.length + out ≤ size → base < m.next + reach → r.runValues m xs = .ok (vs, r') → r'.cpu.park = none →
          m.part < 2 ^ off →
          let bit (i : Nat) : Bool :=
            if i < off then m.part.testBit i else if i < off + nb then (vs.getD ((i - off) / z) 0).testBit ((i - off) % z) else false
          ∃ (bs : List Byte) (part : Nat), bs.length = out ∧ (∀ i, i < 8 * out → (bs.getD (i / 8) 0).getLsbD (i % 8) = bit i)
            ∧ (∀ i, part.testBit i = bit (8 * by_ + i)) ∧ on (r'.setStream m (buf ++ bs.drop (base - m.next))) part)))

/-- R292 to R305: the Enlarger's instructions: a claim, a format context, clearing and replaying, starting groups, drains,
release, status and spills; without a claim they fault as LEASE, without a format as ILLSTATE with tinfo 0, after the checks of the
memory that they read (R158). All but mclaim, mrel and mstat are commands of a lease: without one they wait. The cell that mspill
names when it finds no room is the model's reading (log entry 49). -/
def Obligations.EnlargerInstructions : Prop :=
  ∀ (s : State) (d a : Reg) (t : BitVec 2),
    (let u : Use := { writes := [.x d], st := t, again := some .mclaim };
      Clear u s →
        (s.cpu.bank.isSome = true → WritesX (.mclaim d t) u d s 1)
        ∧ (s.cpu.bank = none → (∀ c, c ∈ s.older ∨ c ∈ s.younger → c.core = s.cpu.core → c.bank = none) →
          ∃ b : Bank, Completes (.mclaim d t) u s ((s.setBank b).wx d 0).advance
            ∧ b.fmt = none ∧ b.tray = [] ∧ b.steps = 0 ∧ b.mstart = 0 ∧ b.fifoA = [] ∧ b.fifoB = [] ∧ ∀ i k, cellAt b.cells i k = 0)
        ∧ (s.cpu.bank = none → (∃ c, c ∈ s.older ∧ c.core = s.cpu.core ∧ c.bank.isSome = true) →
          Waits (.mclaim d t) u s (s.parkAs .mclaim d 0 0 0))
        ∧ (∀ i, s.cpu.bank = none → s.isHead = true → s.bankHolder = some i →
          ∃ b : Bank, Completes (.mclaim d t) u s (((s.squashFrom i).setBank b).wx d 0).advance
            ∧ b.fmt = none ∧ b.tray = [] ∧ b.steps = 0 ∧ b.mstart = 0 ∧ b.fifoA = [] ∧ b.fifoB = [] ∧ ∀ i k, cellAt b.cells i k = 0))
    ∧ (let fmtUse : Use := { reads := [.x a], st := t, again := some .menl };
      Clear fmtUse s → ∀ y x, s.readRecord (s.rx a) 128 64 = .error (.trap y x) → Traps (.mfmt a t) s y x)
    ∧ (let linesUse : Use := { reads := [.x a, .seed, .sbase], st := t, again := some .menl };
      Clear linesUse s → (s.rx a).toNat % 64 ≠ 0 → Traps (.mdrainl a t) s causeAlign (s.rx a))
    ∧ (s.cpu.bank = none →
      (Clear { reads := [.x a], st := t, again := some .menl } s → ∀ r, s.readRecord (s.rx a) 128 64 = .ok r →
        Traps (.mfmt a t) s causeLease 0)
      ∧ (Clear { reads := [.x a], st := t } s → Traps (.mstep a t) s causeLease 0)
      ∧ (Clear { st := t, again := some .menl } s → Traps (.mzero t) s causeLease 0)
      ∧ (Clear { st := t } s → Traps (.mrel t) s causeLease 0)
      ∧ (Clear { reads := [.x a, .seed, .sbase], writes := [.v d], st := t, again := some .menl } s →
        Traps (.mdrain d a t) s causeLease 0)
      ∧ (Clear { reads := [.x a, .seed, .sbase], st := t, again := some .menl } s → (s.rx a).toNat % 64 = 0 →
        Traps (.mdrainl a t) s causeLease 0)
      ∧ (Clear { writes := [.x d], st := t } s → Traps (.mstat d t) s causeLease 0)
      ∧ (Clear { writes := [.x d], st := t, again := some .menl } s → Traps (.mspill d t) s causeLease 0))
    ∧ (∀ b, s.cpu.bank = some b →
      let waits (u : Use) (j : Instr) : Prop := s.leased b = none → Waits j u s (s.parkAs .menl 0 0 0 0)
      (let u : Use := { reads := [.x a], st := t, again := some .menl };
        Clear u s → ∀ r, s.readRecord (s.rx a) 128 64 = .ok r →
          (∀ off, s.badFmt { bytes := r } = some off → Traps (.mfmt a t) s causeIllstate (BitVec.ofNat 64 off))
          ∧ (s.badFmt { bytes := r } = none → waits u (.mfmt a t) ∧ (∀ q, s.leased b = some q →
            ∃ (t' : State) (b' : Bank), Completes (.mfmt a t) u s t'.advance
            ∧ t'.cpu.bank = some b' ∧ b'.fmt = some r ∧ b'.tray = [] ∧ b'.steps = 0 ∧ b'.mstart = 0 ∧ b'.arepleft = 0
            ∧ (∀ i k, cellAt b'.cells i k = 0) ∧ b'.readA = b.readA ∧ b'.readB = b.readB ∧ t'.cpu.x = s.cpu.x ∧ t'.cpu.v = s.cpu.v
            ∧ t'.cpu.pc = s.cpu.pc ∧ t'.mem = s.mem)))
      ∧ (Clear { st := t } s → ∃ t' : State, Completes (.mrel t) { st := t } s t'.advance ∧ t'.cpu.bank = none
        ∧ t'.cpu.x = s.cpu.x ∧ t'.cpu.pc = s.cpu.pc ∧ t'.mem = s.mem
        ∧ ∀ m, m ∈ t'.thr.cmds ↔ m ∈ s.thr.cmds ∧ ¬ (m.chunk = s.cpu.num ∧ (m.shape.dkind = 1 ∨ m.shape.dkind = 2)))
      ∧ (let u : Use := { writes := [.x d], st := t };
        Clear u s → WritesX (.mstat d t) u d s
          (BitVec.ofNat 64 (min b.steps (2 ^ 32 - 1) * 2 ^ 32 + b.tray.length % 4096 * 2 ^ 16 + b.mstart % 65536)))
      ∧ (b.fmt = none →
        (Clear { st := t, again := some .menl } s → Traps (.mzero t) s causeIllstate 0)
        ∧ (Clear { reads := [.x a], st := t } s → Traps (.mstep a t) s causeIllstate 0)
        ∧ (Clear { reads := [.x a, .seed, .sbase], writes := [.v d], st := t, again := some .menl } s →
          Traps (.mdrain d a t) s causeIllstate 0)
        ∧ (Clear { reads := [.x a, .seed, .sbase], st := t, again := some .menl } s → (s.rx a).toNat % 64 = 0 →
          Traps (.mdrainl a t) s causeIllstate 0)
        ∧ (Clear { writes := [.x d], st := t, again := some .menl } s → Traps (.mspill d t) s causeIllstate 0))
      ∧ (∀ r, b.fmt = some r →
        let f : FmtCtx := { bytes := r }
        (Clear { st := t, again := some .menl } s → waits { st := t, again := some .menl } (.mzero t) ∧ (∀ q, s.leased b = some q → ∃ (t' : State) (b' : Bank),
          Completes (.mzero t) { st := t, again := some .menl } s t'.advance ∧ t'.cpu.bank = some b'
          ∧ b'.fmt = some r ∧ b'.tray = [] ∧ b'.steps = 0 ∧ b'.mstart = 0 ∧ (∀ i k, cellAt b'.cells i k = 0)
          ∧ (b.arepleft = 0 → b'.amark = b.readA ∧ b'.readA = b.readA ∧ b'.arepleft + 1 = f.arep)
          ∧ (b.arepleft ≠ 0 → b'.amark = b.amark ∧ b'.readA = b.amark ∧ b'.arepleft + 1 = b.arepleft)
          ∧ t'.cpu.x = s.cpu.x ∧ t'.cpu.v = s.cpu.v ∧ t'.cpu.pc = s.cpu.pc ∧ t'.mem = s.mem))
        ∧ (let u : Use := { reads := [.x a], st := t };
          let n := (s.rx a).toNat % 65536
          let past := 0 < b.arepleft ∧ b.amark + 32768 < b.readA + (b.need f).1
          Clear u s →
            (n = 0 → Completes (.mstep a t) u s s.advance)
            ∧ (n ≠ 0 → n ≤ b.mstart ∨ past → Traps (.mstep a t) s causeIllstate (BitVec.ofNat 64 b.mstart))
            ∧ (b.mstart < n → ¬ past → Waits (.mstep a t) u s ((s.setBank b.countStep).parkAs .mstep 0 0 0 n t)))
        ∧ (let u : Use := { reads := [.x a, .seed, .sbase], writes := [.v d], st := t, again := some .menl };
          let i := (s.rx a).toNat % 128
          Clear u s →
            (f.m ≤ i → Traps (.mdrain d a t) s causeIllstate (BitVec.ofNat 64 i))
            ∧ (∀ row fl, i < f.m → s.drainRow b f i f.n = .ok (row, fl) →
              waits u (.mdrain d a t) ∧ (∀ q c, s.leased b = some q → q.cpu.bank = some c →
              Completes (.mdrain d a t) u s
                (((q.clearRow c f i).wv d (BitVec.ofNat 4096 (leNat (row.flatMap (leBytes f.outBytes))))).addFlags fl).advance)))
        ∧ (let u : Use := { reads := [.x a, .seed, .sbase], st := t, again := some .menl };
          Clear u s → ∀ o rows fl, s.resolveLs .store (s.rx a) (128 * (f.m - 1) * f.outBytes + f.n * f.outBytes) 64 = .ok (.priv o) →
            s.drainRows b f f.m = .ok (rows, fl) →
            waits u (.mdrainl a t) ∧ (∀ q c, s.leased b = some q → q.cpu.bank = some c →
              ∀ w, q.putRows o f.outBytes rows = .ok w →
                Completes (.mdrainl a t) u s (((w.zeroRows f (fun i => decide (i < f.m))).clearBank c f).addFlags fl).advance))
        ∧ (let u : Use := { writes := [.x d], st := t, again := some .menl };
          let short := s.spillShort f (s.cpu.core % 4) (b.tray.map (fun e => (e.row, e.col)))
          Clear u s → waits u (.mspill d t) ∧ (∀ q c, s.leased b = some q → q.cpu.bank = some c →
            (∀ cell, short = some cell → Faults (.mspill d t) u s q causeTrayfull
              (BitVec.ofNat 64 (2 * 2 ^ 50 + cell.2 % 128 * 2 ^ 41 + cell.1 % 128 * 2 ^ 34 + b.steps % 2 ^ 32)))
            ∧ (short = none → ∃ t' : State, Completes (.mspill d t) u s (t'.wx d (BitVec.ofNat 64 b.tray.length)).advance
              ∧ t'.cpu.bank = some { c with tray := [] } ∧ t'.cpu.x = s.cpu.x ∧ t'.cpu.pc = s.cpu.pc ∧ t'.mem = s.mem)))))

/-- R295, R297, R298, R300, R302, R304: leases, groups and drains. A ready bank gets the array's lease, of 8 commands with the one that
waits, when no other bank of the quad holds it or is due it; a command uses one up; a group without data ends the lease; a faulting
group leaves the bank as it was; an applied group adds each used cell's sum of products, shifted, to the cell's total of cell, Tray
entry and spilled count, exactly, also where the array spills. The checks of a group come in the order of R300, each with the cause and
tinfo of R301: which of several reserved codes of one cell is named, and the cell of TRAYFULL with REASON 2, are the model's reading (log
entry 49), and so is the order in which the array spills (log entry 41). A drain gives each cell's exact total, scaled by 2^REF, the row's scale and the column's, each product
rounded by itself, and last rounded to the drain format under the cell's key; a drained row is then zero. The bank that the round of
leases begins with is the model's choice (log entry 94). -/
def Obligations.EnlargerTotals : Prop :=
  (∀ (f : FmtCtx) (v : Int) (rs cs : Nat) (r : Rnd), r.mode < 6 →
    let out := if f.dfmt = 1 then bf16 else fp32
    let a := fp64.decode rs
    let b := fp64.decode cs
    (f.dfmt = 2 → drainValue f v rs cs r = (wrap 32 v, 0))
    ∧ (f.dfmt ≠ 2 → ∃ q t o : Nat × BitVec 7, drainValue f v rs cs r = (o.1, q.2 ||| t.2 ||| o.2)
      ∧ (isNumber a = true → RoundsOr0 fp64 rne (decide (v < 0) != a.isNeg) ((v : ℝ) * (2 : ℝ) ^ f.ref * realOf a) q)
      ∧ (a.isNan = true → q = (fp64.nan, a.sig))
      ∧ (∀ m, a = .inf m → q = if v = 0 then (fp64.nan, flagNV) else (fp64.inf (decide (v < 0) != m), 0))
      ∧ (let c := fp64.decode q.1
        (isNumber c = true → isNumber b = true → RoundsOr0 fp64 rne (c.isNeg != b.isNeg) (realOf c * realOf b) t)
        ∧ (c.isNan = true ∨ b.isNan = true → t = (fp64.nan, c.sig ||| b.sig))
        ∧ (∀ m n, (c = .inf m ∧ b = .zero n) ∨ (c = .zero m ∧ b = .inf n) → t = (fp64.nan, flagNV)))
      ∧ (let z := fp64.decode t.1
        (isNumber z = true → RoundsOr0 out r z.isNeg (realOf z) o)
        ∧ (z.isNan = true → o = (out.nan, 0)) ∧ (∀ m, z = .inf m → o = (out.inf m, 0)))))
  ∧ ∀ (s : State) (b : Bank), s.cpu.bank = some b →
    (∀ (f : FmtCtx) (i n : Nat) (l : List Nat) (fl : BitVec 7), s.drainRow b f i n = .ok (l, fl) →
      ∃ (rs : Nat) (cs : Nat → Nat),
        (0 < n → if f.rsen = true then ∃ bs, s.readRecord (f.rscale + BitVec.ofNat 64 (8 * i)) 8 8 = .ok bs ∧ leNat bs = rs
          else rs = 0x3FF0000000000000)
        ∧ (∀ j, j < n → if f.csen = true then ∃ bs, s.readRecord (f.cscale + BitVec.ofNat 64 (8 * j)) 8 8 = .ok bs ∧ leNat bs = cs j
          else cs j = 0x3FF0000000000000)
        ∧ (let o (j : Nat) : Nat × BitVec 7 := drainValue f
            ((cellAt b.cells i j).toInt + 65536 * (trayCount b.tray i j + s.spilled f (s.cpu.core % 4) i j)) rs (cs j)
            { mode := f.drm, key := s.cpu.sbase + BitVec.ofNat 64 (128 * i + j), seed := s.cpu.seed }
          l = (List.range n).map (fun j => (o j).1) ∧ fl = (List.range n).foldl (fun x j => x ||| (o j).2) 0))
    ∧ (∀ (f : FmtCtx) (i : Nat), i < 128 →
      let q := s.clearRow b f i
      ∃ c, q.cpu.bank = some c ∧ (∀ j, j < f.n → cellAt c.cells i j = 0) ∧ (∀ j, trayCount c.tray i j = 0)
        ∧ (∀ k j, k ≠ i → cellAt c.cells k j = cellAt b.cells k j ∧ trayCount c.tray k j = trayCount b.tray k j)
        ∧ (∀ j, j < 128 → q.spilled f (s.cpu.core % 4) i j = 0)
        ∧ (∀ k j, k < 128 → k ≠ i → j < 128 → q.spilled f (s.cpu.core % 4) k j = s.spilled f (s.cpu.core % 4) k j))
    ∧ (∀ p, s.cpu.park = some p → s.cpu.leaseReady = true → b.lease = none → s.leaseAhead = false → s.leaseHeld = false →
      ∃ t : State, Gives .enlargerLease s t ∧ t.cpu.bank = some { b with lease := some (if p.kind = .menl then 8 else 7, 4096) }
        ∧ t.cpu.x = s.cpu.x ∧ t.mem = s.mem)
    ∧ (∀ n k, b.lease = some (n + 1, k) →
      ∃ t : State, s.leased b = some t ∧ t.cpu.bank = some { b with lease := if n = 0 then none else some (n, k) }
        ∧ t.cpu.x = s.cpu.x ∧ t.cpu.pc = s.cpu.pc ∧ t.mem = s.mem)
    ∧ (b.lease = none →
      (s.leaseHeld = true ∨ s.leaseAhead = true → s.leased b = none)
      ∧ (s.leaseHeld = false → s.leaseAhead = false → ∃ t : State, s.leased b = some t
        ∧ t.cpu.bank = some { b with lease := some (7, 4096) } ∧ t.cpu.x = s.cpu.x ∧ t.cpu.pc = s.cpu.pc ∧ t.mem = s.mem
        ∧ ∀ c x, c ∈ t.older ∨ c ∈ t.younger → c.core / 4 = s.cpu.core / 4 → c.bank = some x → x.lease = none))
    ∧ (∀ p r g, s.cpu.park = some p → p.kind = .mstep → b.fmt = some r → b.lease = some g →
      let f : FmtCtx := { bytes := r }
      (b.ready f = false → Gives .enlargerGroupApply s { s with cpu := { s.cpu with bank := some { b with lease := none } } })
      ∧ (b.ready f = true →
        (∀ y x, s.applyGroup b f = .error (y, x) → Gives .enlargerGroupApply s (s.stepTrap y x))
        ∧ (∀ t, s.applyGroup b f = .ok t → Gives .enlargerGroupApply s (t.stepNext f p.c))))
    ∧ (∀ r t, b.fmt = some r → s.applyGroup b { bytes := r } = .ok t →
      let f : FmtCtx := { bytes := r }
      let g := b.group f
      b.cells.length = 128 → (∀ row, row ∈ b.cells → row.length = 128) → f.m ≤ 128 → f.n ≤ 128 → f.spcap = 0 →
      ∃ b', t.cpu.bank = some b' ∧ b'.steps = b.steps + 4
        ∧ ∀ i j, i < f.m → j < f.n →
          let total (c : Bank) : Int := (cellAt c.cells i j).toInt + 65536 * trayCount c.tray i j
          let sum : Int := activation g.a i 0 * weight f.bfmt g.b j 0 + activation g.a i 1 * weight f.bfmt g.b j 1
            + activation g.a i 2 * weight f.bfmt g.b j 2 + activation g.a i 3 * weight f.bfmt g.b j 3
          let shift : Int := if f.scen then (field g.ea i 1 : Int) - 127 + ((field g.eb j 1 : Int) - 127) - f.ref else 0
          total b' = total b + sum * 2 ^ shift.toNat ∧ (f.scen = true → 0 ≤ shift ∧ shift ≤ 7)
            ∧ (trayCount b'.tray i j ≠ trayCount b.tray i j → (trayCount b'.tray i j).natAbs ≤ 2047))
    ∧ (∀ r, b.fmt = some r →
      let f : FmtCtx := { bytes := r }
      let g := b.group f
      let bank := s.cpu.core % 4
      let sum (i j : Nat) : Int := activation g.a i 0 * weight f.bfmt g.b j 0 + activation g.a i 1 * weight f.bfmt g.b j 1
        + activation g.a i 2 * weight f.bfmt g.b j 2 + activation g.a i 3 * weight f.bfmt g.b j 3
      let shift (i j : Nat) : Int := if f.scen then (field g.ea i 1 : Int) - 127 + ((field g.eb j 1 : Int) - 127) - f.ref else 0
      let value (i j : Nat) : Int := (cellAt b.cells i j).toInt + sum i j * 2 ^ (shift i j).toNat
      let carry (i j : Nat) : Int := (value i j + 32768) / 65536
      let count (i j : Nat) : Int := trayCount b.tray i j + s.spilled f bank i j
      let lowest (p : Nat → Nat → Prop) (i j : Nat) : Prop :=
        i < f.m ∧ j < f.n ∧ p i j ∧ ∀ k l, k < f.m → l < f.n → k < i ∨ (k = i ∧ l < j) → ¬ p k l
      let faults (cause : Byte) (reason stream i j kstep : Nat) : Prop := s.applyGroup b f = .error (cause,
        BitVec.ofNat 64 (reason * 2 ^ 50 + stream * 2 ^ 48 + j * 2 ^ 41 + i * 2 ^ 34 + kstep % 2 ^ 32))
      let badA (i _j : Nat) : Prop := f.scen = true ∧ field g.ea i 1 = 255
      let badB (_i j : Nat) : Prop := f.scen = true ∧ field g.eb j 1 = 255
      let badCode (j k : Nat) : Prop := f.bfmt = 0 ∧ bitsOf (field g.b j 1) (2 * k) 2 = 2
      let bad (i j : Nat) : Prop := badA i j ∨ badB i j ∨ ∃ k, k < 4 ∧ badCode j k
      let outside (i j : Nat) : Prop := shift i j < 0 ∨ 7 < shift i j
      let exceeds (i j : Nat) : Prop := carry i j ≠ 0 ∧ 2047 < (count i j + carry i j).natAbs
      let clean : Prop := b.steps + 4 ≤ f.depth ∧ ∀ i j, i < f.m → j < f.n → ¬ bad i j ∧ ¬ outside i j ∧ ¬ exceeds i j
      let held (c : Nat × Nat) : Bool := b.tray.any (fun u => u.row == c.1 && u.col == c.2)
      let carried := ((List.range f.m).flatMap (fun i => (List.range f.n).map (fun j => (i, j)))).filter (fun c => decide (carry c.1 c.2 ≠ 0))
      let fresh := carried.filter (fun c => !held c)
      let free := 2048 - (((s.older ++ s.cpu :: s.younger).filter (fun c => c.core / 4 == s.cpu.core / 4)).map
        (fun c => (c.bank.map (fun x => x.tray.length)).getD 0)).sum
      0 < f.m → f.m ≤ 128 → 0 < f.n → f.n ≤ 128 →
      (f.depth < b.steps + 4 → faults causeDepth 0 0 0 0 b.steps)
      ∧ (∀ i j, b.steps + 4 ≤ f.depth → lowest bad i j →
        (badA i j → faults causeMscale 0 1 i j b.steps)
        ∧ (¬ badA i j → badB i j → faults causeMscale 0 2 i j b.steps)
        ∧ (∀ k, ¬ badA i j → ¬ badB i j → k < 4 → badCode j k → (∀ l, l < k → ¬ badCode j l) → faults causeMscale 0 2 i j (b.steps + k)))
      ∧ (∀ i j, b.steps + 4 ≤ f.depth → (∀ k l, k < f.m → l < f.n → ¬ bad k l) →
        (lowest outside i j → faults causeSpan 0 0 i j b.steps)
        ∧ ((∀ k l, k < f.m → l < f.n → ¬ outside k l) → lowest exceeds i j → faults causeTrayfull 1 0 i j b.steps))
      ∧ (clean → free < fresh.length → f.trapMode = true → ∀ i j, lowest (fun k l => carry k l ≠ 0 ∧ held (k, l) = false) i j →
        faults causeTrayfull 0 0 i j b.steps)
      ∧ (clean → free < fresh.length → f.trapMode = false →
        let lacking := (b.tray.map (fun u => (u.row, u.col)) ++ (carried.drop (free + b.tray.length)).filter (fun c => !held c)).filter
          (fun c => match s.spillAt f with | none => true | some o => (s.spillFind o bank c.1 c.2).isNone)
        let room := match s.spillAt f with | none => 0 | some o => f.spcap - s.spillUsed o
        ∀ c, c ∈ lacking → room < lacking.length → (∀ x, x ∈ lacking → c.1 < x.1 ∨ (c.1 = x.1 ∧ c.2 ≤ x.2)) → c.1 < 128 → c.2 < 128 →
          faults causeTrayfull 2 0 c.1 c.2 b.steps)
      ∧ (∀ t, s.applyGroup b f = .ok t → b.cells.length = 128 → (∀ row, row ∈ b.cells → row.length = 128) →
        (b.tray.map (fun u => (u.row, u.col))).Nodup → (∀ u, u ∈ b.tray → u.row < f.m ∧ u.col < f.n) →
        (∀ o, s.spillAt f = some o → s.spillUsed o ≤ f.spcap) → (∀ i j, i < f.m → j < f.n → (count i j).natAbs ≤ 2047) →
        ∃ c, t.cpu.bank = some c ∧ ∀ i j, i < f.m → j < f.n →
          let after : Int := trayCount c.tray i j + t.spilled f bank i j
          (cellAt c.cells i j).toInt + 65536 * after = (cellAt b.cells i j).toInt + 65536 * count i j + sum i j * 2 ^ (shift i j).toNat
            ∧ after.natAbs ≤ 2047))

/-- R307 to R320: the Loupe: binding and release, which abort the slot's commands of the stream, the stream's check and faults, the scores
of R314, the activity of R318, the classes of R315, the lists, the
counters, and the Proof stage. A fault of a parked lpred leaves the lists and the stream as they were (R29, R158); a FMTCODE
consumes the stream. The model's choices here: log entries 61 (an lpred that has parked takes its faults, ENGFAULT among them, when
its completion comes) and 17 (CMASK is judged there last, after the checks of the lists). -/
def Obligations.Loupe : Prop :=
  (∀ (c : LoupeCfg) (nb : Nat) (st : List Byte), 0 < nb → 0 < c.rk → c.nn % 64 = 0 →
    let byte (i : Nat) : Nat := (st.getD i 0).toNat
    let x (b k : Nat) : Int := signed 8 (byte (k * (nb + c.rk / 4) + b))
    let p (k t : Nat) : Nat := byte (k * (nb + c.rk / 4) + nb + t / 4) / 4 ^ (t % 4) % 4
    let q (t j : Nat) : Nat := byte (c.dw * (nb + c.rk / 4) + (j / 64 * c.rk + t) * 16 + j % 64 / 4) / 4 ^ (j % 4) % 4
    let code (v : Nat) : Int := if v = 1 then 1 else if v = 3 then -1 else 0
    let h (b t : Nat) : Int := ((List.range c.dw).map (fun k => x b k * code (p k t))).sum
    let clean := ∀ k t, k < c.dw → t < c.rk → p k t ≠ 2
    (∃ y : Nat → Nat → Int,
      (∀ b t, b < nb → t < c.rk → ∃ n : Nat, RoundsTo rne (h b t < 0) (|(h b t : ℝ)| / 2 ^ c.shift) n
        ∧ y b t = max (-128) (min 127 (if h b t < 0 then -(n : Int) else n)))
      ∧ ∀ j, j < c.nn →
        let score (b : Nat) : Int := ((List.range c.rk).map (fun t => y b t * code (q t j))).sum
        let m := loupeMax c nb st (loupeRows c nb st) j
        (∀ b, b < nb → score b ≤ m) ∧ ∃ b, b < nb ∧ m = score b)
    ∧ (clean → (∀ t j, t < c.rk → j < c.nn → q t j ≠ 2) → loupeBadCode c nb st = none)
    ∧ (∀ k t, k < c.dw → t < c.rk → p k t = 2 → (∀ i u, i < c.dw → u < c.rk → i < k ∨ (i = k ∧ u < t) → p i u ≠ 2) →
      loupeBadCode c nb st = some (BitVec.ofNat 64 (2 ^ 32 + k * 2 ^ 16 + t)))
    ∧ (∀ t j, clean → t < c.rk → j < c.nn → q t j = 2 →
      (∀ u i, u < c.rk → i < c.nn → i / 64 < j / 64 ∨ (i / 64 = j / 64 ∧ (u < t ∨ (u = t ∧ i < j))) → q u i ≠ 2) →
      loupeBadCode c nb st = some (BitVec.ofNat 64 (2 * 2 ^ 32 + t * 2 ^ 16 + j))))
  ∧ (∀ (c : LoupeCfg) (v : Nat), isNumber (fp32.decode c.acteps) = true →
    let eps := realOf (fp32.decode c.acteps)
    let a := bf16.decode v
    (c.yfmt = 0 → (isActive c v = true ↔ eps < |(signed 8 v : ℝ)|))
    ∧ (c.yfmt = 1 → (isNumber a = true → (isActive c v = true ↔ eps < |realOf a|)) ∧ (isNumber a = false → isActive c v = true)))
  ∧ ∀ (s : State) (d a : Reg) (t : BitVec 2),
    let aborted (q : State) : Prop := ∀ m, m ∈ q.thr.cmds ↔ m ∈ s.thr.cmds ∧ ¬ (m.chunk = s.cpu.num ∧ m.shape.dkind = 3)
    (let u : Use := { reads := [.x a], writes := [.x d], st := t, again := some .lcfg };
      Clear u s →
        (a = 0 → s.cpu.loupe = none → WritesX (.lcfg d a t) u d s 1)
        ∧ (a = 0 → s.cpu.loupe.isSome = true → ∃ t' : State, Completes (.lcfg d a t) u s (t'.wx d 0).advance ∧ t'.cpu.loupe = none
          ∧ t'.cpu.x = s.cpu.x ∧ t'.mem = s.mem ∧ aborted t')
        ∧ (∀ r, a ≠ 0 → s.readRecord (s.rx a) 128 64 = .ok r →
          (∀ off, s.badLoupe { bytes := r } = some off → Traps (.lcfg d a t) s causeIllstate (BitVec.ofNat 64 off))
          ∧ (s.badLoupe { bytes := r } = none →
            let bound (v : Dword) : Prop := ∃ t' : State, Completes (.lcfg d a t) u s (t'.wx d v).advance
              ∧ t'.cpu.loupe = some { cfg := r, pos := 0, base := 0, gone := 0, buf := [], taken := [], pred := none }
              ∧ t'.cpu.x = s.cpu.x ∧ t'.mem = s.mem ∧ ((∀ k, k ∈ s.younger → k.loupe = none) → aborted t')
            (s.cpu.loupe.isSome = true → bound 1)
            ∧ (s.cpu.loupe = none → s.loupeOlder = true → Waits (.lcfg d a t) u s (s.parkAs .lcfg d 0 0 0))
            ∧ (s.cpu.loupe = none → s.loupeOlder = false → bound 0))))
    ∧ (let u : Use := { reads := [.x a], writes := [.x d], st := t };
      let n := (s.rx a).toNat
      let bad := s.thr.cmds.find? (fun m => m.chunk == s.cpu.num && m.shape.dkind == 3 && m.fault.isSome)
      Clear u s →
        (s.cpu.loupe = none → Traps (.lpred d a t) s causeLease 0 ∧ Traps (.lproof d a t) s causeLease 0)
        ∧ (∀ l, s.cpu.loupe = some l →
          (n = 0 ∨ 128 < n → Traps (.lpred d a t) s causeIllstate (s.rx a))
          ∧ (∀ m, 0 < n → n ≤ 128 → bad = some m → Traps (.lpred d a t) s causeEngfault m.ticket)
          ∧ (0 < n → n ≤ 128 → bad = none → Waits (.lpred d a t) u s (s.parkAs .lpred d 0 (s.rx a) n t).loupeConsume)
          ∧ (l.pred = none → Traps (.lproof d a t) s causeIllstate (BitVec.allOnes 64))
          ∧ (∀ nb sc ov, l.pred = some (nb, sc, ov) →
            let c : LoupeCfg := { bytes := l.cfg }
            let z := if c.yfmt = 0 then 1 else 2
            let k := min sc (c.cap 1)
            (1 < nb → c.ystride < k * z → Traps (.lproof d a t) s causeIllstate 36)
            ∧ (∀ rows, nb ≤ 1 ∨ k * z ≤ c.ystride → s.proofRows (s.rx a) c.ystride z (k * z) nb = .ok rows →
              let m := ((List.range k).filter (fun e => rows.any (fun r => isActive c (field r (e * z) z)))).length
              let rep := ov.getLsbD 1 || decide (c.ebound < m * 2 ^ c.qexp)
              Completes (.lproof d a t) u s
                ((s.addLoupe [0, 0, 0, 0, m, 1, rep.toNat]).wx d (BitVec.ofNat 64 (min m 65535 * 65536 + rep.toNat))).advance))))
    ∧ (let u : Use := { held := true, reads := [.x a], writes := [.x d], st := t };
      let k := (s.rx a).toNat % 8
      let v := s.thr.lcnt.toList.getD k 0 + BitVec.ofNat 64 (s.cpu.lcnt.getD k 0)
      Clear u s →
        (k = 7 → Traps (.lstat d a t) s causeIllstate (s.rx a))
        ∧ (k < 7 → (s.rx a).getLsbD 3 = false → WritesX (.lstat d a t) u d s v)
        ∧ (k < 7 → (s.rx a).getLsbD 3 = true → Completes (.lstat d a t) u s (State.advance (State.wx
            { s with thr := { s.thr with lcnt := s.thr.lcnt.setIfInBounds k 0 }, cpu := { s.cpu with lcnt := s.cpu.lcnt.set k 0 } } d v))))
    ∧ (∀ p l, s.cpu.park = some p → p.kind = .lpred → s.cpu.loupe = some l →
      let bad := s.thr.cmds.find? (fun m => m.chunk == s.cpu.num && m.shape.dkind == 3 && m.fault.isSome)
      let c : LoupeCfg := { bytes := l.cfg }
      let cl := loupeClasses c p.c l.taken
      let n := c.dw * (p.c + c.rk / 4) + c.nn * c.rk / 4
      let over_ (k : Nat) : Nat := if c.cap k < (listOf cl k).length then 2 ^ k else 0
      let ov := over_ 0 + over_ 1 + over_ 2
      (∀ m, bad = some m → Gives .lpredCompletion s (s.loupeGiveUp.raise causeEngfault m.ticket))
      ∧ (bad = none → n ≤ l.taken.length →
        (∀ x, loupeBadCode c p.c l.taken = some x → Gives .lpredCompletion s
          (State.raise { s.loupeAdvance l n l.pred with cpu := { (s.loupeAdvance l n l.pred).cpu with park := none } } causeFmtcode x))
        ∧ (∀ y x, loupeBadCode c p.c l.taken = none → s.putLists c (listOf cl 0) (listOf cl 1) (listOf cl 2) = .error (.trap y x) →
          Gives .lpredCompletion s (s.loupeGiveUp.raise y x))
        ∧ (∀ q r, loupeBadCode c p.c l.taken = none → s.putLists c (listOf cl 0) (listOf cl 1) (listOf cl 2) = .ok q →
          s.cmaskOf [.x p.d] = some r → Gives .lpredCompletion s (s.loupeGiveUp.raise causeCmask (BitVec.ofNat 64 r)))
        ∧ (∀ q, loupeBadCode c p.c l.taken = none → s.putLists c (listOf cl 0) (listOf cl 1) (listOf cl 2) = .ok q →
          s.cmaskOf [.x p.d] = none → Gives .lpredCompletion s (((q.loupeAdvance l n (some (p.c, (listOf cl 1).length, BitVec.ofNat 3 ov))).addLoupe
            [1, (listOf cl 0).length, (listOf cl 1).length + (listOf cl 2).length, (listOf cl 1).length, 0, 0, 0]).finishParked p.d
            (BitVec.ofNat 64 ov))))
      ∧ (∀ j k, j ∈ listOf cl k ↔ j < c.nn ∧
        let m := loupeMax c p.c l.taken (loupeRows c p.c l.taken) j
        let drawn := (mix64 0 (c.sseed ^^^ BitVec.ofNat 64 j)).toNat % 2 ^ c.qexp = 0
        (k = 0 ∧ c.thhi ≤ m) ∨ (m < c.thhi ∧ c.thlo ≤ m ∧ ((k = 1 ∧ drawn) ∨ (k = 2 ∧ ¬ drawn)))))

/-! ## Deliveries, the scheduler, and the host interface -/

/-- R216, R217, R228, R229: a parked waitw reads its word again, and a last time at its limit; a message of another package is
delivered into its slot, header and payload first and COUNT last; a parked message is tried in the order of its source. The model's
choices here: log entries 17 (CMASK of a parked waitw is judged on completion), 75 (the INFO of a message to an endpoint that no
thread holds is a free value) and 91 (SEP is the sender's at the delivery). -/
def Obligations.WaitsAndDeliveries : Prop :=
  ∀ (s : State),
    (∀ p, s.cpu.park = some p → p.kind = .waitw →
      let r := s.present
      let n := p.c % 16
      let c := p.c / 16
      let y := p.b.toNat % 2 ^ (8 * n)
      let met (v : Nat) : Prop := if c = 0 then v = y else if c = 1 then v ≠ y else if c = 2 then v < y else y ≤ v
      (r.waitRead p.a n = .error .wait → Gives .waitwReread s r)
      ∧ (∀ q, r.waitRead p.a n = .error (.queue q) → Gives .waitwReread s (r.queueUp q))
      ∧ (∀ y x, r.waitRead p.a n = .error (.trap y x) → Gives .waitwReread s (State.raise { r with cpu := { r.cpu with park := none } } y x))
      ∧ ∀ v t, r.waitRead p.a n = .ok (v, t) →
        let ends (j : Instr) (q : State) (x : Dword) : Prop := Gives j s ((r.parkedCmask p.d).getD (q.finishParked p.d x))
        (met v → ∀ q, t.acquire 3 = .ok q → ends .waitwReread q 0)
        ∧ (¬ met v → t.limitPassed t.thr.wtime = true → ends .waitwReread t 1)
        ∧ (¬ met v → t.limitPassed t.thr.wtime = false → Gives .waitwReread s t)
        ∧ (s.limitPassed s.thr.wtime = true →
          (met v → ∀ q, t.acquire 3 = .ok q → ends .waitwTimeout q 0)
          ∧ (¬ met v → t.limitPassed t.thr.wtime = true → ends .waitwTimeout t 1)))
    ∧ (∀ spkg sep ep mbox ch user payload e m t u, s.endpoint ep = some e → s.mailbox e mbox = .ok (m, t) →
      m.cap ≠ 0 → m.waiting ≠ m.cap → payload.length ≤ 4096 → payload.length ≤ m.slotsz →
      t.deliver e mbox m spkg sep ch user payload = .ok u → Gives (.messageDelivery spkg sep ep mbox ch user payload) s u)
    ∧ (∀ (e : Endpoint) (mbox : Nat) (m : Mailbox) (spkg sep ch : Nat) (user : Dword) (payload : List Byte) (t u : State),
      let bytes := leBytes 2 spkg ++ leBytes 1 sep ++ leBytes 1 (ch % 4) ++ leBytes 2 payload.length ++ [0, 0] ++ leBytes 8 user.toNat
        ++ leBytes 8 m.count ++ List.replicate 40 0 ++ payload
      s.sysWritePieces e.root bytes (pieces (bytes.length + 1) (m.slot m.count) bytes.length) = .ok t →
      t.sysWrite e.root (e.base.toNat + 64 * (mbox % 4)) (leBytes 8 (m.count + 1)) = .ok u →
      s.deliver e mbox m spkg sep ch user payload = .ok u)
    ∧ (∀ (pre post : List Parked) (p : Parked) (x : Sender) (b payload : List Byte) (t1 t : State),
      s.host.parked = pre ++ p :: post →
      (∀ q, q ∈ pre → q.lid = p.lid → q.tix = p.tix →
        q.entry ≠ p.entry ∧ ¬ (q.pkg = p.pkg ∧ q.ep = p.ep ∧ q.mbox = p.mbox ∧ q.ch = p.ch)) →
      s.senderOf p.lid p.tix = some x →
      let va := entryVa x.base.toNat p.entry
      s.sysReadPieces x.root (pieces 2 va 64) = .ok (b, t1) →
      let r := MsgRecord.ofBytes (b.drop 8)
      t1.sysReadPieces x.root (pieces (r.len + 1) (va + 64) r.len) = .ok (payload, t) → p.pkg = t.plat.pkid.toNat →
      let ends (u : State) : Prop := Gives (.parkedMessageDelivery p.lid p.tix p.entry) s u
      (t.endpoint p.ep = none → ends ((t.undeliverable x p x.asid .wait (Config.messageVa t.tick)).getD s))
      ∧ (∀ e m q, t.endpoint p.ep = some e → t.mailbox e p.mbox = .ok (m, q) →
        (m.cap = 0 ∨ m.slotsz < r.len → ends ((q.undeliverable x p e.asid .wait (descriptorVa e.base.toNat p.mbox)).getD s))
        ∧ (m.cap ≠ 0 → r.len ≤ m.slotsz → m.waiting = m.cap → ends q)
        ∧ (∀ u w, m.cap ≠ 0 → r.len ≤ m.slotsz → m.waiting ≠ m.cap →
          q.deliver e p.mbox m q.plat.pkid.toNat x.sep p.ch r.user payload = .ok u → u.entryState x p 0 = some w →
          ends w ∧ p ∉ w.host.parked)))

/-- R346, R350, R364, R366, R367: a ready thread of the highest priority gets a free ring and goes on from its saved head; a
slice that ends, a long parked head and a thread of higher priority pre-empt; a save keeps the head; dependences that are met
make a launch's threads ready. The model's choices here: log entries 4 (an event that falls due in the future moves cyc there), 22
(what a save and a resumption move), 36 (the ring chosen) and 50 (what counts as parked). -/
def Obligations.SchedulerSteps : Prop :=
  ∀ (s : State),
    (∀ v r, s.candidateThread = some (v, r) →
      (∀ w, w ∈ s.saved → w.thr.st = .ready → s.quotaOk w.thr.lid = true → s.available w.thr ≠ [] → s.prioOf w.thr.lid ≤ 7 →
        s.prioOf w.thr.lid ≤ s.prioOf v.thr.lid)
      ∧ v ∈ s.saved ∧ v.thr.st = .ready ∧ r ∉ s.busyRings
      ∧ ((∀ b, v.block = some b → s.blockLost b = none ∧ s.blockWaits b = false) →
        ∃ t : State, Gives .placeThread s t ∧ (v.block.isSome = true → Gives (.resume v.thr.lid v.thr.tix) s t)
          ∧ t.live = true ∧ t.ring = r ∧ t.older = [] ∧ t.younger = [] ∧ t.thr.st = .running ∧ t.thr.lid = v.thr.lid
          ∧ t.thr.tix = v.thr.tix ∧ t.thr.sg = v.thr.sg ∧ t.thr.asid = v.thr.asid ∧ t.thr.pgroot = v.thr.pgroot
          ∧ t.thr.tvec = v.thr.tvec ∧ t.cpu.pc = v.head.pc ∧ t.cpu.x = v.head.x ∧ t.cpu.v = v.head.v ∧ t.cpu.k = v.head.k
          ∧ t.cpu.stat = v.head.stat ∧ v ∉ t.saved))
    ∧ (s.live = true → s.isHead = true →
      let q : State := { s with cyc := max s.cyc s.sliceEnd }
      let rival := q.contender (fun v => q.prioOf v.thr.lid == q.prioOf q.thr.lid)
      (rival = false → Gives .sliceExpiry s { q with thr := { q.thr with slice := q.cyc } })
      ∧ (∀ t, rival = true → q.canSave = true → q.saveThread .ready = .ok t → Gives .sliceExpiry s t))
    ∧ (∀ p, s.cpu.park = some p → s.live = true → s.isHead = true →
      let q : State := { s with cyc := max s.cyc (p.since + s.host.regs.wpark.toNat + 1) }
      let rival := q.longParked q.cpu
        && q.contender (fun v => decide (q.prioOf q.thr.lid ≤ q.prioOf v.thr.lid) && (q.available v.thr).isEmpty)
      (rival = false → Gives .wparkExpiry s q)
      ∧ (∀ t, rival = true → q.canSave = true → q.saveThread .ready = .ok t → Gives .wparkExpiry s t))
    ∧ (∀ t, s.live = true → s.isHead = true → s.contender s.isVictimOf = true → s.canSave = true → s.saveThread .ready = .ok t →
      Gives .preempt s t)
    ∧ (∀ k t, s.saveThread k = .ok t → t.live = false ∧ t.ring = s.ring
      ∧ ∃ v, v ∈ t.saved ∧ v.thr.lid = s.thr.lid ∧ v.thr.tix = s.thr.tix ∧ v.thr.st = k ∧ v.block.isSome = true
        ∧ v.thr.lastRing = some s.ring
        ∧ (s.cpu.park = none → s.cpu.trap = none → s.cpu.frame = none →
          v.head.pc = s.cpu.pc ∧ v.head.x = s.cpu.x ∧ v.head.v = s.cpu.v ∧ v.head.k = s.cpu.k ∧ v.head.stat = s.cpu.stat))
    ∧ (∀ lid l unmet t, s.launchOf lid = some l → l.deps ≠ [] → l.early = none →
      s.unmetDeps l.root l.sg 0 l.deps = .ok (unmet, t) →
      let ls := t.host.launches.map (fun (k : Launch) => if k.lid = lid then { k with deps := unmet } else k)
      let q : State := { t with host := { t.host with launches := ls } }
      (unmet ≠ [] → Gives (.dependenceReread lid) s q)
      ∧ (unmet = [] → ∃ u, Gives (.dependenceReread lid) s u ∧ u.mem = t.mem
        ∧ ∀ v, v ∈ u.saved → v.thr.lid = lid → v.thr.st ≠ .new))
    ∧ (∀ q c, (s.queue q).waits = [c] → field c 0 1 = 3 →
      (∀ t, s.waitevMet c = .ok (true, t) →
        Gives (.waitevReread q) s (((t.setQueue { t.queue q with waits := [] }).complete c 0 0).kick q))
      ∧ (∀ t, s.waitevMet c = .ok (false, t) → Gives (.waitevReread q) s t)
      ∧ (∀ code x t, s.waitevMet c = .error (.fail code x t) →
        Gives (.waitevReread q) s (((t.setQueue { t.queue q with waits := [] }).complete c code x).kick q)))

/-- R198, R354 to R356, R367, R373, R377, R378, R381, R384: writes of aperture registers, host reads, writes and snoops, and
requests of peers; what is not there is answered by an error and logged. An access of a line of a TRK page makes the link agent a
member of its chain. The model's choices here: log entries 47 and 95 (a QCTL write drops a command fetched ahead), 53 (the link agent
as a member), 80 (which lines those are) and 96 (the source port of an access). -/
def Obligations.HostInterface : Prop :=
  ∀ (s : State) (v w : BitVec 64) (d : BitVec 512),
    (s.plat.started = true → s.plat.hostLink = true →
      let regs (r : SchedRegs) : State := { s with host := { s.host with regs := r } }
      let src (pa : Nat) : Nat := 2 * 2 ^ 30 + pa / 2 ^ 12 % 2
      let known (off : Nat) : Prop := off % 8 = 0 ∧ (off < 0x10050 ∨ (0x10100 ≤ off ∧ off < 0x10300))
      (∀ off, off < 2 ^ 40 → ¬ known off → Gives (.registerWrite false off v) s
        { s.logError (2 ^ 50 + off) (src off) 2 with host := { (s.logError (2 ^ 50 + off) (src off) 2).host with reply := none } })
      ∧ Gives (.registerWrite false 0x10000 v) s (regs { s.host.regs with tslice := v &&& 0xFFFFFFFF })
      ∧ Gives (.registerWrite false 0x10008 v) s (regs { s.host.regs with wpark := v &&& 0xFFFFFFFF })
      ∧ Gives (.registerWrite false 0x10010 v) s (regs { s.host.regs with eqbase := v })
      ∧ (∀ off, off % 8 = 0 → (off = 0x10020 ∨ (0x10030 ≤ off ∧ off < 0x10050) ∨ (0x10100 ≤ off ∧ off < 0x10300)) →
        Gives (.registerWrite false off v) s s)
      ∧ Gives (.eqheadWrite v) s ((regs { s.host.regs with eqhead := v }).drainEvents s.host.events.length)
      ∧ Gives (.eqctlWrite v) s ((regs { s.host.regs with eqctl := v &&& 0x800000000000001F }).drainEvents s.host.events.length)
      ∧ (∀ q, q < 1024 →
        let b := s.queue q
        let m : Dword := v &&& 0xC0000FFF000F001F
        Gives (.registerWrite false (64 * q) v) s (s.setQueue { b with qbase := v })
        ∧ Gives (.registerWrite false (64 * q + 0x10) v) s ((s.setQueue { b with qtaila := v }).kick q)
        ∧ Gives (.registerWrite false (64 * q + 0x28) v) s (s.setQueue { b with qroot := v &&& 0x000FFFFFFFFF0000 })
        ∧ Gives (.registerWrite false (64 * q + 0x30) v) s (s.setQueue { b with qtvec := v &&& 0xFFFFFFFFFFFFFFFC })
        ∧ Gives (.registerWrite false (64 * q + 0x38) v) s (s.setQueue { b with qsegs := v })
        ∧ (v.getLsbD 63 = false → Gives (.qctlWrite q v) s (s.setQueue { b with qctl := m, held := none }))
        ∧ (v.getLsbD 63 = true →
          Gives (.qctlWrite q v) s ((s.setQueue { b with qctl := m, qhead := 0, qstat := 0, held := none }).kick q)))
      ∧ (∀ q pa t, (s.queue q).qtaila.toNat = pa → s.hostRefused pa 8 = none → bitsOf pa 50 2 ≠ 1 →
        s.hostPut pa (leBytes 8 v.toNat) = .ok t → Gives (.queueTailWrite q v) s (t.kickTails pa 8))
      ∧ (∀ off, off < 2 ^ 40 → known off →
        Gives (.hostRead (2 ^ 50 + off) 8) s { s with host := { s.host with reply := some ((s.readAperture off).setWidth 512) } })
      ∧ (∀ pa n, 0 < n → n ≤ 64 →
        (bitsOf pa 50 2 = 1 → n ≠ 8 → s.hostRefused pa n = some 2)
        ∧ (∀ c, s.hostRefused pa n = some c →
          let t := s.logError pa (src pa) c
          Gives (.hostRead pa n) s { t with host := { t.host with reply := none } }
            ∧ Gives (.hostWrite pa n d) s { t with host := { t.host with reply := none } })
        ∧ (s.hostRefused pa n = none → bitsOf pa 50 2 ≠ 1 →
          (∀ b t, s.hostFetch pa n = .ok (b, t) →
            Gives (.hostRead pa n) s { t with host := { t.host with reply := some (BitVec.ofNat 512 (leNat b)) } })
          ∧ (∀ t, s.hostPut pa (leBytes n d.toNat) = .ok t → Gives (.hostWrite pa n d) s (t.kickTails pa n)))))
    ∧ (∀ pa, bitsOf pa 50 2 = 0 → pa % 64 = 0 → s.trkLine (pa / 64) = true →
      (∀ b t, s.hostFetch pa 64 = .ok (b, t) → ∃ m, m ∈ chainOf t.coh.dir (pa / 64) ∧ m.ring = linkRing)
      ∧ (∀ bs t, bs.length ≤ 64 → s.hostPut pa bs = .ok t → ∃ m, chainOf t.coh.dir (pa / 64) = [m] ∧ m.ring = linkRing ∧ m.st = .owned))
    ∧ (∀ pa n, s.trkLine (pa / 64) = false → s.hostFetch pa n = s.paRead (pieces (n + 1) pa n)
      ∧ ∀ bs, s.hostPut pa bs = s.paWrite bs (pieces (bs.length + 1) pa bs.length))
    ∧ (∀ line inv,
      ((∃ e, e ∈ s.snoopFilter ∧ e.1 = line) → ∃ t, Gives (.hostSnoop line inv) s t ∧ t.host.reply = some 1
        ∧ (inv = true → ∀ x, x ∈ t.coh.siv → x.line ≠ line) ∧ t.cpu = s.cpu ∧ t.thr = s.thr)
      ∧ ((∀ e, e ∈ s.snoopFilter → e.1 ≠ line) → Gives (.hostSnoop line inv) s { s with host := { s.host with reply := some 0 } }))
    ∧ (∀ pa n b t, s.plat.started = true → pa < 2 ^ 40 → n ∈ [1, 2, 4, 8] → pa % n = 0 → s.homeRead pa n = .ok (b, t) →
      let old := leNat b
      let put (q : State) (x : Nat) : State := { q.purgeLine (pa / 64) with host := { (q.purgeLine (pa / 64)).host with reply := some (BitVec.ofNat 512 x) } }
      Gives (.peerRequest 0 pa n v w) s { t with host := { t.host with reply := some (BitVec.ofNat 512 old) } }
      ∧ (∀ q, s.homeWrite pa (leBytes n v.toNat) = .ok q → Gives (.peerRequest 1 pa n v w) s (put q 0))
      ∧ (∀ k op q, (k, op) ∈ [(2, RmwOp.swap), (3, .add), (4, .and), (5, .or), (6, .xor), (7, .min), (8, .max), (9, .minu), (10, .maxu)] →
        t.homeWrite pa (leBytes n (rmwInt op n old v.toNat)) = .ok q → Gives (.peerRequest k pa n v w) s (put q old))
      ∧ (∀ q, t.homeWrite pa (leBytes n (if old = v.toNat % 2 ^ (8 * n) then w.toNat else old)) = .ok q →
        Gives (.peerRequest 11 pa n v w) s (put q old)))
    ∧ Gives .hostLinkDown s { s with plat := { s.plat with hostLink := false } }
    ∧ (∀ q tw t1 c t2,
      let b := s.queue q
      b.qctl.getLsbD 63 = true → b.qstat.getLsbD 63 = false → b.held = none → 4 ≤ b.lsize → b.lsize ≤ 16 →
      s.pronorRead b.asid b.qtaila.toNat 8 0 = .ok (tw, t1) →
      let n := (BitVec.ofNat 64 (leNat tw) - b.qhead).toNat
      0 < n → n ≤ 2 ^ b.lsize →
      t1.pronorRead b.asid (b.qbase.toNat + 128 * (b.qhead.toNat % 2 ^ b.lsize)) 128 0 = .ok (c, t2) →
      s.fetchCommand q = .got (t2.setQueue { b with held := some c, qhead := b.qhead + 1 }))

/-! ## Pronor's commands and the platform -/

/-- R356 to R361, R363 to R365, R406, R411: the command that a queue has fetched and may start: bad fields, PERM, and each
command's effect with its completion; what a launch's threads start with. The model's choices here: log entries 15 (the bytes of an
ATTEST exchange), 20 (QUERY), 34 (MIGRATE), 35, 37, 40 (LOADIMG), 44, 47, 48 (a thread's exit code), 60, 76, 77 (ENTRY) and 105 (BADCMD
before PERM). -/
def Obligations.Commands : Prop :=
  ∀ (s : State) (q : Nat) (c : List Byte), (s.queue q).held = some c → (s.queue q).startable c = true →
    let b := s.queue q
    let arg (off n : Nat) : Nat := field c (32 + off) n
    let asid : BitVec 12 := BitVec.ofNat 12 (field c 2 2)
    let va := arg 0 8 % 2 ^ 57
    let root := bitsOf (arg 8 8) 16 36 * 2 ^ 16
    let opc (n : Nat) : Prop := field c 0 1 = n
    let ends (j : Instr) (t : State) (code x : Nat) : Prop := Gives j s (t.endCommand q c code x)
    (∀ j n, (j, n) ∈ [(Instr.launch q, 1), (.signal q, 2), (.waitev q, 3), (.map q, 4), (.unmap q, 5), (.migrate q, 6), (.copy q, 7),
        (.query q, 8), (.attest q, 10), (.loadimg q, 11)] → opc n → (n = 6 → s.host.moves.find? (fun m => m.queue == q) = none) →
      (4 ≤ field c 1 1 → ends j s 1 1)
      ∧ (field c 1 1 < 4 → 4096 ≤ field c 2 2 → ends j s 1 2)
      ∧ (field c 1 1 < 4 → field c 2 2 < 4096 → field c 4 4 ≠ 0 → ends j s 1 4)
      ∧ (field c 1 1 < 4 → field c 2 2 < 4096 → field c 4 4 = 0 → cmdCen c = true → field c 8 8 % 16 ≠ 0 → ends j s 1 8))
    ∧ (headBad c = none →
      (b.priv = false →
        (opc 4 → arg 24 1 = 2 ∨ arg 24 1 = 3 → arg 25 71 = 0 → ends (.map q) s 4 0)
        ∧ (opc 5 → arg 16 8 = 0 → arg 24 1 = 2 ∨ arg 24 1 = 3 → arg 25 71 = 0 → ends (.unmap q) s 4 0)
        ∧ (opc 6 → arg 24 72 = 0 → s.host.moves.find? (fun m => m.queue == q) = none → ends (.migrate q) s 4 0)
        ∧ (opc 7 → arg 16 8 < 2 ^ 32 → arg 24 72 = 0 → ends (.copy q) s 4 0))
      ∧ (b.priv = false → opc 9 → arg 1 3 = 0 → arg 8 88 = 0 → ∀ fails,
        (arg 0 1 = 1 → ends (.resetWarm q fails) s 4 0) ∧ (arg 0 1 = 2 → ends (.resetCold q fails) s 4 0))
      ∧ (b.priv = false → asid ≠ b.asid →
        (opc 1 → arg 0 8 % 64 = 0 → arg 8 88 = 0 → ends (.launch q) s 4 0)
        ∧ (opc 2 → arg 32 64 = 0 → ends (.signal q) s 4 0)
        ∧ (opc 3 → arg 16 80 = 0 → ends (.waitev q) s 4 0)
        ∧ (opc 8 → arg 0 1 ≤ 2 → arg 1 3 = 0 → arg 12 4 = 0 → arg 24 72 = 0 → ends (.query q) s 4 0)
        ∧ (opc 9 → arg 0 1 = 0 → arg 1 3 = 0 → arg 8 88 = 0 → ends (.resetLaunch q) s 4 0)
        ∧ (opc 10 → 4 ≤ arg 8 8 → arg 8 8 ≤ 4096 → arg 32 64 = 0 → ends (.attest q) s 4 0)
        ∧ (opc 11 → arg 32 64 = 0 → ends (.loadimg q) s 4 0))
      ∧ (b.priv = true ∨ asid = b.asid →
        (opc 1 → arg 0 8 % 64 = 0 → arg 8 88 = 0 →
          (4096 ≤ s.host.launches.length → ends (.launch q) s 3 0)
          ∧ (∀ bs t, s.host.launches.length < 4096 → s.pronorRead asid (arg 0 8) 256 32 = .ok (bs, t) →
            let r : LaunchRec := { bytes := bs }
            let owner : List (BitVec 12) := BitVec.ofNat 12 r.asid :: (if b.priv then [] else [b.asid])
            (∀ o, t.badRec r owner (some b.pmax) = some o → ends (.launch q) t 2 o)
            ∧ (∀ lid u, t.badRec r owner (some b.pmax) = none → b.priv = true → t.admitLaunch (launchAdmit q b c r none) = .ok (lid, u) →
              ends (.launch q) u 0 lid)
            ∧ (∀ v t', t.badRec r owner (some b.pmax) = none → b.priv = false → t.template b asid = .ok (v, t') →
              (launchRefused b r v = true → ends (.launch q) t' 4 0)
              ∧ (∀ lid u, launchRefused b r v = false → t'.admitLaunch (launchAdmit q b c r v) = .ok (lid, u) →
                ends (.launch q) u 0 lid))))
        ∧ (opc 2 → arg 32 64 = 0 →
          let lid := arg 0 4
          let tix := arg 4 4
          let raised := s.raiseHostirq lid tix (BitVec.ofNat 64 (arg 8 8))
          let written := s.pronorWrite asid (arg 16 8) (leBytes 8 (arg 24 8)) 48
          (lid = 0xFFFFFFFF → arg 16 8 = 0 → ends (.signal q) s 0 0)
          ∧ (lid = 0xFFFFFFFF → arg 16 8 ≠ 0 → (∀ w, written = .ok w → ends (.signal q) w 0 0)
            ∧ ∀ code x w, written = .error (.fail code x w) → ends (.signal q) w code x)
          ∧ (lid ≠ 0xFFFFFFFF → (∀ t, t ∈ s.threads → ¬ (t.lid = lid ∧ t.tix = tix)) → ends (.signal q) s 3 0)
          ∧ (∀ t, lid ≠ 0xFFFFFFFF → s.threads.find? (fun t => t.lid == lid && t.tix == tix) = some t →
            (t.asid ≠ asid → ends (.signal q) s 4 0)
            ∧ (t.asid = asid → t.hostirq.isSome = true → ends (.signal q) s 9 0)
            ∧ (t.asid = asid → t.hostirq = none → arg 16 8 = 0 → ends (.signal q) raised 0 0
              ∧ ∀ x, x ∈ raised.threads → x.lid = lid → x.tix = tix → x.hostirq = some (BitVec.ofNat 64 (arg 8 8)))
            ∧ (t.asid = asid → t.hostirq = none → arg 16 8 ≠ 0 →
              (∀ w, written = .ok w → ends (.signal q) (w.raiseHostirq lid tix (BitVec.ofNat 64 (arg 8 8))) 0 0
                ∧ ∀ x, x ∈ (w.raiseHostirq lid tix (BitVec.ofNat 64 (arg 8 8))).threads → x.lid = lid → x.tix = tix →
                  x.hostirq = some (BitVec.ofNat 64 (arg 8 8)))
              ∧ ∀ code x w, written = .error (.fail code x w) → ends (.signal q) w code x)))
        ∧ (opc 3 → arg 16 80 = 0 →
          (∀ t, s.waitevMet c = .ok (true, t) → ends (.waitev q) t 0 0)
          ∧ (∀ t, s.waitevMet c = .ok (false, t) →
            Gives (.waitev q) s (State.kick (t.setQueue { t.queue q with held := none, waits := (t.queue q).waits ++ [c] }) q)))
        ∧ (opc 8 → arg 0 1 ≤ 2 → arg 1 3 = 0 → arg 12 4 = 0 → arg 24 72 = 0 →
          (∀ code, s.queryRefused b c = some code → ends (.query q) s code 0)
          ∧ (∀ t, s.queryRefused b c = none → s.pronorWrite asid (arg 16 8) ((List.range 64).map (Config.queryByte (s.queryContents c))) 48 = .ok t →
            ends (.query q) t 0 0))
        ∧ (opc 9 → arg 0 1 = 0 → arg 1 3 = 0 → arg 8 88 = 0 →
          (s.launchOf (arg 4 4) = none → ends (.resetLaunch q) s 3 0)
          ∧ (∀ l, s.launchOf (arg 4 4) = some l →
            (b.priv = false → l.asid ≠ asid → ends (.resetLaunch q) s 4 0)
            ∧ (b.priv = true ∨ l.asid = asid → ends (.resetLaunch q) (s.endLaunch (arg 4 4)) 0 0)))
        ∧ (opc 10 → 4 ≤ arg 8 8 → arg 8 8 ≤ 4096 → arg 32 64 = 0 →
          ∀ req t, s.pronorRead asid (arg 0 8) (arg 8 8) 32 = .ok (req, t) →
            let rsp := (t.spdm true req).1
            let u : State := { t with host := { t.host with spdmAttest := t.host.spdmAttest ++ [field req 1 1] } }
            (arg 24 8 < rsp.length → ends (.attest q) u 1 56)
            ∧ (∀ v, rsp.length ≤ arg 24 8 → u.pronorWrite asid (arg 16 8) rsp 48 = .ok v → ends (.attest q) v 0 rsp.length))
        ∧ (opc 11 → arg 32 64 = 0 → ∀ h f t, s.freshHandle = some h → s.pronorRead asid (arg 0 8) (arg 8 8) 32 = .ok (f, t) →
          let space : Dword := BitVec.ofNat 64 (bitsOf (arg 16 8) 16 36 * 2 ^ 16)
          (∀ i, ikxParse f = .error i → ends (.loadimg q) t 5 i)
          ∧ (∀ x u, ikxParse f = .ok x → t.placeSections asid space (arg 24 8 % 2 ^ 57) x.secs = .ok u →
            let img : Image := x.image h asid space (BitVec.ofNat 64 (arg 24 8))
            ends (.loadimg q) { u with host := { u.host with images := u.host.images ++ [img] } } 0 h)))
      ∧ (b.priv = true →
        (opc 4 → arg 24 1 = 2 ∨ arg 24 1 = 3 → arg 25 71 = 0 →
          let leaf : Dword := BitVec.ofNat 64 (arg 16 8)
          let size := if pteRights leaf then arg 24 1 else 3
          (pteRep leaf = false → s.namesReserved size (pteBase leaf) = true → ends (.map q) s 4 0)
          ∧ (pteRep leaf = true ∨ s.namesReserved size (pteBase leaf) = false →
            (∀ l, s.slotFrom va (arg 24 1) false 4 0 root = .missing l → ends (.map q) s 7 l)
            ∧ (∀ addr e l, s.slotFrom va (arg 24 1) false 4 0 root = .at_ addr e l →
              (pteV e = true → s.shootReady (s.pageShoot asid l va) = false → Gives (.map q) s s)
              ∧ (pteV e = false ∨ s.shootReady (s.pageShoot asid l va) = true → ∀ t,
                (if pteV e then s.shootPage asid l va else s).pronorWrite asid addr (leBytes 8 leaf.toNat) 40 = .ok t →
                ends (.map q) t 0 0))))
        ∧ (opc 5 → arg 16 8 = 0 → arg 24 1 = 2 ∨ arg 24 1 = 3 → arg 25 71 = 0 →
          ∀ addr e l, s.slotFrom va (arg 24 1) false 4 0 root = .at_ addr e l →
            (s.shootReady (s.pageShoot asid l va) = false → Gives (.unmap q) s s)
            ∧ (s.shootReady (s.pageShoot asid l va) = true → ∀ t,
              s.pronorWrite asid addr (leBytes 8 (e &&& ~~~(1#64)).toNat) 40 = .ok t →
              ends (.unmap q) (t.shootPage asid l va) 0 0))
        ∧ (opc 6 → arg 24 72 = 0 → s.host.moves.length < 4 → s.host.moves.find? (fun m => m.queue == q) = none →
          ∀ addr e l, s.slotFrom va 3 true 4 0 root = .at_ addr e l →
          (pteV e = false → ends (.migrate q) s 7 l)
          ∧ (pteV e = true → pteRep e = true → ends (.migrate q) s 1 32)
          ∧ (pteV e = true → pteRep e = false → pteBad s l e = true → ends (.migrate q) s 7 l)
          ∧ (pteV e = true → pteRep e = false → pteBad s l e = false → arg 16 8 % 2 ^ pageBits l ≠ 0 ∨ 2 ^ 52 ≤ arg 16 8 →
            ends (.migrate q) s 1 48)
          ∧ (pteV e = true → pteRep e = false → pteBad s l e = false → arg 16 8 % 2 ^ pageBits l = 0 → arg 16 8 < 2 ^ 52 →
            (s.namesReserved l (arg 16 8) = true → ends (.migrate q) s 4 0)
            ∧ (s.namesReserved l (arg 16 8) = false → s.shootReady (s.pageShoot asid l va) = false → Gives (.migrate q) s s)
            ∧ (s.namesReserved l (arg 16 8) = false → s.shootReady (s.pageShoot asid l va) = true →
              let f : Leaf := { level := l, addr := addr, entry := e, rep := none, root := BitVec.ofNat 64 root }
              let t : State := { s with host := { s.host with moves := s.host.moves ++ [{ queue := q, cmd := c, leaf := f }] } }
              let u := t.shootPage asid l va
              Gives (.migrate q) s (State.kick (u.setQueue { u.queue q with held := none, waits := (u.queue q).waits ++ [c] }) q))))
        ∧ (opc 7 → arg 16 8 < 2 ^ 32 → arg 24 72 = 0 →
          let n := arg 16 8
          (s.touchesReserved (arg 0 8) n = true ∨ s.touchesReserved (arg 8 8) n = true → ends (.copy q) s 4 0)
          ∧ (∀ bs t u, s.touchesReserved (arg 0 8) n = false → s.touchesReserved (arg 8 8) n = false →
            arg 8 8 + n ≤ arg 0 8 ∨ arg 0 8 + n ≤ arg 8 8 → s.pronorRead asid (arg 0 8) n 32 = .ok (bs, t) →
            t.pronorWrite asid (arg 8 8) bs 40 = .ok u → ends (.copy q) u 0 0))
        ∧ (opc 9 → arg 1 3 = 0 → arg 8 88 = 0 → ∀ fails cold, arg 0 1 = (if cold then 2 else 1) →
          let j : Instr := if cold then .resetCold q fails else .resetWarm q fails
          let t := s.start cold fails
          (t.plat.started = true → ends j t 0 0)
          ∧ (t.plat.started = false → ends j t 10 (bitsOf (t.readMgmt 0).toNat 0 16)))))
    ∧ (∀ (t u v w : State) (m : Migration) (bs : List Byte), t.host.moves.find? (fun m => m.queue == q) = some m →
      (t.queue q).held = none →
      let e := m.leaf.entry
      let new := field m.cmd 48 8
      let owner : BitVec 12 := BitVec.ofNat 12 (field m.cmd 2 2)
      t.pronorRead owner (pteBase e) (2 ^ pageBits m.leaf.level) 32 = .ok (bs, u) → u.pronorWrite owner new bs 48 = .ok v →
      v.pronorWrite owner m.leaf.addr (leBytes 8 (setField e 16 36 (bitsOf new 16 36)).toNat) 40 = .ok w →
      let r : State := { w with host := { w.host with moves := w.host.moves.erase m } }
      Gives (.migrate q) t
        (((r.setQueue { r.queue m.queue with waits := (r.queue m.queue).waits.erase m.cmd }).complete m.cmd 0 0).kick m.queue))
    ∧ (∀ (t : State) (code x : Nat), code < 2 ^ 16 → x < 2 ^ 32 →
      let pa := field c 8 8
      cmdCen c = true → pa % 16 = 0 → pa < 2 ^ 40 → (∀ l, l ∈ t.coh.llc → l.2 = false) →
      t.plat.queued = [] → t.asks = [] → t.plat.poison = [] → t.plat.soft = [] → chainOf t.coh.dir (pa / 64) = [] →
      purging t.coh.dir (pa / 64) = false → (t.stack (stackOf pa)).refresh = false → (t.stack (stackOf pa)).training = [] →
      (t.complete c code x).mem =
        Memory.setBytes (Memory.setBytes t.mem (pa + 8) (leBytes 8 (code + x * 2 ^ 16))) pa (leBytes 8 (field c 16 8)))
    ∧ (∀ (a : Admit) (img : Image) (t u : State) (lid k : Nat), t.imageOf a.record.image = some img → t.admitLaunch a = .ok (lid, u) →
      k < a.record.nthr →
      ∃ w, w ∈ u.saved ∧ w.thr.lid = lid ∧ w.thr.tix = k ∧ w.thr.asid = a.asid ∧ w.thr.sg = a.sg ∧ w.thr.cores = a.record.cores
        ∧ (w.thr.st = .new ∨ w.thr.st = .ready) ∧ w.block = none
        ∧ w.head.pc = BitVec.ofNat 64 ((img.entries.getD a.record.entry (0, 0)).1 % 2 ^ 61 / 4 * 4)
        ∧ w.head.x.get 3 = field64 a.record.bytes 0x20 ∧ w.head.x.get 4 = lspOf a.sg
        ∧ (∀ n : Fin 32, n ≠ 3 → n ≠ 4 → w.head.x.get n = 0) ∧ w.head.seed = field64 a.record.bytes 0x38)

/-- R4, R375, R379, R400 to R405, R412, R413: the power controller, junctions and input voltage; stacks in retraining and
self-refresh; scrubbing and memory errors; dies out of and into service; management registers. The model's choices here: log
entries 4 (an event that falls due in the future moves cyc there), 38 (what a scrub counts, and which errors are soft), 39 (when a die
leaves service) and 83 (both transfers of a management register are one step). -/
def Obligations.PlatformEvents : Prop :=
  ∀ (s : State),
    (s.plat.started = true →
      (∀ pkg dieW stackW, ∃ t, Gives (.powerEvaluation pkg dieW stackW) s t ∧ ∀ i : Fin 32,
        let d := s.plat.dies.get i
        let e := t.plat.dies.get i
        let g := s.plat.mgmt
        let m : List (Nat × Nat) := [(pkg, g.pkglim.toNat), (dieW.getD i.val 0, g.dielim.toNat), (stackW.getD (i.val / 4) 0, g.stklim.toNat), (stackW.getD (i.val / 4 + 8) 0, g.stklim.toNat)]
        let hot := ∃ p, p ∈ m ∧ p.2 < p.1
        let cool := ∀ p, p ∈ m → 10 * p.1 < 9 * p.2
        e.inService = d.inService ∧ (hot → e.level = min 5 (d.level + 1)) ∧ (¬ hot → cool → 9 ≤ d.calm → e.level = d.level - 1)
          ∧ (¬ hot → ¬ cool ∨ d.calm < 9 → e.level = d.level))
      ∧ (∀ die, ∃ t, Gives (.dieJunctionHot die) s t ∧ ∀ i : Fin 32,
        (t.plat.dies.get i).level = if i.val = die then 5 else (s.plat.dies.get i).level)
      ∧ (∀ k ch, k < 16 → ch < 32 → (s.stack k).refresh = false → ∃ t, Gives (.hbmRetrain k ch) s t ∧ ch ∈ (t.stack k).training
        ∧ (∀ x, x ≠ k → t.stack x = s.stack x)
        ∧ ∀ n, (s.stack k).trained = [(ch, n)] → t.cyc = max s.cyc (n + 940 * max 1000 s.plat.mgmt.rti.toNat))
      ∧ (∀ pa, pa < 2 ^ 40 → (s.stack (stackOf pa)).refresh = false →
        (s.poisoned pa 1 = true → Gives (.patrolScrub pa) s (s.chargeMemerr none pa))
        ∧ (s.poisoned pa 1 = false → ∃ t, Gives (.patrolScrub pa) s t ∧ t.mem = s.mem
          ∧ (t.plat.mgmt.cecnt = s.plat.mgmt.cecnt ∨ t.plat.mgmt.cecnt = s.plat.mgmt.cecnt + 1)))
      ∧ (∀ pa (charged : Bool) asid,
        let who : Option (BitVec 12) := if charged then some asid else none
        let hard : State := { s with plat := { s.plat with poison := addNew (pa / 32) s.plat.poison } }
        let soft := s.softError pa
        (pa < 2 ^ 40 → Gives (.memerr pa charged asid) s (hard.chargeMemerr who pa)
          ∨ (s.dirtyWord pa = true ∧ Gives (.memerr pa charged asid) s (soft.chargeMemerr who pa)))
        ∧ (bitsOf pa 50 2 = 2 → s.dirtyWord pa = true → Gives (.memerr pa charged asid) s (soft.chargeMemerr who pa))
        ∧ (∀ n, 0 < n → s.key pa = some pa → soft.poisoned pa n = true ∧ (pa < 2 ^ 40 → hard.poisoned pa n = true)))
      ∧ (∀ die (h : die < 32), (∀ r, r ∈ s.busyRings → r / 8 ≠ die) →
        ∀ j, j ∈ [Instr.dieReset die, .diePowerGating die] → ∃ t, Gives j s t
          ∧ (t.plat.dies.get ⟨die, h⟩).inService = !(s.plat.dies.get ⟨die, h⟩).inService
          ∧ ((s.plat.dies.get ⟨die, h⟩).inService = true →
            (∀ x, x ∈ t.coh.siv → x.ring / 8 ≠ die) ∧ (∀ line, ∀ m, m ∈ chainOf t.coh.dir line → m.ring / 8 ≠ die)
            ∧ (∀ x, x ∈ t.coh.tlb → x.die ≠ die) ∧ (∀ x, x ∈ t.coh.icache → x.ring / 8 ≠ die))))
    ∧ (∀ j, (∃ die, j = Instr.dieJunctionTrip die ∧ s.plat.power = true) ∨ (∃ volts, j = .inputOutOfRange volts ∧ (volts < 40 ∨ 60 < volts)) →
      ∃ t, Gives j s t ∧ t.plat.power = false ∧ t.plat.started = false ∧ t.plat.hostLink = false ∧ t.live = false ∧ t.others = []
        ∧ t.saved = [])
    ∧ (∀ volts, 40 ≤ volts → volts ≤ 60 → Gives (.inputOutOfRange volts) s { s with plat := { s.plat with volts := volts } })
    ∧ (s.plat.volts < 40 ∨ 60 < s.plat.volts → ∀ fails, Gives (.powerOn fails) s s)
    ∧ (∀ k ch, k < 16 →
      let with_ (j : Instr) (p : Stack → Prop) : Prop := ∃ t, Gives j s t ∧ p (t.stack k) ∧ t.mem = s.mem ∧ ∀ x, x ≠ k → t.stack x = s.stack x
      (ch ∈ (s.stack k).training → with_ (.hbmRetrainEnd k ch) (fun z => ch ∉ z.training ∧ z.refresh = (s.stack k).refresh))
      ∧ (s.plat.power = true → with_ (.stackCriticalTemp k) (fun z => z.critical = true ∧ z.refresh = true
        ∧ ((s.stack k).refresh = false → z.training = [] ∧ z.since = s.cyc ∧ z.spent = 0)))
      ∧ ((s.stack k).critical = true →
        with_ (.criticalTemperatureCleared k) (fun z => z.critical = false ∧ z.refresh = (s.stack k).refresh))
      ∧ (let exit_ := max s.cyc ((s.stack k).cool + 940 * 1000)
        let limit := (s.stack k).since + (940 * max 1000 s.plat.mgmt.tsrmax.toNat - (s.stack k).spent)
        let first := (s.stack k).critical = true ∨ limit < exit_
        ((s.stack k).refresh = true → (s.stack k).critical = false →
          ∃ t, Gives (.selfRefreshExit k) s t ∧ (t.stack k).refresh = false ∧ (t.stack k).expired = false
            ∧ (∀ x, x ≠ k → t.stack x = s.stack x) ∧ t.cyc = exit_
            ∧ ((s.stack k).expired = true ∨ ¬ first → t.mem = s.mem ∧ t.plat.queued = s.plat.queued))
        ∧ ((s.stack k).refresh = true → (s.stack k).expired = false → first → ∃ t, Gives (.tsrMaxExpiry k) s t
          ∧ (t.stack k).refresh = true ∧ (t.stack k).expired = true ∧ (∀ x, x ≠ k → t.stack x = s.stack x) ∧ t.cyc = max s.cyc limit
          ∧ (s.plat.queued = [] → s.plat.due = [] → s.waitingFor k = [] → t.mem = s.mem))
        ∧ ((s.stack k).expired = true ∨ ¬ first → Gives (.tsrMaxExpiry k) s s)))
    ∧ (s.plat.power = true → ∀ v : BitVec 64,
      let mgmt (g : MgmtRegs) : State := { s with plat := { s.plat with mgmt := g } }
      let put (off : Nat) (g : MgmtRegs) : Prop := Gives (.registerWrite true off v) s (mgmt g)
      put 0x10 { s.plat.mgmt with rti := v &&& 0xFFFFFFFF }
      ∧ put 0x18 { s.plat.mgmt with tsrmax := v &&& 0xFFFFFFFF }
      ∧ put 0x20 { s.plat.mgmt with pkglim := BitVec.ofNat 64 (min 6600 (v.toNat % 2 ^ 16)) }
      ∧ put 0x28 { s.plat.mgmt with dielim := v &&& 0xFFFF }
      ∧ put 0x30 { s.plat.mgmt with stklim := v &&& 0xFFFF }
      ∧ put 0x38 { s.plat.mgmt with pkid := v &&& 0x3FF }
      ∧ (v.toNat % 4 = 1 → Gives (.registerWrite true 0x08 v) s (s.start false []))
      ∧ (v.toNat % 4 = 2 → Gives (.registerWrite true 0x08 v) s (s.start true []))
      ∧ (∀ off, off ∉ [0x08, 0x10, 0x18, 0x20, 0x28, 0x30, 0x38] → Gives (.registerWrite true off v) s s))

/-- R401, R406 to R409, R411: starts: what a successful one leaves, that a step which times out is tried again and that three
failures lead to recovery; the firmware image written there; and SPDM requests, which only note what they ask, and
whose answers depend on the chain, the alias key and the measurements, and offer of the algorithms asked for ECDSA on P-256 and
SHA-256 alone (the request codes and what answers hold are the model's choice, log entry 15; a start's details, log entries 51 and 81). -/
def Obligations.StartsAndSpdm : Prop :=
  ∀ (s : State),
    let runs (t : State) : Prop := t.plat.started = true ∧ t.plat.mgmt.reason = 0 ∧ t.plat.mgmt.fails = 0 ∧ t.plat.mgmt.step = 8
      ∧ t.plat.mgmt.recov = false ∧ t.live = false ∧ t.others = [] ∧ t.saved = [] ∧ t.host.launches = [] ∧ t.host.queues = []
      ∧ t.coh = Coherence.empty ∧ t.cyc = 0
    let cold (t : State) : Prop := runs t ∧ (∀ a, a < 2 ^ 40 → Memory.get t.mem a = 0) ∧ t.plat.poison = [] ∧ t.plat.hostLink = true
      ∧ t.plat.keys = true ∧ t.plat.fwMin = max s.plat.fwMin s.plat.fwVersion
      ∧ t.plat.aliasKey = Config.aliasKey Config.identityKey t.measurements.flatten
      ∧ t.plat.mgmt.rti = 100000 ∧ t.plat.mgmt.tsrmax = 50000 ∧ t.plat.mgmt.pkglim = 6600 ∧ t.plat.mgmt.dielim = 300
      ∧ t.plat.mgmt.stklim = 60
    (s.firmwareReason = none →
      (s.plat.power = false → 40 ≤ s.plat.volts → s.plat.volts ≤ 60 →
        ∃ t, Gives (.powerOn []) s t ∧ cold t ∧ t.plat.power = true ∧ t.plat.pkid = 0)
      ∧ (s.plat.power = true →
        (∃ t, Gives (.startcmdCold []) s t ∧ cold t ∧ t.plat.pkid = s.plat.mgmt.pkid.setWidth 10)
        ∧ (∃ t, Gives (.startcmdWarm []) s t ∧ runs t ∧ t.plat.pkid = s.plat.pkid ∧ t.plat.mgmt.rti = s.plat.mgmt.rti
          ∧ t.plat.mgmt.tsrmax = s.plat.mgmt.tsrmax ∧ t.plat.mgmt.pkglim = s.plat.mgmt.pkglim)
        ∧ (∀ k, 1 ≤ k → k ≤ 8 → s.plat.mgmt.fails = 0 → ∃ t, Gives (.startStepTimeout k []) s t ∧ cold t)
        ∧ (s.plat.mgmt.fails = 0 → ∃ t, Gives (.startcmdCold [(1, 1), (1, 1), (1, 1)]) s t ∧ t.plat.started = false
          ∧ t.plat.mgmt.recov = true ∧ t.plat.mgmt.reason = 1 ∧ t.plat.mgmt.fails = 3)))
    ∧ (∀ v img, s.plat.power = true → s.plat.mgmt.recov = true →
      Gives (.firmwareStagingWrite v img) s { s with plat := { s.plat with fwVersion := v, fwImage := some img } })
    ∧ (∀ (at_ : Bool) (req : List (BitVec 8)) (j : Instr), s.plat.power = true → (at_ = true → s.plat.started = true) →
      let code := field req 1 1
      ((j, code) ∈ [(Instr.getVersion at_ req, 0x84), (.getCapabilities at_ req, 0xE1), (.negotiateAlgorithms at_ req, 0xE3),
          (.getDigests at_ req, 0x81), (.getCertificate at_ req, 0x82), (.challenge at_ req, 0x83), (.getMeasurements at_ req, 0xE0)]
        ∨ (j = .unsupportedRequest at_ req ∧ code ∉ [0x84, 0xE1, 0xE3, 0x81, 0x82, 0x83, 0xE0])) →
      let h := s.host
      let refused : Prop := j = .unsupportedRequest at_ req ∨ (code = 0x82 ∧ field req 2 1 % 16 ≠ 0)
      let seen := if at_ then h.spdmAttest else h.spdmI3c
      ∀ rsp : List Byte, (refused → rsp = [0x12, 0x7F, 0x07, BitVec.ofNat 8 code]) →
        (¬ refused →
          let answer := Config.spdmResponse at_ seen (Config.certChain Config.identityKey) s.plat.aliasKey s.measurements.flatten req
          rsp = if code = 0xE3 then spdmOffer req answer else answer) →
        (at_ = true → Gives j s { s with host := { h with spdmOut := rsp, spdmAttest := seen ++ [code] } })
        ∧ (at_ = false → Gives j s { s with host := { h with spdmOut := rsp, spdmI3c := seen ++ [code] } }))
    ∧ (∀ req answer : List Byte, field req 1 1 = 0xE3 →
      let r := spdmOffer req answer
      field r 12 4 = (if (field req 8 4).testBit 4 then 2 ^ 4 else 0) ∧ field r 16 4 = (if (field req 12 4).testBit 0 then 1 else 0)
        ∧ ∀ i, i < min 8 answer.length ∨ 20 ≤ i → r[i]? = answer[i]?)

/-! ## Encoding, the step, frames and invariants -/

/-- R140 to R145, R156: words written out from the encodings decode to their instructions: opcode in [31:26], D, A and B below
it, the function code in [5:0]. -/
def Obligations.DecodeWords : Prop :=
  decode 0x04A63800 = .ok (.add 5 6 7) ∧ decode 0x18A6803F = .ok (.srai 5 6 63) ∧ decode 0x2CA63801 = .ok (.mulh 5 6 7)
  ∧ decode 0x34A63F00 = .ok (.fadd 5 6 7 7 0) ∧ decode 0x74A63DC1 = .ok (.amoAdd 5 6 7 2 3 1)
  ∧ decode 0x8CE53000 = .ok (.jt 7 5 6) ∧ decode 0xC8444B60 = .ok (.vceq 2 2 4 9 1 0 0) ∧ decode 0xE000000A = .ok .vdead
  ∧ decode 0xE48A0400 = .ok (.vld 4 10 2 0 0) ∧ decode 0xF0A00200 = .ok (.mspill 5 0)
  ∧ decode 0xF805000C = .ok (.halt 5) ∧ decode 0xACA63801 = .ok (.mrecv 5 6 7)

/-- R140, R156: decode of encode is the instruction, for every instruction of the table and every operand. -/
def Obligations.RoundTrip : Prop := ∀ (i : Instr) (w : Word), encode i = some w → i.WellFormed → decode w = .ok i

/-- R157: a word that decodes is the encoding of the well-formed instruction it decodes to, so no bit of it goes unread. -/
def Obligations.DecodeEncode : Prop := ∀ (w : Word) (i : Instr), decode w = .ok i → encode i = some w ∧ i.WellFormed

/-- R16, R90, R157: a turn of a ready chunk fetches the word at pc and executes what it encodes, or ILLOP; around that the
step settles the region (R23 to R25), does what the package does by itself and lets time pass; the word is the four bytes of the
line at pc's physical address. The agenda that names the turn is the model's own (log entry 3), and so is that a slot whose request has
waited presents it again (log entry 26). -/
def Obligations.StepRunsDecoded : Prop :=
  ∀ (s : State) (ring chunk : Nat) (rest : List Turn), s.agenda = .issue ring chunk :: rest →
    let q := State.focus { s with agenda := rest } ring chunk
    let r := q.present
    (q.live = true → q.dueTrap true = none → q.thr.leaving = false → q.interruptDue = false → q.dueTrap false = none →
      q.cpu.stopped = false → q.cpu.frame = none → q.cpu.park = none → ∀ w t, r.fetchWord r.cpu.pc = .ok (w, t) →
        let u : State := { t with
          cpu := { t.cpu with ir := w, entering := false, fetching := false, held := if t.cpu.fetching then [] else t.cpu.held } }
        (∀ i, decode w = .ok i → step s = passOutcome s (settleOutcome q (exec i u)))
        ∧ (∀ e, decode w = .error e → step s = passOutcome s (settleOutcome q (exec (.illop w) u))))
    ∧ (∀ va m t bs t', r.thr.fetchOld = FetchOld.empty → r.cpu.pc.toNat % 4 = 0 →
      segTarget (r.descriptor r.cpu.pc) r.smode .fetch r.cpu.pc 4 = some (.global va) → va % 64 ≤ 60 →
      (∀ l, l ∈ r.coh.icache → l.serves r.ring r.cpu.core r.thr.asid (va / 64) = false) → r.cpu.held = [] →
      r.translate r.ring r.thr.asid r.thr.pgroot r.smode (!r.isHead) .gather .fetch va = .ok (m, t) →
      m.page.root = r.thr.pgroot ∨ m.page.global = true →
      (t.touch m.page va false).homeRead (64 * (m.pa / 64)) 64 = .ok (bs, t') → t'.thr.asid ∉ t'.coh.breach →
      ∃ u, r.fetchWord r.cpu.pc = .ok (BitVec.ofNat 32 (field bs (va % 64) 4), u) ∧ u.cpu = t'.cpu ∧ u.mem = t'.mem)

/-- R157, R158: no instruction and no event is refused or stops the package; the step stops only where the agenda names an
encoded instruction, or a part of one, as an event (the agenda is the model's own, log entry 3). -/
def Obligations.NothingStops : Prop :=
  (∀ (i : Instr) (s : State), ∃ t, exec i s = .next t)
  ∧ (∀ (s : State), (∀ ring chunk i rest, s.agenda = .event ring chunk i :: rest → isEvent i = true) → ∃ t, step s = .next t)

/-- R29, R147, R153, R155, R184, R236, R243, R248: an instruction that only touches registers changes its destination, flags for FP,
vstart for vectors, and nothing else but what a trap writes, whether it completes, waits or faults. Under SCHK one that reads a result
before its producer's latency raises STALL with the producer's address; one that writes a register outside the governing create mask
raises CMASK. A producer of latency L is due L turns on and written 2 L cycles on at the latest. The model's choices here: log entries 9
(the cycle of the write is free up to that) and 70 (which of several producers is named). -/
def Obligations.RegisterFrames : Prop :=
  ∀ (s t : State) (j : Instr),
    (∀ d a b i n w y k, j ∈ scalarForms d a b i n w y k → exec j s = .next t →
      Kept s t ∧ OnlyX d s t ∧ SameVectors s t ∧ t.cpu.fflags = s.cpu.fflags)
    ∧ (∀ d a b c r k w, j ∈ floatForms d a b c r k w → exec j s = .next t → Kept s t ∧ OnlyX d s t ∧ SameVectors s t)
    ∧ (∀ d a b z e f k y, j ∈ vectorForms d a b z e f k y → exec j s = .next t →
      Kept s t ∧ OnlyV d s t ∧ t.cpu.x = s.cpu.x ∧ t.cpu.k = s.cpu.k)
    ∧ (∀ d x y a b e f k z, j ∈ maskForms d x y a b e f k z → exec j s = .next t →
      Kept s t ∧ OnlyK d s t ∧ t.cpu.x = s.cpu.x ∧ t.cpu.v = s.cpu.v ∧ t.cpu.vdead = s.cpu.vdead)
    ∧ (∀ d a b e f k z,
      let traps (u : Use) (n : Nat) : Prop := s.notReady none = false → s.mustWait u = false →
        (∀ p, s.stallOf u = some p → Gives j s (s.raise causeStall p.pc))
        ∧ (∀ m, s.stallOf u = none → s.governing = some m → m.getLsbD n = false → Traps j s causeCmask (BitVec.ofNat 64 n))
      (j ∈ [Instr.add d a b, .sub d a b, .and d a b, .or d a b, .xor d a b, .andn d a b, .orn d a b, .sll d a b, .srl d a b, .sra d a b,
          .slt d a b, .sltu d a b, .min d a b, .max d a b, .minu d a b, .maxu d a b, .addw d a b, .subw d a b, .sllw d a b, .srlw d a b,
          .sraw d a b] → d ≠ 0 → traps (useAB d a b) d.toNat)
      ∧ (j ∈ [Instr.vadd e d a b f k z, .vsub e d a b f k z, .vrsub e d a b f k z, .vand e d a b f k z, .vor e d a b f k z,
          .vxor e d a b f k z, .vsll e d a b f k z, .vsrl e d a b f k z, .vsra e d a b f k z, .vmin e d a b f k z, .vmax e d a b f k z,
          .vminu e d a b f k z, .vmaxu e d a b f k z] → traps (useVec 2 d a b f k z) (32 + d.toNat)))
    ∧ (∀ m n, s.notReady none = false → s.mustWait { writes := allVectors } = false → s.governing = some m → n < 32 →
      m.getLsbD (32 + n) = false → Traps .vdead s causeCmask 0x40)
    ∧ (∀ u : Use,
      (s.cpu.stat.getLsbD 2 = false → s.stallOf u = none)
      ∧ (∀ p, s.stallOf u = some p → p ∈ s.cpu.pend ∧ p.reg ∈ u.reads ∧ s.cpu.turn < p.due ∧ s.cyc < p.written)
      ∧ (∀ p, p ∈ pendOf u s → p.reg ∈ u.writes ∧ p.reg ≠ .x 0 ∧ p.due = s.cpu.turn + u.lat ∧ p.written ≤ s.cyc + 2 * u.lat ∧ p.pc = s.cpu.slotPc)
      ∧ (∀ r p, r ∈ u.reads → r.isFile = true → r ≠ .x 0 → s.cpu.stat.getLsbD 2 = true → s.cpu.pend.find? (fun q => q.reg == r) = some p →
        s.cpu.turn < p.due → s.cyc < p.written → (s.stallOf u).isSome = true))
    ∧ (s.thr.susp = true ∨ s.thr.region = none → s.governing = none)
    ∧ (∀ g, s.thr.susp = false → s.thr.region = some g →
      (g.kind = .loop → s.governing = if s.cpu.final then none else some g.mask)
      ∧ (g.kind = .cut → s.governing = s.cpu.cut.map (fun c => c.2)))

/-- R86, R93, R100, R355, R367, R401, R406: right after a cold start no thread runs and none waits, memory is zero, the caches
are empty, and the registers hold the values the rules give; the memory system is sound. The model's choices here: log entries 5 (the
memory of hosts and peers reads zero), 24 (the state in which a package starts) and 79 (TSLICE and WPARK keep the reset values of
R367, where R406 has every aperture register read zero). -/
def Obligations.ResetState : Prop :=
  let s := State.reset
  s.live = false ∧ s.others = [] ∧ s.saved = [] ∧ s.host.launches = [] ∧ s.host.groups = [] ∧ s.host.endpoints = []
  ∧ (∀ a, Memory.get s.mem a = 0) ∧ s.coh.dir = [] ∧ s.coh.siv = [] ∧ s.coh.icache = [] ∧ s.coh.tlb = [] ∧ s.coh.snoop = []
  ∧ s.coh.l1 = [] ∧ s.coh.llc = [] ∧ s.coh.walks = [] ∧ s.coh.shoots = [] ∧ s.plat.queued = [] ∧ s.host.moves = []
  ∧ (∀ n : Fin 8, s.thr.sg.get n = (0, 0)) ∧ s.cyc = 0
  ∧ (∀ q, (s.queue q).qctl = 0 ∧ (s.queue q).qbase = 0 ∧ (s.queue q).qstat = 0 ∧ (s.queue q).held = none)
  ∧ s.host.regs.tslice = 1880000 ∧ s.host.regs.wpark = 94000 ∧ s.host.regs.eqctl = 0 ∧ s.host.regs.errcnt = 0
  ∧ s.plat.mgmt.rti = 100000 ∧ s.plat.mgmt.tsrmax = 50000 ∧ s.plat.mgmt.pkglim = 6600 ∧ s.plat.mgmt.dielim = 300
  ∧ s.plat.mgmt.stklim = 60 ∧ s.plat.mgmt.step = 8 ∧ s.plat.mgmt.reason = 0 ∧ s.plat.mgmt.fails = 0 ∧ s.plat.mgmt.recov = false
  ∧ s.plat.started = true ∧ s.plat.hostLink = true ∧ s.Sound

/-- R105, R109, R110: every step keeps the memory system sound: memory in its canonical form, one directory entry for a line, and in
each chain collect copies alone, shared copies alone, or one owner alone. -/
def Obligations.MemoryInvariant : Prop := ∀ (s t : State), s.Sound → step s = .next t → t.Sound
end

