-- ==== Sys2Proof/Laws/State.lean ====
section
/-! SUPPORT. One lemma per field per update of a register: what setPc, advance, wx, wv, wk, addFlags and vdone write and what
they leave alone.
-/

namespace Sys2Proof.Machine

@[simp] theorem setPc_pc (s : State) (a : Dword) : (s.setPc a).cpu.pc = a := rfl
@[simp] theorem advance_pc (s : State) : s.advance.cpu.pc = s.cpu.pc + 4 := rfl
@[simp] theorem vdone_pc (s : State) : s.vdone.cpu.pc = s.cpu.pc + 4 := rfl
@[simp] theorem vdone_vstart (s : State) : s.vdone.cpu.vstart = 0 := rfl
@[simp] theorem addFlags_fflags (s : State) (f : BitVec 7) : (s.addFlags f).cpu.fflags = s.cpu.fflags ||| f := rfl
@[simp] theorem wx_zero (s : State) (v : Dword) : s.wx 0 v = s := rfl

/-- The register written reads as what was written. -/
@[simp] theorem wx_x_same (s : State) (n : Reg) (v : Dword) (h : n ≠ 0) : (s.wx n v).cpu.x.get n.toFin = v := by
  unfold State.wx
  rw [if_neg h]
  exact Vector.getElem_set_self n.toFin.isLt

/-- Every other x register is unchanged. -/
theorem wx_x_other (s : State) (n m : Reg) (v : Dword) (h : m ≠ n ∨ m = 0) :
    (s.wx n v).cpu.x.get m.toFin = s.cpu.x.get m.toFin := by
  unfold State.wx
  split
  · rfl
  · rename_i hn
    have hne : n.toNat ≠ m.toNat := fun e => by
      have e' : n = m := BitVec.eq_of_toNat_eq e
      subst e'
      exact h.elim (fun k => k rfl) hn
    exact Vector.getElem_set_ne n.toFin.isLt m.toFin.isLt hne

@[simp] theorem setPc_older (s : State) (a : Dword) : (s.setPc a).older = s.older := rfl
@[simp] theorem setPc_younger (s : State) (a : Dword) : (s.setPc a).younger = s.younger := rfl
@[simp] theorem setPc_thr (s : State) (a : Dword) : (s.setPc a).thr = s.thr := rfl
@[simp] theorem setPc_live (s : State) (a : Dword) : (s.setPc a).live = s.live := rfl
@[simp] theorem setPc_ring (s : State) (a : Dword) : (s.setPc a).ring = s.ring := rfl
@[simp] theorem setPc_others (s : State) (a : Dword) : (s.setPc a).others = s.others := rfl
@[simp] theorem setPc_saved (s : State) (a : Dword) : (s.setPc a).saved = s.saved := rfl
@[simp] theorem setPc_mem (s : State) (a : Dword) : (s.setPc a).mem = s.mem := rfl
@[simp] theorem setPc_coh (s : State) (a : Dword) : (s.setPc a).coh = s.coh := rfl
@[simp] theorem setPc_host (s : State) (a : Dword) : (s.setPc a).host = s.host := rfl
@[simp] theorem setPc_plat (s : State) (a : Dword) : (s.setPc a).plat = s.plat := rfl
@[simp] theorem setPc_cyc (s : State) (a : Dword) : (s.setPc a).cyc = s.cyc := rfl
@[simp] theorem setPc_tick (s : State) (a : Dword) : (s.setPc a).tick = s.tick := rfl
@[simp] theorem setPc_agenda (s : State) (a : Dword) : (s.setPc a).agenda = s.agenda := rfl
@[simp] theorem setPc_cpu_num (s : State) (a : Dword) : (s.setPc a).cpu.num = s.cpu.num := rfl
@[simp] theorem setPc_cpu_core (s : State) (a : Dword) : (s.setPc a).cpu.core = s.cpu.core := rfl
@[simp] theorem setPc_cpu_x (s : State) (a : Dword) : (s.setPc a).cpu.x = s.cpu.x := rfl
@[simp] theorem setPc_cpu_v (s : State) (a : Dword) : (s.setPc a).cpu.v = s.cpu.v := rfl
@[simp] theorem setPc_cpu_vdead (s : State) (a : Dword) : (s.setPc a).cpu.vdead = s.cpu.vdead := rfl
@[simp] theorem setPc_cpu_k (s : State) (a : Dword) : (s.setPc a).cpu.k = s.cpu.k := rfl
@[simp] theorem setPc_cpu_stat (s : State) (a : Dword) : (s.setPc a).cpu.stat = s.cpu.stat := rfl
@[simp] theorem setPc_cpu_fflags (s : State) (a : Dword) : (s.setPc a).cpu.fflags = s.cpu.fflags := rfl
@[simp] theorem setPc_cpu_vl (s : State) (a : Dword) : (s.setPc a).cpu.vl = s.cpu.vl := rfl
@[simp] theorem setPc_cpu_vew (s : State) (a : Dword) : (s.setPc a).cpu.vew = s.cpu.vew := rfl
@[simp] theorem setPc_cpu_vstart (s : State) (a : Dword) : (s.setPc a).cpu.vstart = s.cpu.vstart := rfl
@[simp] theorem setPc_cpu_seed (s : State) (a : Dword) : (s.setPc a).cpu.seed = s.cpu.seed := rfl
@[simp] theorem setPc_cpu_sbase (s : State) (a : Dword) : (s.setPc a).cpu.sbase = s.cpu.sbase := rfl
@[simp] theorem setPc_cpu_fxs (s : State) (a : Dword) : (s.setPc a).cpu.fxs = s.cpu.fxs := rfl
@[simp] theorem setPc_cpu_rptst (s : State) (a : Dword) : (s.setPc a).cpu.rptst = s.cpu.rptst := rfl
@[simp] theorem setPc_cpu_ls (s : State) (a : Dword) : (s.setPc a).cpu.ls = s.cpu.ls := rfl
@[simp] theorem setPc_cpu_lsTag (s : State) (a : Dword) : (s.setPc a).cpu.lsTag = s.cpu.lsTag := rfl
@[simp] theorem setPc_cpu_pend (s : State) (a : Dword) : (s.setPc a).cpu.pend = s.cpu.pend := rfl
@[simp] theorem setPc_cpu_flight (s : State) (a : Dword) : (s.setPc a).cpu.flight = s.cpu.flight := rfl
@[simp] theorem setPc_cpu_turn (s : State) (a : Dword) : (s.setPc a).cpu.turn = s.cpu.turn := rfl
@[simp] theorem setPc_cpu_frame (s : State) (a : Dword) : (s.setPc a).cpu.frame = s.cpu.frame := rfl
@[simp] theorem setPc_cpu_park (s : State) (a : Dword) : (s.setPc a).cpu.park = s.cpu.park := rfl
@[simp] theorem setPc_cpu_trap (s : State) (a : Dword) : (s.setPc a).cpu.trap = s.cpu.trap := rfl
@[simp] theorem setPc_cpu_ended (s : State) (a : Dword) : (s.setPc a).cpu.ended = s.cpu.ended := rfl
@[simp] theorem setPc_cpu_cut (s : State) (a : Dword) : (s.setPc a).cpu.cut = s.cpu.cut := rfl
@[simp] theorem setPc_cpu_mask (s : State) (a : Dword) : (s.setPc a).cpu.mask = s.cpu.mask := rfl
@[simp] theorem setPc_cpu_left (s : State) (a : Dword) : (s.setPc a).cpu.left = s.cpu.left := rfl
@[simp] theorem setPc_cpu_final (s : State) (a : Dword) : (s.setPc a).cpu.final = s.cpu.final := rfl
@[simp] theorem setPc_cpu_wait (s : State) (a : Dword) : (s.setPc a).cpu.wait = s.cpu.wait := rfl
@[simp] theorem setPc_cpu_pred (s : State) (a : Dword) : (s.setPc a).cpu.pred = s.cpu.pred := rfl
@[simp] theorem setPc_cpu_sent (s : State) (a : Dword) : (s.setPc a).cpu.sent = s.cpu.sent := rfl
@[simp] theorem setPc_cpu_wrote (s : State) (a : Dword) : (s.setPc a).cpu.wrote = s.cpu.wrote := rfl
@[simp] theorem setPc_cpu_used (s : State) (a : Dword) : (s.setPc a).cpu.used = s.cpu.used := rfl
@[simp] theorem setPc_cpu_made (s : State) (a : Dword) : (s.setPc a).cpu.made = s.cpu.made := rfl
@[simp] theorem setPc_cpu_outbox (s : State) (a : Dword) : (s.setPc a).cpu.outbox = s.cpu.outbox := rfl
@[simp] theorem setPc_cpu_start (s : State) (a : Dword) : (s.setPc a).cpu.start = s.cpu.start := rfl
@[simp] theorem setPc_cpu_ver (s : State) (a : Dword) : (s.setPc a).cpu.ver = s.cpu.ver := rfl
@[simp] theorem setPc_cpu_stores (s : State) (a : Dword) : (s.setPc a).cpu.stores = s.cpu.stores := rfl
@[simp] theorem setPc_cpu_loaded (s : State) (a : Dword) : (s.setPc a).cpu.loaded = s.cpu.loaded := rfl
@[simp] theorem setPc_cpu_touches (s : State) (a : Dword) : (s.setPc a).cpu.touches = s.cpu.touches := rfl
@[simp] theorem setPc_cpu_reads (s : State) (a : Dword) : (s.setPc a).cpu.reads = s.cpu.reads := rfl
@[simp] theorem setPc_cpu_upds (s : State) (a : Dword) : (s.setPc a).cpu.upds = s.cpu.upds := rfl
@[simp] theorem setPc_cpu_inbox (s : State) (a : Dword) : (s.setPc a).cpu.inbox = s.cpu.inbox := rfl
@[simp] theorem setPc_cpu_squashed (s : State) (a : Dword) : (s.setPc a).cpu.squashed = s.cpu.squashed := rfl
@[simp] theorem setPc_cpu_streak (s : State) (a : Dword) : (s.setPc a).cpu.streak = s.cpu.streak := rfl
@[simp] theorem setPc_cpu_guarded (s : State) (a : Dword) : (s.setPc a).cpu.guarded = s.cpu.guarded := rfl
@[simp] theorem setPc_cpu_capped (s : State) (a : Dword) : (s.setPc a).cpu.capped = s.cpu.capped := rfl
@[simp] theorem setPc_cpu_bank (s : State) (a : Dword) : (s.setPc a).cpu.bank = s.cpu.bank := rfl
@[simp] theorem setPc_cpu_loupe (s : State) (a : Dword) : (s.setPc a).cpu.loupe = s.cpu.loupe := rfl
@[simp] theorem setPc_cpu_lcnt (s : State) (a : Dword) : (s.setPc a).cpu.lcnt = s.cpu.lcnt := rfl
@[simp] theorem setPc_cpu_ir (s : State) (a : Dword) : (s.setPc a).cpu.ir = s.cpu.ir := rfl
@[simp] theorem setPc_cpu_entering (s : State) (a : Dword) : (s.setPc a).cpu.entering = s.cpu.entering := rfl
@[simp] theorem setPc_cpu_asked (s : State) (a : Dword) : (s.setPc a).cpu.asked = s.cpu.asked := rfl
@[simp] theorem setPc_cpu_recut (s : State) (a : Dword) : (s.setPc a).cpu.recut = s.cpu.recut := rfl
@[simp] theorem setPc_cpu_seen (s : State) (a : Dword) : (s.setPc a).cpu.seen = s.cpu.seen := rfl
@[simp] theorem setPc_cpu_loads (s : State) (a : Dword) : (s.setPc a).cpu.loads = s.cpu.loads := rfl
@[simp] theorem setPc_cpu_fetching (s : State) (a : Dword) : (s.setPc a).cpu.fetching = s.cpu.fetching := rfl
@[simp] theorem setPc_cpu_held (s : State) (a : Dword) : (s.setPc a).cpu.held = s.cpu.held := rfl

@[simp] theorem advance_older (s : State) : (s.advance).older = s.older := rfl
@[simp] theorem advance_younger (s : State) : (s.advance).younger = s.younger := rfl
@[simp] theorem advance_thr (s : State) : (s.advance).thr = s.thr := rfl
@[simp] theorem advance_live (s : State) : (s.advance).live = s.live := rfl
@[simp] theorem advance_ring (s : State) : (s.advance).ring = s.ring := rfl
@[simp] theorem advance_others (s : State) : (s.advance).others = s.others := rfl
@[simp] theorem advance_saved (s : State) : (s.advance).saved = s.saved := rfl
@[simp] theorem advance_mem (s : State) : (s.advance).mem = s.mem := rfl
@[simp] theorem advance_coh (s : State) : (s.advance).coh = s.coh := rfl
@[simp] theorem advance_host (s : State) : (s.advance).host = s.host := rfl
@[simp] theorem advance_plat (s : State) : (s.advance).plat = s.plat := rfl
@[simp] theorem advance_cyc (s : State) : (s.advance).cyc = s.cyc := rfl
@[simp] theorem advance_tick (s : State) : (s.advance).tick = s.tick := rfl
@[simp] theorem advance_agenda (s : State) : (s.advance).agenda = s.agenda := rfl
@[simp] theorem advance_cpu_num (s : State) : (s.advance).cpu.num = s.cpu.num := rfl
@[simp] theorem advance_cpu_core (s : State) : (s.advance).cpu.core = s.cpu.core := rfl
@[simp] theorem advance_cpu_x (s : State) : (s.advance).cpu.x = s.cpu.x := rfl
@[simp] theorem advance_cpu_v (s : State) : (s.advance).cpu.v = s.cpu.v := rfl
@[simp] theorem advance_cpu_vdead (s : State) : (s.advance).cpu.vdead = s.cpu.vdead := rfl
@[simp] theorem advance_cpu_k (s : State) : (s.advance).cpu.k = s.cpu.k := rfl
@[simp] theorem advance_cpu_stat (s : State) : (s.advance).cpu.stat = s.cpu.stat := rfl
@[simp] theorem advance_cpu_fflags (s : State) : (s.advance).cpu.fflags = s.cpu.fflags := rfl
@[simp] theorem advance_cpu_vl (s : State) : (s.advance).cpu.vl = s.cpu.vl := rfl
@[simp] theorem advance_cpu_vew (s : State) : (s.advance).cpu.vew = s.cpu.vew := rfl
@[simp] theorem advance_cpu_vstart (s : State) : (s.advance).cpu.vstart = s.cpu.vstart := rfl
@[simp] theorem advance_cpu_seed (s : State) : (s.advance).cpu.seed = s.cpu.seed := rfl
@[simp] theorem advance_cpu_sbase (s : State) : (s.advance).cpu.sbase = s.cpu.sbase := rfl
@[simp] theorem advance_cpu_fxs (s : State) : (s.advance).cpu.fxs = s.cpu.fxs := rfl
@[simp] theorem advance_cpu_rptst (s : State) : (s.advance).cpu.rptst = s.cpu.rptst := rfl
@[simp] theorem advance_cpu_ls (s : State) : (s.advance).cpu.ls = s.cpu.ls := rfl
@[simp] theorem advance_cpu_lsTag (s : State) : (s.advance).cpu.lsTag = s.cpu.lsTag := rfl
@[simp] theorem advance_cpu_pend (s : State) : (s.advance).cpu.pend = s.cpu.pend := rfl
@[simp] theorem advance_cpu_flight (s : State) : (s.advance).cpu.flight = s.cpu.flight := rfl
@[simp] theorem advance_cpu_turn (s : State) : (s.advance).cpu.turn = s.cpu.turn := rfl
@[simp] theorem advance_cpu_frame (s : State) : (s.advance).cpu.frame = s.cpu.frame := rfl
@[simp] theorem advance_cpu_park (s : State) : (s.advance).cpu.park = s.cpu.park := rfl
@[simp] theorem advance_cpu_trap (s : State) : (s.advance).cpu.trap = s.cpu.trap := rfl
@[simp] theorem advance_cpu_ended (s : State) : (s.advance).cpu.ended = s.cpu.ended := rfl
@[simp] theorem advance_cpu_cut (s : State) : (s.advance).cpu.cut = s.cpu.cut := rfl
@[simp] theorem advance_cpu_mask (s : State) : (s.advance).cpu.mask = s.cpu.mask := rfl
@[simp] theorem advance_cpu_left (s : State) : (s.advance).cpu.left = s.cpu.left := rfl
@[simp] theorem advance_cpu_final (s : State) : (s.advance).cpu.final = s.cpu.final := rfl
@[simp] theorem advance_cpu_wait (s : State) : (s.advance).cpu.wait = s.cpu.wait := rfl
@[simp] theorem advance_cpu_pred (s : State) : (s.advance).cpu.pred = s.cpu.pred := rfl
@[simp] theorem advance_cpu_sent (s : State) : (s.advance).cpu.sent = s.cpu.sent := rfl
@[simp] theorem advance_cpu_wrote (s : State) : (s.advance).cpu.wrote = s.cpu.wrote := rfl
@[simp] theorem advance_cpu_used (s : State) : (s.advance).cpu.used = s.cpu.used := rfl
@[simp] theorem advance_cpu_made (s : State) : (s.advance).cpu.made = s.cpu.made := rfl
@[simp] theorem advance_cpu_outbox (s : State) : (s.advance).cpu.outbox = s.cpu.outbox := rfl
@[simp] theorem advance_cpu_start (s : State) : (s.advance).cpu.start = s.cpu.start := rfl
@[simp] theorem advance_cpu_ver (s : State) : (s.advance).cpu.ver = s.cpu.ver := rfl
@[simp] theorem advance_cpu_stores (s : State) : (s.advance).cpu.stores = s.cpu.stores := rfl
@[simp] theorem advance_cpu_loaded (s : State) : (s.advance).cpu.loaded = s.cpu.loaded := rfl
@[simp] theorem advance_cpu_touches (s : State) : (s.advance).cpu.touches = s.cpu.touches := rfl
@[simp] theorem advance_cpu_reads (s : State) : (s.advance).cpu.reads = s.cpu.reads := rfl
@[simp] theorem advance_cpu_upds (s : State) : (s.advance).cpu.upds = s.cpu.upds := rfl
@[simp] theorem advance_cpu_inbox (s : State) : (s.advance).cpu.inbox = s.cpu.inbox := rfl
@[simp] theorem advance_cpu_squashed (s : State) : (s.advance).cpu.squashed = s.cpu.squashed := rfl
@[simp] theorem advance_cpu_streak (s : State) : (s.advance).cpu.streak = s.cpu.streak := rfl
@[simp] theorem advance_cpu_guarded (s : State) : (s.advance).cpu.guarded = s.cpu.guarded := rfl
@[simp] theorem advance_cpu_capped (s : State) : (s.advance).cpu.capped = s.cpu.capped := rfl
@[simp] theorem advance_cpu_bank (s : State) : (s.advance).cpu.bank = s.cpu.bank := rfl
@[simp] theorem advance_cpu_loupe (s : State) : (s.advance).cpu.loupe = s.cpu.loupe := rfl
@[simp] theorem advance_cpu_lcnt (s : State) : (s.advance).cpu.lcnt = s.cpu.lcnt := rfl
@[simp] theorem advance_cpu_ir (s : State) : (s.advance).cpu.ir = s.cpu.ir := rfl
@[simp] theorem advance_cpu_entering (s : State) : (s.advance).cpu.entering = s.cpu.entering := rfl
@[simp] theorem advance_cpu_asked (s : State) : (s.advance).cpu.asked = s.cpu.asked := rfl
@[simp] theorem advance_cpu_recut (s : State) : (s.advance).cpu.recut = s.cpu.recut := rfl
@[simp] theorem advance_cpu_seen (s : State) : (s.advance).cpu.seen = s.cpu.seen := rfl
@[simp] theorem advance_cpu_loads (s : State) : (s.advance).cpu.loads = s.cpu.loads := rfl
@[simp] theorem advance_cpu_fetching (s : State) : (s.advance).cpu.fetching = s.cpu.fetching := rfl
@[simp] theorem advance_cpu_held (s : State) : (s.advance).cpu.held = s.cpu.held := rfl

@[simp] theorem wx_older (s : State) (n : Reg) (v : Dword) : (s.wx n v).older = s.older := by unfold State.wx; split <;> rfl
@[simp] theorem wx_younger (s : State) (n : Reg) (v : Dword) : (s.wx n v).younger = s.younger := by unfold State.wx; split <;> rfl
@[simp] theorem wx_thr (s : State) (n : Reg) (v : Dword) : (s.wx n v).thr = s.thr := by unfold State.wx; split <;> rfl
@[simp] theorem wx_live (s : State) (n : Reg) (v : Dword) : (s.wx n v).live = s.live := by unfold State.wx; split <;> rfl
@[simp] theorem wx_ring (s : State) (n : Reg) (v : Dword) : (s.wx n v).ring = s.ring := by unfold State.wx; split <;> rfl
@[simp] theorem wx_others (s : State) (n : Reg) (v : Dword) : (s.wx n v).others = s.others := by unfold State.wx; split <;> rfl
@[simp] theorem wx_saved (s : State) (n : Reg) (v : Dword) : (s.wx n v).saved = s.saved := by unfold State.wx; split <;> rfl
@[simp] theorem wx_mem (s : State) (n : Reg) (v : Dword) : (s.wx n v).mem = s.mem := by unfold State.wx; split <;> rfl
@[simp] theorem wx_coh (s : State) (n : Reg) (v : Dword) : (s.wx n v).coh = s.coh := by unfold State.wx; split <;> rfl
@[simp] theorem wx_host (s : State) (n : Reg) (v : Dword) : (s.wx n v).host = s.host := by unfold State.wx; split <;> rfl
@[simp] theorem wx_plat (s : State) (n : Reg) (v : Dword) : (s.wx n v).plat = s.plat := by unfold State.wx; split <;> rfl
@[simp] theorem wx_cyc (s : State) (n : Reg) (v : Dword) : (s.wx n v).cyc = s.cyc := by unfold State.wx; split <;> rfl
@[simp] theorem wx_tick (s : State) (n : Reg) (v : Dword) : (s.wx n v).tick = s.tick := by unfold State.wx; split <;> rfl
@[simp] theorem wx_agenda (s : State) (n : Reg) (v : Dword) : (s.wx n v).agenda = s.agenda := by unfold State.wx; split <;> rfl
@[simp] theorem wx_cpu_num (s : State) (n : Reg) (v : Dword) : (s.wx n v).cpu.num = s.cpu.num := by unfold State.wx; split <;> rfl
@[simp] theorem wx_cpu_core (s : State) (n : Reg) (v : Dword) : (s.wx n v).cpu.core = s.cpu.core := by unfold State.wx; split <;> rfl
@[simp] theorem wx_cpu_pc (s : State) (n : Reg) (v : Dword) : (s.wx n v).cpu.pc = s.cpu.pc := by unfold State.wx; split <;> rfl
@[simp] theorem wx_cpu_v (s : State) (n : Reg) (v : Dword) : (s.wx n v).cpu.v = s.cpu.v := by unfold State.wx; split <;> rfl
@[simp] theorem wx_cpu_vdead (s : State) (n : Reg) (v : Dword) : (s.wx n v).cpu.vdead = s.cpu.vdead := by unfold State.wx; split <;> rfl
@[simp] theorem wx_cpu_k (s : State) (n : Reg) (v : Dword) : (s.wx n v).cpu.k = s.cpu.k := by unfold State.wx; split <;> rfl
@[simp] theorem wx_cpu_stat (s : State) (n : Reg) (v : Dword) : (s.wx n v).cpu.stat = s.cpu.stat := by unfold State.wx; split <;> rfl
@[simp] theorem wx_cpu_fflags (s : State) (n : Reg) (v : Dword) : (s.wx n v).cpu.fflags = s.cpu.fflags := by unfold State.wx; split <;> rfl
@[simp] theorem wx_cpu_vl (s : State) (n : Reg) (v : Dword) : (s.wx n v).cpu.vl = s.cpu.vl := by unfold State.wx; split <;> rfl
@[simp] theorem wx_cpu_vew (s : State) (n : Reg) (v : Dword) : (s.wx n v).cpu.vew = s.cpu.vew := by unfold State.wx; split <;> rfl
@[simp] theorem wx_cpu_vstart (s : State) (n : Reg) (v : Dword) : (s.wx n v).cpu.vstart = s.cpu.vstart := by unfold State.wx; split <;> rfl
@[simp] theorem wx_cpu_seed (s : State) (n : Reg) (v : Dword) : (s.wx n v).cpu.seed = s.cpu.seed := by unfold State.wx; split <;> rfl
@[simp] theorem wx_cpu_sbase (s : State) (n : Reg) (v : Dword) : (s.wx n v).cpu.sbase = s.cpu.sbase := by unfold State.wx; split <;> rfl
@[simp] theorem wx_cpu_fxs (s : State) (n : Reg) (v : Dword) : (s.wx n v).cpu.fxs = s.cpu.fxs := by unfold State.wx; split <;> rfl
@[simp] theorem wx_cpu_rptst (s : State) (n : Reg) (v : Dword) : (s.wx n v).cpu.rptst = s.cpu.rptst := by unfold State.wx; split <;> rfl
@[simp] theorem wx_cpu_ls (s : State) (n : Reg) (v : Dword) : (s.wx n v).cpu.ls = s.cpu.ls := by unfold State.wx; split <;> rfl
@[simp] theorem wx_cpu_lsTag (s : State) (n : Reg) (v : Dword) : (s.wx n v).cpu.lsTag = s.cpu.lsTag := by unfold State.wx; split <;> rfl
@[simp] theorem wx_cpu_pend (s : State) (n : Reg) (v : Dword) : (s.wx n v).cpu.pend = s.cpu.pend := by unfold State.wx; split <;> rfl
@[simp] theorem wx_cpu_flight (s : State) (n : Reg) (v : Dword) : (s.wx n v).cpu.flight = s.cpu.flight := by unfold State.wx; split <;> rfl
@[simp] theorem wx_cpu_turn (s : State) (n : Reg) (v : Dword) : (s.wx n v).cpu.turn = s.cpu.turn := by unfold State.wx; split <;> rfl
@[simp] theorem wx_cpu_frame (s : State) (n : Reg) (v : Dword) : (s.wx n v).cpu.frame = s.cpu.frame := by unfold State.wx; split <;> rfl
@[simp] theorem wx_cpu_park (s : State) (n : Reg) (v : Dword) : (s.wx n v).cpu.park = s.cpu.park := by unfold State.wx; split <;> rfl
@[simp] theorem wx_cpu_trap (s : State) (n : Reg) (v : Dword) : (s.wx n v).cpu.trap = s.cpu.trap := by unfold State.wx; split <;> rfl
@[simp] theorem wx_cpu_ended (s : State) (n : Reg) (v : Dword) : (s.wx n v).cpu.ended = s.cpu.ended := by unfold State.wx; split <;> rfl
@[simp] theorem wx_cpu_cut (s : State) (n : Reg) (v : Dword) : (s.wx n v).cpu.cut = s.cpu.cut := by unfold State.wx; split <;> rfl
@[simp] theorem wx_cpu_mask (s : State) (n : Reg) (v : Dword) : (s.wx n v).cpu.mask = s.cpu.mask := by unfold State.wx; split <;> rfl
@[simp] theorem wx_cpu_left (s : State) (n : Reg) (v : Dword) : (s.wx n v).cpu.left = s.cpu.left := by unfold State.wx; split <;> rfl
@[simp] theorem wx_cpu_final (s : State) (n : Reg) (v : Dword) : (s.wx n v).cpu.final = s.cpu.final := by unfold State.wx; split <;> rfl
@[simp] theorem wx_cpu_wait (s : State) (n : Reg) (v : Dword) : (s.wx n v).cpu.wait = s.cpu.wait := by unfold State.wx; split <;> rfl
@[simp] theorem wx_cpu_pred (s : State) (n : Reg) (v : Dword) : (s.wx n v).cpu.pred = s.cpu.pred := by unfold State.wx; split <;> rfl
@[simp] theorem wx_cpu_sent (s : State) (n : Reg) (v : Dword) : (s.wx n v).cpu.sent = s.cpu.sent := by unfold State.wx; split <;> rfl
@[simp] theorem wx_cpu_wrote (s : State) (n : Reg) (v : Dword) : (s.wx n v).cpu.wrote = s.cpu.wrote := by unfold State.wx; split <;> rfl
@[simp] theorem wx_cpu_used (s : State) (n : Reg) (v : Dword) : (s.wx n v).cpu.used = s.cpu.used := by unfold State.wx; split <;> rfl
@[simp] theorem wx_cpu_made (s : State) (n : Reg) (v : Dword) : (s.wx n v).cpu.made = s.cpu.made := by unfold State.wx; split <;> rfl
@[simp] theorem wx_cpu_outbox (s : State) (n : Reg) (v : Dword) : (s.wx n v).cpu.outbox = s.cpu.outbox := by unfold State.wx; split <;> rfl
@[simp] theorem wx_cpu_start (s : State) (n : Reg) (v : Dword) : (s.wx n v).cpu.start = s.cpu.start := by unfold State.wx; split <;> rfl
@[simp] theorem wx_cpu_ver (s : State) (n : Reg) (v : Dword) : (s.wx n v).cpu.ver = s.cpu.ver := by unfold State.wx; split <;> rfl
@[simp] theorem wx_cpu_stores (s : State) (n : Reg) (v : Dword) : (s.wx n v).cpu.stores = s.cpu.stores := by unfold State.wx; split <;> rfl
@[simp] theorem wx_cpu_loaded (s : State) (n : Reg) (v : Dword) : (s.wx n v).cpu.loaded = s.cpu.loaded := by unfold State.wx; split <;> rfl
@[simp] theorem wx_cpu_touches (s : State) (n : Reg) (v : Dword) : (s.wx n v).cpu.touches = s.cpu.touches := by unfold State.wx; split <;> rfl
@[simp] theorem wx_cpu_reads (s : State) (n : Reg) (v : Dword) : (s.wx n v).cpu.reads = s.cpu.reads := by unfold State.wx; split <;> rfl
@[simp] theorem wx_cpu_upds (s : State) (n : Reg) (v : Dword) : (s.wx n v).cpu.upds = s.cpu.upds := by unfold State.wx; split <;> rfl
@[simp] theorem wx_cpu_inbox (s : State) (n : Reg) (v : Dword) : (s.wx n v).cpu.inbox = s.cpu.inbox := by unfold State.wx; split <;> rfl
@[simp] theorem wx_cpu_squashed (s : State) (n : Reg) (v : Dword) : (s.wx n v).cpu.squashed = s.cpu.squashed := by unfold State.wx; split <;> rfl
@[simp] theorem wx_cpu_streak (s : State) (n : Reg) (v : Dword) : (s.wx n v).cpu.streak = s.cpu.streak := by unfold State.wx; split <;> rfl
@[simp] theorem wx_cpu_guarded (s : State) (n : Reg) (v : Dword) : (s.wx n v).cpu.guarded = s.cpu.guarded := by unfold State.wx; split <;> rfl
@[simp] theorem wx_cpu_capped (s : State) (n : Reg) (v : Dword) : (s.wx n v).cpu.capped = s.cpu.capped := by unfold State.wx; split <;> rfl
@[simp] theorem wx_cpu_bank (s : State) (n : Reg) (v : Dword) : (s.wx n v).cpu.bank = s.cpu.bank := by unfold State.wx; split <;> rfl
@[simp] theorem wx_cpu_loupe (s : State) (n : Reg) (v : Dword) : (s.wx n v).cpu.loupe = s.cpu.loupe := by unfold State.wx; split <;> rfl
@[simp] theorem wx_cpu_lcnt (s : State) (n : Reg) (v : Dword) : (s.wx n v).cpu.lcnt = s.cpu.lcnt := by unfold State.wx; split <;> rfl
@[simp] theorem wx_cpu_ir (s : State) (n : Reg) (v : Dword) : (s.wx n v).cpu.ir = s.cpu.ir := by unfold State.wx; split <;> rfl
@[simp] theorem wx_cpu_entering (s : State) (n : Reg) (v : Dword) : (s.wx n v).cpu.entering = s.cpu.entering := by unfold State.wx; split <;> rfl
@[simp] theorem wx_cpu_asked (s : State) (n : Reg) (v : Dword) : (s.wx n v).cpu.asked = s.cpu.asked := by unfold State.wx; split <;> rfl
@[simp] theorem wx_cpu_recut (s : State) (n : Reg) (v : Dword) : (s.wx n v).cpu.recut = s.cpu.recut := by unfold State.wx; split <;> rfl
@[simp] theorem wx_cpu_seen (s : State) (n : Reg) (v : Dword) : (s.wx n v).cpu.seen = s.cpu.seen := by unfold State.wx; split <;> rfl
@[simp] theorem wx_cpu_loads (s : State) (n : Reg) (v : Dword) : (s.wx n v).cpu.loads = s.cpu.loads := by unfold State.wx; split <;> rfl
@[simp] theorem wx_cpu_fetching (s : State) (n : Reg) (v : Dword) : (s.wx n v).cpu.fetching = s.cpu.fetching := by unfold State.wx; split <;> rfl
@[simp] theorem wx_cpu_held (s : State) (n : Reg) (v : Dword) : (s.wx n v).cpu.held = s.cpu.held := by unfold State.wx; split <;> rfl

@[simp] theorem wv_older (s : State) (n : Reg) (v : VReg) : (s.wv n v).older = s.older := rfl
@[simp] theorem wv_younger (s : State) (n : Reg) (v : VReg) : (s.wv n v).younger = s.younger := rfl
@[simp] theorem wv_thr (s : State) (n : Reg) (v : VReg) : (s.wv n v).thr = s.thr := rfl
@[simp] theorem wv_live (s : State) (n : Reg) (v : VReg) : (s.wv n v).live = s.live := rfl
@[simp] theorem wv_ring (s : State) (n : Reg) (v : VReg) : (s.wv n v).ring = s.ring := rfl
@[simp] theorem wv_others (s : State) (n : Reg) (v : VReg) : (s.wv n v).others = s.others := rfl
@[simp] theorem wv_saved (s : State) (n : Reg) (v : VReg) : (s.wv n v).saved = s.saved := rfl
@[simp] theorem wv_mem (s : State) (n : Reg) (v : VReg) : (s.wv n v).mem = s.mem := rfl
@[simp] theorem wv_coh (s : State) (n : Reg) (v : VReg) : (s.wv n v).coh = s.coh := rfl
@[simp] theorem wv_host (s : State) (n : Reg) (v : VReg) : (s.wv n v).host = s.host := rfl
@[simp] theorem wv_plat (s : State) (n : Reg) (v : VReg) : (s.wv n v).plat = s.plat := rfl
@[simp] theorem wv_cyc (s : State) (n : Reg) (v : VReg) : (s.wv n v).cyc = s.cyc := rfl
@[simp] theorem wv_tick (s : State) (n : Reg) (v : VReg) : (s.wv n v).tick = s.tick := rfl
@[simp] theorem wv_agenda (s : State) (n : Reg) (v : VReg) : (s.wv n v).agenda = s.agenda := rfl
@[simp] theorem wv_cpu_num (s : State) (n : Reg) (v : VReg) : (s.wv n v).cpu.num = s.cpu.num := rfl
@[simp] theorem wv_cpu_core (s : State) (n : Reg) (v : VReg) : (s.wv n v).cpu.core = s.cpu.core := rfl
@[simp] theorem wv_cpu_pc (s : State) (n : Reg) (v : VReg) : (s.wv n v).cpu.pc = s.cpu.pc := rfl
@[simp] theorem wv_cpu_x (s : State) (n : Reg) (v : VReg) : (s.wv n v).cpu.x = s.cpu.x := rfl
@[simp] theorem wv_cpu_k (s : State) (n : Reg) (v : VReg) : (s.wv n v).cpu.k = s.cpu.k := rfl
@[simp] theorem wv_cpu_stat (s : State) (n : Reg) (v : VReg) : (s.wv n v).cpu.stat = s.cpu.stat := rfl
@[simp] theorem wv_cpu_fflags (s : State) (n : Reg) (v : VReg) : (s.wv n v).cpu.fflags = s.cpu.fflags := rfl
@[simp] theorem wv_cpu_vl (s : State) (n : Reg) (v : VReg) : (s.wv n v).cpu.vl = s.cpu.vl := rfl
@[simp] theorem wv_cpu_vew (s : State) (n : Reg) (v : VReg) : (s.wv n v).cpu.vew = s.cpu.vew := rfl
@[simp] theorem wv_cpu_vstart (s : State) (n : Reg) (v : VReg) : (s.wv n v).cpu.vstart = s.cpu.vstart := rfl
@[simp] theorem wv_cpu_seed (s : State) (n : Reg) (v : VReg) : (s.wv n v).cpu.seed = s.cpu.seed := rfl
@[simp] theorem wv_cpu_sbase (s : State) (n : Reg) (v : VReg) : (s.wv n v).cpu.sbase = s.cpu.sbase := rfl
@[simp] theorem wv_cpu_fxs (s : State) (n : Reg) (v : VReg) : (s.wv n v).cpu.fxs = s.cpu.fxs := rfl
@[simp] theorem wv_cpu_rptst (s : State) (n : Reg) (v : VReg) : (s.wv n v).cpu.rptst = s.cpu.rptst := rfl
@[simp] theorem wv_cpu_ls (s : State) (n : Reg) (v : VReg) : (s.wv n v).cpu.ls = s.cpu.ls := rfl
@[simp] theorem wv_cpu_lsTag (s : State) (n : Reg) (v : VReg) : (s.wv n v).cpu.lsTag = s.cpu.lsTag := rfl
@[simp] theorem wv_cpu_pend (s : State) (n : Reg) (v : VReg) : (s.wv n v).cpu.pend = s.cpu.pend := rfl
@[simp] theorem wv_cpu_flight (s : State) (n : Reg) (v : VReg) : (s.wv n v).cpu.flight = s.cpu.flight := rfl
@[simp] theorem wv_cpu_turn (s : State) (n : Reg) (v : VReg) : (s.wv n v).cpu.turn = s.cpu.turn := rfl
@[simp] theorem wv_cpu_frame (s : State) (n : Reg) (v : VReg) : (s.wv n v).cpu.frame = s.cpu.frame := rfl
@[simp] theorem wv_cpu_park (s : State) (n : Reg) (v : VReg) : (s.wv n v).cpu.park = s.cpu.park := rfl
@[simp] theorem wv_cpu_trap (s : State) (n : Reg) (v : VReg) : (s.wv n v).cpu.trap = s.cpu.trap := rfl
@[simp] theorem wv_cpu_ended (s : State) (n : Reg) (v : VReg) : (s.wv n v).cpu.ended = s.cpu.ended := rfl
@[simp] theorem wv_cpu_cut (s : State) (n : Reg) (v : VReg) : (s.wv n v).cpu.cut = s.cpu.cut := rfl
@[simp] theorem wv_cpu_mask (s : State) (n : Reg) (v : VReg) : (s.wv n v).cpu.mask = s.cpu.mask := rfl
@[simp] theorem wv_cpu_left (s : State) (n : Reg) (v : VReg) : (s.wv n v).cpu.left = s.cpu.left := rfl
@[simp] theorem wv_cpu_final (s : State) (n : Reg) (v : VReg) : (s.wv n v).cpu.final = s.cpu.final := rfl
@[simp] theorem wv_cpu_wait (s : State) (n : Reg) (v : VReg) : (s.wv n v).cpu.wait = s.cpu.wait := rfl
@[simp] theorem wv_cpu_pred (s : State) (n : Reg) (v : VReg) : (s.wv n v).cpu.pred = s.cpu.pred := rfl
@[simp] theorem wv_cpu_sent (s : State) (n : Reg) (v : VReg) : (s.wv n v).cpu.sent = s.cpu.sent := rfl
@[simp] theorem wv_cpu_wrote (s : State) (n : Reg) (v : VReg) : (s.wv n v).cpu.wrote = s.cpu.wrote := rfl
@[simp] theorem wv_cpu_used (s : State) (n : Reg) (v : VReg) : (s.wv n v).cpu.used = s.cpu.used := rfl
@[simp] theorem wv_cpu_made (s : State) (n : Reg) (v : VReg) : (s.wv n v).cpu.made = s.cpu.made := rfl
@[simp] theorem wv_cpu_outbox (s : State) (n : Reg) (v : VReg) : (s.wv n v).cpu.outbox = s.cpu.outbox := rfl
@[simp] theorem wv_cpu_start (s : State) (n : Reg) (v : VReg) : (s.wv n v).cpu.start = s.cpu.start := rfl
@[simp] theorem wv_cpu_ver (s : State) (n : Reg) (v : VReg) : (s.wv n v).cpu.ver = s.cpu.ver := rfl
@[simp] theorem wv_cpu_stores (s : State) (n : Reg) (v : VReg) : (s.wv n v).cpu.stores = s.cpu.stores := rfl
@[simp] theorem wv_cpu_loaded (s : State) (n : Reg) (v : VReg) : (s.wv n v).cpu.loaded = s.cpu.loaded := rfl
@[simp] theorem wv_cpu_touches (s : State) (n : Reg) (v : VReg) : (s.wv n v).cpu.touches = s.cpu.touches := rfl
@[simp] theorem wv_cpu_reads (s : State) (n : Reg) (v : VReg) : (s.wv n v).cpu.reads = s.cpu.reads := rfl
@[simp] theorem wv_cpu_upds (s : State) (n : Reg) (v : VReg) : (s.wv n v).cpu.upds = s.cpu.upds := rfl
@[simp] theorem wv_cpu_inbox (s : State) (n : Reg) (v : VReg) : (s.wv n v).cpu.inbox = s.cpu.inbox := rfl
@[simp] theorem wv_cpu_squashed (s : State) (n : Reg) (v : VReg) : (s.wv n v).cpu.squashed = s.cpu.squashed := rfl
@[simp] theorem wv_cpu_streak (s : State) (n : Reg) (v : VReg) : (s.wv n v).cpu.streak = s.cpu.streak := rfl
@[simp] theorem wv_cpu_guarded (s : State) (n : Reg) (v : VReg) : (s.wv n v).cpu.guarded = s.cpu.guarded := rfl
@[simp] theorem wv_cpu_capped (s : State) (n : Reg) (v : VReg) : (s.wv n v).cpu.capped = s.cpu.capped := rfl
@[simp] theorem wv_cpu_bank (s : State) (n : Reg) (v : VReg) : (s.wv n v).cpu.bank = s.cpu.bank := rfl
@[simp] theorem wv_cpu_loupe (s : State) (n : Reg) (v : VReg) : (s.wv n v).cpu.loupe = s.cpu.loupe := rfl
@[simp] theorem wv_cpu_lcnt (s : State) (n : Reg) (v : VReg) : (s.wv n v).cpu.lcnt = s.cpu.lcnt := rfl
@[simp] theorem wv_cpu_ir (s : State) (n : Reg) (v : VReg) : (s.wv n v).cpu.ir = s.cpu.ir := rfl
@[simp] theorem wv_cpu_entering (s : State) (n : Reg) (v : VReg) : (s.wv n v).cpu.entering = s.cpu.entering := rfl
@[simp] theorem wv_cpu_asked (s : State) (n : Reg) (v : VReg) : (s.wv n v).cpu.asked = s.cpu.asked := rfl
@[simp] theorem wv_cpu_recut (s : State) (n : Reg) (v : VReg) : (s.wv n v).cpu.recut = s.cpu.recut := rfl
@[simp] theorem wv_cpu_seen (s : State) (n : Reg) (v : VReg) : (s.wv n v).cpu.seen = s.cpu.seen := rfl
@[simp] theorem wv_cpu_loads (s : State) (n : Reg) (v : VReg) : (s.wv n v).cpu.loads = s.cpu.loads := rfl
@[simp] theorem wv_cpu_fetching (s : State) (n : Reg) (v : VReg) : (s.wv n v).cpu.fetching = s.cpu.fetching := rfl
@[simp] theorem wv_cpu_held (s : State) (n : Reg) (v : VReg) : (s.wv n v).cpu.held = s.cpu.held := rfl

@[simp] theorem wk_older (s : State) (n : KIdx) (v : KReg) : (s.wk n v).older = s.older := rfl
@[simp] theorem wk_younger (s : State) (n : KIdx) (v : KReg) : (s.wk n v).younger = s.younger := rfl
@[simp] theorem wk_thr (s : State) (n : KIdx) (v : KReg) : (s.wk n v).thr = s.thr := rfl
@[simp] theorem wk_live (s : State) (n : KIdx) (v : KReg) : (s.wk n v).live = s.live := rfl
@[simp] theorem wk_ring (s : State) (n : KIdx) (v : KReg) : (s.wk n v).ring = s.ring := rfl
@[simp] theorem wk_others (s : State) (n : KIdx) (v : KReg) : (s.wk n v).others = s.others := rfl
@[simp] theorem wk_saved (s : State) (n : KIdx) (v : KReg) : (s.wk n v).saved = s.saved := rfl
@[simp] theorem wk_mem (s : State) (n : KIdx) (v : KReg) : (s.wk n v).mem = s.mem := rfl
@[simp] theorem wk_coh (s : State) (n : KIdx) (v : KReg) : (s.wk n v).coh = s.coh := rfl
@[simp] theorem wk_host (s : State) (n : KIdx) (v : KReg) : (s.wk n v).host = s.host := rfl
@[simp] theorem wk_plat (s : State) (n : KIdx) (v : KReg) : (s.wk n v).plat = s.plat := rfl
@[simp] theorem wk_cyc (s : State) (n : KIdx) (v : KReg) : (s.wk n v).cyc = s.cyc := rfl
@[simp] theorem wk_tick (s : State) (n : KIdx) (v : KReg) : (s.wk n v).tick = s.tick := rfl
@[simp] theorem wk_agenda (s : State) (n : KIdx) (v : KReg) : (s.wk n v).agenda = s.agenda := rfl
@[simp] theorem wk_cpu_num (s : State) (n : KIdx) (v : KReg) : (s.wk n v).cpu.num = s.cpu.num := rfl
@[simp] theorem wk_cpu_core (s : State) (n : KIdx) (v : KReg) : (s.wk n v).cpu.core = s.cpu.core := rfl
@[simp] theorem wk_cpu_pc (s : State) (n : KIdx) (v : KReg) : (s.wk n v).cpu.pc = s.cpu.pc := rfl
@[simp] theorem wk_cpu_x (s : State) (n : KIdx) (v : KReg) : (s.wk n v).cpu.x = s.cpu.x := rfl
@[simp] theorem wk_cpu_v (s : State) (n : KIdx) (v : KReg) : (s.wk n v).cpu.v = s.cpu.v := rfl
@[simp] theorem wk_cpu_vdead (s : State) (n : KIdx) (v : KReg) : (s.wk n v).cpu.vdead = s.cpu.vdead := rfl
@[simp] theorem wk_cpu_stat (s : State) (n : KIdx) (v : KReg) : (s.wk n v).cpu.stat = s.cpu.stat := rfl
@[simp] theorem wk_cpu_fflags (s : State) (n : KIdx) (v : KReg) : (s.wk n v).cpu.fflags = s.cpu.fflags := rfl
@[simp] theorem wk_cpu_vl (s : State) (n : KIdx) (v : KReg) : (s.wk n v).cpu.vl = s.cpu.vl := rfl
@[simp] theorem wk_cpu_vew (s : State) (n : KIdx) (v : KReg) : (s.wk n v).cpu.vew = s.cpu.vew := rfl
@[simp] theorem wk_cpu_vstart (s : State) (n : KIdx) (v : KReg) : (s.wk n v).cpu.vstart = s.cpu.vstart := rfl
@[simp] theorem wk_cpu_seed (s : State) (n : KIdx) (v : KReg) : (s.wk n v).cpu.seed = s.cpu.seed := rfl
@[simp] theorem wk_cpu_sbase (s : State) (n : KIdx) (v : KReg) : (s.wk n v).cpu.sbase = s.cpu.sbase := rfl
@[simp] theorem wk_cpu_fxs (s : State) (n : KIdx) (v : KReg) : (s.wk n v).cpu.fxs = s.cpu.fxs := rfl
@[simp] theorem wk_cpu_rptst (s : State) (n : KIdx) (v : KReg) : (s.wk n v).cpu.rptst = s.cpu.rptst := rfl
@[simp] theorem wk_cpu_ls (s : State) (n : KIdx) (v : KReg) : (s.wk n v).cpu.ls = s.cpu.ls := rfl
@[simp] theorem wk_cpu_lsTag (s : State) (n : KIdx) (v : KReg) : (s.wk n v).cpu.lsTag = s.cpu.lsTag := rfl
@[simp] theorem wk_cpu_pend (s : State) (n : KIdx) (v : KReg) : (s.wk n v).cpu.pend = s.cpu.pend := rfl
@[simp] theorem wk_cpu_flight (s : State) (n : KIdx) (v : KReg) : (s.wk n v).cpu.flight = s.cpu.flight := rfl
@[simp] theorem wk_cpu_turn (s : State) (n : KIdx) (v : KReg) : (s.wk n v).cpu.turn = s.cpu.turn := rfl
@[simp] theorem wk_cpu_frame (s : State) (n : KIdx) (v : KReg) : (s.wk n v).cpu.frame = s.cpu.frame := rfl
@[simp] theorem wk_cpu_park (s : State) (n : KIdx) (v : KReg) : (s.wk n v).cpu.park = s.cpu.park := rfl
@[simp] theorem wk_cpu_trap (s : State) (n : KIdx) (v : KReg) : (s.wk n v).cpu.trap = s.cpu.trap := rfl
@[simp] theorem wk_cpu_ended (s : State) (n : KIdx) (v : KReg) : (s.wk n v).cpu.ended = s.cpu.ended := rfl
@[simp] theorem wk_cpu_cut (s : State) (n : KIdx) (v : KReg) : (s.wk n v).cpu.cut = s.cpu.cut := rfl
@[simp] theorem wk_cpu_mask (s : State) (n : KIdx) (v : KReg) : (s.wk n v).cpu.mask = s.cpu.mask := rfl
@[simp] theorem wk_cpu_left (s : State) (n : KIdx) (v : KReg) : (s.wk n v).cpu.left = s.cpu.left := rfl
@[simp] theorem wk_cpu_final (s : State) (n : KIdx) (v : KReg) : (s.wk n v).cpu.final = s.cpu.final := rfl
@[simp] theorem wk_cpu_wait (s : State) (n : KIdx) (v : KReg) : (s.wk n v).cpu.wait = s.cpu.wait := rfl
@[simp] theorem wk_cpu_pred (s : State) (n : KIdx) (v : KReg) : (s.wk n v).cpu.pred = s.cpu.pred := rfl
@[simp] theorem wk_cpu_sent (s : State) (n : KIdx) (v : KReg) : (s.wk n v).cpu.sent = s.cpu.sent := rfl
@[simp] theorem wk_cpu_wrote (s : State) (n : KIdx) (v : KReg) : (s.wk n v).cpu.wrote = s.cpu.wrote := rfl
@[simp] theorem wk_cpu_used (s : State) (n : KIdx) (v : KReg) : (s.wk n v).cpu.used = s.cpu.used := rfl
@[simp] theorem wk_cpu_made (s : State) (n : KIdx) (v : KReg) : (s.wk n v).cpu.made = s.cpu.made := rfl
@[simp] theorem wk_cpu_outbox (s : State) (n : KIdx) (v : KReg) : (s.wk n v).cpu.outbox = s.cpu.outbox := rfl
@[simp] theorem wk_cpu_start (s : State) (n : KIdx) (v : KReg) : (s.wk n v).cpu.start = s.cpu.start := rfl
@[simp] theorem wk_cpu_ver (s : State) (n : KIdx) (v : KReg) : (s.wk n v).cpu.ver = s.cpu.ver := rfl
@[simp] theorem wk_cpu_stores (s : State) (n : KIdx) (v : KReg) : (s.wk n v).cpu.stores = s.cpu.stores := rfl
@[simp] theorem wk_cpu_loaded (s : State) (n : KIdx) (v : KReg) : (s.wk n v).cpu.loaded = s.cpu.loaded := rfl
@[simp] theorem wk_cpu_touches (s : State) (n : KIdx) (v : KReg) : (s.wk n v).cpu.touches = s.cpu.touches := rfl
@[simp] theorem wk_cpu_reads (s : State) (n : KIdx) (v : KReg) : (s.wk n v).cpu.reads = s.cpu.reads := rfl
@[simp] theorem wk_cpu_upds (s : State) (n : KIdx) (v : KReg) : (s.wk n v).cpu.upds = s.cpu.upds := rfl
@[simp] theorem wk_cpu_inbox (s : State) (n : KIdx) (v : KReg) : (s.wk n v).cpu.inbox = s.cpu.inbox := rfl
@[simp] theorem wk_cpu_squashed (s : State) (n : KIdx) (v : KReg) : (s.wk n v).cpu.squashed = s.cpu.squashed := rfl
@[simp] theorem wk_cpu_streak (s : State) (n : KIdx) (v : KReg) : (s.wk n v).cpu.streak = s.cpu.streak := rfl
@[simp] theorem wk_cpu_guarded (s : State) (n : KIdx) (v : KReg) : (s.wk n v).cpu.guarded = s.cpu.guarded := rfl
@[simp] theorem wk_cpu_capped (s : State) (n : KIdx) (v : KReg) : (s.wk n v).cpu.capped = s.cpu.capped := rfl
@[simp] theorem wk_cpu_bank (s : State) (n : KIdx) (v : KReg) : (s.wk n v).cpu.bank = s.cpu.bank := rfl
@[simp] theorem wk_cpu_loupe (s : State) (n : KIdx) (v : KReg) : (s.wk n v).cpu.loupe = s.cpu.loupe := rfl
@[simp] theorem wk_cpu_lcnt (s : State) (n : KIdx) (v : KReg) : (s.wk n v).cpu.lcnt = s.cpu.lcnt := rfl
@[simp] theorem wk_cpu_ir (s : State) (n : KIdx) (v : KReg) : (s.wk n v).cpu.ir = s.cpu.ir := rfl
@[simp] theorem wk_cpu_entering (s : State) (n : KIdx) (v : KReg) : (s.wk n v).cpu.entering = s.cpu.entering := rfl
@[simp] theorem wk_cpu_asked (s : State) (n : KIdx) (v : KReg) : (s.wk n v).cpu.asked = s.cpu.asked := rfl
@[simp] theorem wk_cpu_recut (s : State) (n : KIdx) (v : KReg) : (s.wk n v).cpu.recut = s.cpu.recut := rfl
@[simp] theorem wk_cpu_seen (s : State) (n : KIdx) (v : KReg) : (s.wk n v).cpu.seen = s.cpu.seen := rfl
@[simp] theorem wk_cpu_loads (s : State) (n : KIdx) (v : KReg) : (s.wk n v).cpu.loads = s.cpu.loads := rfl
@[simp] theorem wk_cpu_fetching (s : State) (n : KIdx) (v : KReg) : (s.wk n v).cpu.fetching = s.cpu.fetching := rfl
@[simp] theorem wk_cpu_held (s : State) (n : KIdx) (v : KReg) : (s.wk n v).cpu.held = s.cpu.held := rfl

@[simp] theorem addFlags_older (s : State) (f : BitVec 7) : (s.addFlags f).older = s.older := rfl
@[simp] theorem addFlags_younger (s : State) (f : BitVec 7) : (s.addFlags f).younger = s.younger := rfl
@[simp] theorem addFlags_thr (s : State) (f : BitVec 7) : (s.addFlags f).thr = s.thr := rfl
@[simp] theorem addFlags_live (s : State) (f : BitVec 7) : (s.addFlags f).live = s.live := rfl
@[simp] theorem addFlags_ring (s : State) (f : BitVec 7) : (s.addFlags f).ring = s.ring := rfl
@[simp] theorem addFlags_others (s : State) (f : BitVec 7) : (s.addFlags f).others = s.others := rfl
@[simp] theorem addFlags_saved (s : State) (f : BitVec 7) : (s.addFlags f).saved = s.saved := rfl
@[simp] theorem addFlags_mem (s : State) (f : BitVec 7) : (s.addFlags f).mem = s.mem := rfl
@[simp] theorem addFlags_coh (s : State) (f : BitVec 7) : (s.addFlags f).coh = s.coh := rfl
@[simp] theorem addFlags_host (s : State) (f : BitVec 7) : (s.addFlags f).host = s.host := rfl
@[simp] theorem addFlags_plat (s : State) (f : BitVec 7) : (s.addFlags f).plat = s.plat := rfl
@[simp] theorem addFlags_cyc (s : State) (f : BitVec 7) : (s.addFlags f).cyc = s.cyc := rfl
@[simp] theorem addFlags_tick (s : State) (f : BitVec 7) : (s.addFlags f).tick = s.tick := rfl
@[simp] theorem addFlags_agenda (s : State) (f : BitVec 7) : (s.addFlags f).agenda = s.agenda := rfl
@[simp] theorem addFlags_cpu_num (s : State) (f : BitVec 7) : (s.addFlags f).cpu.num = s.cpu.num := rfl
@[simp] theorem addFlags_cpu_core (s : State) (f : BitVec 7) : (s.addFlags f).cpu.core = s.cpu.core := rfl
@[simp] theorem addFlags_cpu_pc (s : State) (f : BitVec 7) : (s.addFlags f).cpu.pc = s.cpu.pc := rfl
@[simp] theorem addFlags_cpu_x (s : State) (f : BitVec 7) : (s.addFlags f).cpu.x = s.cpu.x := rfl
@[simp] theorem addFlags_cpu_v (s : State) (f : BitVec 7) : (s.addFlags f).cpu.v = s.cpu.v := rfl
@[simp] theorem addFlags_cpu_vdead (s : State) (f : BitVec 7) : (s.addFlags f).cpu.vdead = s.cpu.vdead := rfl
@[simp] theorem addFlags_cpu_k (s : State) (f : BitVec 7) : (s.addFlags f).cpu.k = s.cpu.k := rfl
@[simp] theorem addFlags_cpu_stat (s : State) (f : BitVec 7) : (s.addFlags f).cpu.stat = s.cpu.stat := rfl
@[simp] theorem addFlags_cpu_vl (s : State) (f : BitVec 7) : (s.addFlags f).cpu.vl = s.cpu.vl := rfl
@[simp] theorem addFlags_cpu_vew (s : State) (f : BitVec 7) : (s.addFlags f).cpu.vew = s.cpu.vew := rfl
@[simp] theorem addFlags_cpu_vstart (s : State) (f : BitVec 7) : (s.addFlags f).cpu.vstart = s.cpu.vstart := rfl
@[simp] theorem addFlags_cpu_seed (s : State) (f : BitVec 7) : (s.addFlags f).cpu.seed = s.cpu.seed := rfl
@[simp] theorem addFlags_cpu_sbase (s : State) (f : BitVec 7) : (s.addFlags f).cpu.sbase = s.cpu.sbase := rfl
@[simp] theorem addFlags_cpu_fxs (s : State) (f : BitVec 7) : (s.addFlags f).cpu.fxs = s.cpu.fxs := rfl
@[simp] theorem addFlags_cpu_rptst (s : State) (f : BitVec 7) : (s.addFlags f).cpu.rptst = s.cpu.rptst := rfl
@[simp] theorem addFlags_cpu_ls (s : State) (f : BitVec 7) : (s.addFlags f).cpu.ls = s.cpu.ls := rfl
@[simp] theorem addFlags_cpu_lsTag (s : State) (f : BitVec 7) : (s.addFlags f).cpu.lsTag = s.cpu.lsTag := rfl
@[simp] theorem addFlags_cpu_pend (s : State) (f : BitVec 7) : (s.addFlags f).cpu.pend = s.cpu.pend := rfl
@[simp] theorem addFlags_cpu_flight (s : State) (f : BitVec 7) : (s.addFlags f).cpu.flight = s.cpu.flight := rfl
@[simp] theorem addFlags_cpu_turn (s : State) (f : BitVec 7) : (s.addFlags f).cpu.turn = s.cpu.turn := rfl
@[simp] theorem addFlags_cpu_frame (s : State) (f : BitVec 7) : (s.addFlags f).cpu.frame = s.cpu.frame := rfl
@[simp] theorem addFlags_cpu_park (s : State) (f : BitVec 7) : (s.addFlags f).cpu.park = s.cpu.park := rfl
@[simp] theorem addFlags_cpu_trap (s : State) (f : BitVec 7) : (s.addFlags f).cpu.trap = s.cpu.trap := rfl
@[simp] theorem addFlags_cpu_ended (s : State) (f : BitVec 7) : (s.addFlags f).cpu.ended = s.cpu.ended := rfl
@[simp] theorem addFlags_cpu_cut (s : State) (f : BitVec 7) : (s.addFlags f).cpu.cut = s.cpu.cut := rfl
@[simp] theorem addFlags_cpu_mask (s : State) (f : BitVec 7) : (s.addFlags f).cpu.mask = s.cpu.mask := rfl
@[simp] theorem addFlags_cpu_left (s : State) (f : BitVec 7) : (s.addFlags f).cpu.left = s.cpu.left := rfl
@[simp] theorem addFlags_cpu_final (s : State) (f : BitVec 7) : (s.addFlags f).cpu.final = s.cpu.final := rfl
@[simp] theorem addFlags_cpu_wait (s : State) (f : BitVec 7) : (s.addFlags f).cpu.wait = s.cpu.wait := rfl
@[simp] theorem addFlags_cpu_pred (s : State) (f : BitVec 7) : (s.addFlags f).cpu.pred = s.cpu.pred := rfl
@[simp] theorem addFlags_cpu_sent (s : State) (f : BitVec 7) : (s.addFlags f).cpu.sent = s.cpu.sent := rfl
@[simp] theorem addFlags_cpu_wrote (s : State) (f : BitVec 7) : (s.addFlags f).cpu.wrote = s.cpu.wrote := rfl
@[simp] theorem addFlags_cpu_used (s : State) (f : BitVec 7) : (s.addFlags f).cpu.used = s.cpu.used := rfl
@[simp] theorem addFlags_cpu_made (s : State) (f : BitVec 7) : (s.addFlags f).cpu.made = s.cpu.made := rfl
@[simp] theorem addFlags_cpu_outbox (s : State) (f : BitVec 7) : (s.addFlags f).cpu.outbox = s.cpu.outbox := rfl
@[simp] theorem addFlags_cpu_start (s : State) (f : BitVec 7) : (s.addFlags f).cpu.start = s.cpu.start := rfl
@[simp] theorem addFlags_cpu_ver (s : State) (f : BitVec 7) : (s.addFlags f).cpu.ver = s.cpu.ver := rfl
@[simp] theorem addFlags_cpu_stores (s : State) (f : BitVec 7) : (s.addFlags f).cpu.stores = s.cpu.stores := rfl
@[simp] theorem addFlags_cpu_loaded (s : State) (f : BitVec 7) : (s.addFlags f).cpu.loaded = s.cpu.loaded := rfl
@[simp] theorem addFlags_cpu_touches (s : State) (f : BitVec 7) : (s.addFlags f).cpu.touches = s.cpu.touches := rfl
@[simp] theorem addFlags_cpu_reads (s : State) (f : BitVec 7) : (s.addFlags f).cpu.reads = s.cpu.reads := rfl
@[simp] theorem addFlags_cpu_upds (s : State) (f : BitVec 7) : (s.addFlags f).cpu.upds = s.cpu.upds := rfl
@[simp] theorem addFlags_cpu_inbox (s : State) (f : BitVec 7) : (s.addFlags f).cpu.inbox = s.cpu.inbox := rfl
@[simp] theorem addFlags_cpu_squashed (s : State) (f : BitVec 7) : (s.addFlags f).cpu.squashed = s.cpu.squashed := rfl
@[simp] theorem addFlags_cpu_streak (s : State) (f : BitVec 7) : (s.addFlags f).cpu.streak = s.cpu.streak := rfl
@[simp] theorem addFlags_cpu_guarded (s : State) (f : BitVec 7) : (s.addFlags f).cpu.guarded = s.cpu.guarded := rfl
@[simp] theorem addFlags_cpu_capped (s : State) (f : BitVec 7) : (s.addFlags f).cpu.capped = s.cpu.capped := rfl
@[simp] theorem addFlags_cpu_bank (s : State) (f : BitVec 7) : (s.addFlags f).cpu.bank = s.cpu.bank := rfl
@[simp] theorem addFlags_cpu_loupe (s : State) (f : BitVec 7) : (s.addFlags f).cpu.loupe = s.cpu.loupe := rfl
@[simp] theorem addFlags_cpu_lcnt (s : State) (f : BitVec 7) : (s.addFlags f).cpu.lcnt = s.cpu.lcnt := rfl
@[simp] theorem addFlags_cpu_ir (s : State) (f : BitVec 7) : (s.addFlags f).cpu.ir = s.cpu.ir := rfl
@[simp] theorem addFlags_cpu_entering (s : State) (f : BitVec 7) : (s.addFlags f).cpu.entering = s.cpu.entering := rfl
@[simp] theorem addFlags_cpu_asked (s : State) (f : BitVec 7) : (s.addFlags f).cpu.asked = s.cpu.asked := rfl
@[simp] theorem addFlags_cpu_recut (s : State) (f : BitVec 7) : (s.addFlags f).cpu.recut = s.cpu.recut := rfl
@[simp] theorem addFlags_cpu_seen (s : State) (f : BitVec 7) : (s.addFlags f).cpu.seen = s.cpu.seen := rfl
@[simp] theorem addFlags_cpu_loads (s : State) (f : BitVec 7) : (s.addFlags f).cpu.loads = s.cpu.loads := rfl
@[simp] theorem addFlags_cpu_fetching (s : State) (f : BitVec 7) : (s.addFlags f).cpu.fetching = s.cpu.fetching := rfl
@[simp] theorem addFlags_cpu_held (s : State) (f : BitVec 7) : (s.addFlags f).cpu.held = s.cpu.held := rfl

@[simp] theorem vdone_older (s : State) : (s.vdone).older = s.older := rfl
@[simp] theorem vdone_younger (s : State) : (s.vdone).younger = s.younger := rfl
@[simp] theorem vdone_thr (s : State) : (s.vdone).thr = s.thr := rfl
@[simp] theorem vdone_live (s : State) : (s.vdone).live = s.live := rfl
@[simp] theorem vdone_ring (s : State) : (s.vdone).ring = s.ring := rfl
@[simp] theorem vdone_others (s : State) : (s.vdone).others = s.others := rfl
@[simp] theorem vdone_saved (s : State) : (s.vdone).saved = s.saved := rfl
@[simp] theorem vdone_mem (s : State) : (s.vdone).mem = s.mem := rfl
@[simp] theorem vdone_coh (s : State) : (s.vdone).coh = s.coh := rfl
@[simp] theorem vdone_host (s : State) : (s.vdone).host = s.host := rfl
@[simp] theorem vdone_plat (s : State) : (s.vdone).plat = s.plat := rfl
@[simp] theorem vdone_cyc (s : State) : (s.vdone).cyc = s.cyc := rfl
@[simp] theorem vdone_tick (s : State) : (s.vdone).tick = s.tick := rfl
@[simp] theorem vdone_agenda (s : State) : (s.vdone).agenda = s.agenda := rfl
@[simp] theorem vdone_cpu_num (s : State) : (s.vdone).cpu.num = s.cpu.num := rfl
@[simp] theorem vdone_cpu_core (s : State) : (s.vdone).cpu.core = s.cpu.core := rfl
@[simp] theorem vdone_cpu_x (s : State) : (s.vdone).cpu.x = s.cpu.x := rfl
@[simp] theorem vdone_cpu_v (s : State) : (s.vdone).cpu.v = s.cpu.v := rfl
@[simp] theorem vdone_cpu_vdead (s : State) : (s.vdone).cpu.vdead = s.cpu.vdead := rfl
@[simp] theorem vdone_cpu_k (s : State) : (s.vdone).cpu.k = s.cpu.k := rfl
@[simp] theorem vdone_cpu_stat (s : State) : (s.vdone).cpu.stat = s.cpu.stat := rfl
@[simp] theorem vdone_cpu_fflags (s : State) : (s.vdone).cpu.fflags = s.cpu.fflags := rfl
@[simp] theorem vdone_cpu_vl (s : State) : (s.vdone).cpu.vl = s.cpu.vl := rfl
@[simp] theorem vdone_cpu_vew (s : State) : (s.vdone).cpu.vew = s.cpu.vew := rfl
@[simp] theorem vdone_cpu_seed (s : State) : (s.vdone).cpu.seed = s.cpu.seed := rfl
@[simp] theorem vdone_cpu_sbase (s : State) : (s.vdone).cpu.sbase = s.cpu.sbase := rfl
@[simp] theorem vdone_cpu_fxs (s : State) : (s.vdone).cpu.fxs = s.cpu.fxs := rfl
@[simp] theorem vdone_cpu_rptst (s : State) : (s.vdone).cpu.rptst = s.cpu.rptst := rfl
@[simp] theorem vdone_cpu_ls (s : State) : (s.vdone).cpu.ls = s.cpu.ls := rfl
@[simp] theorem vdone_cpu_lsTag (s : State) : (s.vdone).cpu.lsTag = s.cpu.lsTag := rfl
@[simp] theorem vdone_cpu_pend (s : State) : (s.vdone).cpu.pend = s.cpu.pend := rfl
@[simp] theorem vdone_cpu_flight (s : State) : (s.vdone).cpu.flight = s.cpu.flight := rfl
@[simp] theorem vdone_cpu_turn (s : State) : (s.vdone).cpu.turn = s.cpu.turn := rfl
@[simp] theorem vdone_cpu_frame (s : State) : (s.vdone).cpu.frame = s.cpu.frame := rfl
@[simp] theorem vdone_cpu_park (s : State) : (s.vdone).cpu.park = s.cpu.park := rfl
@[simp] theorem vdone_cpu_trap (s : State) : (s.vdone).cpu.trap = s.cpu.trap := rfl
@[simp] theorem vdone_cpu_ended (s : State) : (s.vdone).cpu.ended = s.cpu.ended := rfl
@[simp] theorem vdone_cpu_cut (s : State) : (s.vdone).cpu.cut = s.cpu.cut := rfl
@[simp] theorem vdone_cpu_mask (s : State) : (s.vdone).cpu.mask = s.cpu.mask := rfl
@[simp] theorem vdone_cpu_left (s : State) : (s.vdone).cpu.left = s.cpu.left := rfl
@[simp] theorem vdone_cpu_final (s : State) : (s.vdone).cpu.final = s.cpu.final := rfl
@[simp] theorem vdone_cpu_wait (s : State) : (s.vdone).cpu.wait = s.cpu.wait := rfl
@[simp] theorem vdone_cpu_pred (s : State) : (s.vdone).cpu.pred = s.cpu.pred := rfl
@[simp] theorem vdone_cpu_sent (s : State) : (s.vdone).cpu.sent = s.cpu.sent := rfl
@[simp] theorem vdone_cpu_wrote (s : State) : (s.vdone).cpu.wrote = s.cpu.wrote := rfl
@[simp] theorem vdone_cpu_used (s : State) : (s.vdone).cpu.used = s.cpu.used := rfl
@[simp] theorem vdone_cpu_made (s : State) : (s.vdone).cpu.made = s.cpu.made := rfl
@[simp] theorem vdone_cpu_outbox (s : State) : (s.vdone).cpu.outbox = s.cpu.outbox := rfl
@[simp] theorem vdone_cpu_start (s : State) : (s.vdone).cpu.start = s.cpu.start := rfl
@[simp] theorem vdone_cpu_ver (s : State) : (s.vdone).cpu.ver = s.cpu.ver := rfl
@[simp] theorem vdone_cpu_stores (s : State) : (s.vdone).cpu.stores = s.cpu.stores := rfl
@[simp] theorem vdone_cpu_loaded (s : State) : (s.vdone).cpu.loaded = s.cpu.loaded := rfl
@[simp] theorem vdone_cpu_touches (s : State) : (s.vdone).cpu.touches = s.cpu.touches := rfl
@[simp] theorem vdone_cpu_reads (s : State) : (s.vdone).cpu.reads = s.cpu.reads := rfl
@[simp] theorem vdone_cpu_upds (s : State) : (s.vdone).cpu.upds = s.cpu.upds := rfl
@[simp] theorem vdone_cpu_inbox (s : State) : (s.vdone).cpu.inbox = s.cpu.inbox := rfl
@[simp] theorem vdone_cpu_squashed (s : State) : (s.vdone).cpu.squashed = s.cpu.squashed := rfl
@[simp] theorem vdone_cpu_streak (s : State) : (s.vdone).cpu.streak = s.cpu.streak := rfl
@[simp] theorem vdone_cpu_guarded (s : State) : (s.vdone).cpu.guarded = s.cpu.guarded := rfl
@[simp] theorem vdone_cpu_capped (s : State) : (s.vdone).cpu.capped = s.cpu.capped := rfl
@[simp] theorem vdone_cpu_bank (s : State) : (s.vdone).cpu.bank = s.cpu.bank := rfl
@[simp] theorem vdone_cpu_loupe (s : State) : (s.vdone).cpu.loupe = s.cpu.loupe := rfl
@[simp] theorem vdone_cpu_lcnt (s : State) : (s.vdone).cpu.lcnt = s.cpu.lcnt := rfl
@[simp] theorem vdone_cpu_ir (s : State) : (s.vdone).cpu.ir = s.cpu.ir := rfl
@[simp] theorem vdone_cpu_entering (s : State) : (s.vdone).cpu.entering = s.cpu.entering := rfl
@[simp] theorem vdone_cpu_asked (s : State) : (s.vdone).cpu.asked = s.cpu.asked := rfl
@[simp] theorem vdone_cpu_recut (s : State) : (s.vdone).cpu.recut = s.cpu.recut := rfl
@[simp] theorem vdone_cpu_seen (s : State) : (s.vdone).cpu.seen = s.cpu.seen := rfl
@[simp] theorem vdone_cpu_loads (s : State) : (s.vdone).cpu.loads = s.cpu.loads := rfl
@[simp] theorem vdone_cpu_fetching (s : State) : (s.vdone).cpu.fetching = s.cpu.fetching := rfl
@[simp] theorem vdone_cpu_held (s : State) : (s.vdone).cpu.held = s.cpu.held := rfl

end Sys2Proof.Machine
end

