-- ==== Sys2Proof/Laws/Breach.lean ====
section
/-! SUPPORT. What looking for breaches of unchecked obligations can do (R8, R387, R388, log entry 25): it remembers, and marks an
address space or a command, and leaves everything else alone.
-/

namespace Sys2Proof.Machine

theorem breach_eq (s : State) (a : BitVec 12) : s.breach a = { s with coh := { s.coh with breach := addNew a s.coh.breach } } := rfl

@[simp] theorem breach_cpu (s : State) (a : BitVec 12) : (s.breach a).cpu = s.cpu := rfl
@[simp] theorem breach_thr (s : State) (a : BitVec 12) : (s.breach a).thr = s.thr := rfl
@[simp] theorem breach_mem (s : State) (a : BitVec 12) : (s.breach a).mem = s.mem := rfl
@[simp] theorem breach_dir (s : State) (a : BitVec 12) : (s.breach a).coh.dir = s.coh.dir := rfl
@[simp] theorem breach_plat (s : State) (a : BitVec 12) : (s.breach a).plat = s.plat := rfl
@[simp] theorem breach_host (s : State) (a : BitVec 12) : (s.breach a).host = s.host := rfl

/-- Looking for an alias changes what the open region remembers and which address spaces are in breach, and nothing else. -/
theorem unaliased_eq (s : State) (w r : List Extent) : ∃ g l, s.unaliased w r =
    { s with thr := { s.thr with region := g }, coh := { s.coh with breach := l } } := by
  unfold State.unaliased
  split
  · exact ⟨s.thr.region, s.coh.breach, rfl⟩
  · split <;> exact ⟨_, _, rfl⟩

@[simp] theorem unaliased_cpu (s : State) (w r : List Extent) : (s.unaliased w r).cpu = s.cpu := by
  obtain ⟨g, l, h⟩ := unaliased_eq s w r
  rw [h]
@[simp] theorem unaliased_mem (s : State) (w r : List Extent) : (s.unaliased w r).mem = s.mem := by
  obtain ⟨g, l, h⟩ := unaliased_eq s w r
  rw [h]
@[simp] theorem unaliased_dir (s : State) (w r : List Extent) : (s.unaliased w r).coh.dir = s.coh.dir := by
  obtain ⟨g, l, h⟩ := unaliased_eq s w r
  rw [h]
@[simp] theorem unaliased_plat (s : State) (w r : List Extent) : (s.unaliased w r).plat = s.plat := by
  obtain ⟨g, l, h⟩ := unaliased_eq s w r
  rw [h]
/-- Outside an open region there is nothing to look at. -/
theorem unaliased_closed {s : State} (w r : List Extent) (h : s.openRegion = none) : s.unaliased w r = s := by
  simp only [State.unaliased, h]

/-- What looking at outstanding copy commands can do. -/
def Marked (s t : State) : Prop := ∃ l c, t = { s with coh := { s.coh with breach := l }, thr := { s.thr with cmds := c } }

theorem Marked.refl (s : State) : Marked s s := ⟨s.coh.breach, s.thr.cmds, rfl⟩
theorem Marked.trans {s t u : State} (h : Marked s t) (g : Marked t u) : Marked s u := by
  obtain ⟨l, c, rfl⟩ := h
  obtain ⟨m, d, rfl⟩ := g
  exact ⟨m, d, rfl⟩
theorem Marked.foldl {α : Type} (f : State → α → State) (h : ∀ s a, Marked s (f s a)) (l : List α) : ∀ s, Marked s (l.foldl f s) := by
  induction l with
  | nil => exact Marked.refl
  | cons a r ih => exact fun s => (h s a).trans (ih _)

theorem checkCopy_marked (before : State) (r : RingCtx) (s : State) (c : CopyCmd) : Marked s (State.checkCopy before r s c) := by
  have ite (p q : Prop) [Decidable p] [Decidable q] (x y z : State) (hx : Marked s x) (hy : Marked s y) (hz : Marked s z) :
      Marked s (if p then x else if q then y else z) := by
    split
    · exact hx
    · split <;> assumption
  unfold State.checkCopy
  exact ite _ _ _ _ _ ⟨_, s.thr.cmds, rfl⟩ ⟨s.coh.breach, _, rfl⟩ (Marked.refl s)

/-- Looking at the outstanding copy commands after a step marks commands and address spaces, and leaves everything else alone. -/
theorem checkCopies_marked (s before : State) : Marked s (s.checkCopies before) :=
  Marked.foldl _ (fun t r => Marked.foldl _ (fun u c => checkCopy_marked before r u c) _ t) _ s

@[simp] theorem checkCopies_cpu (s before : State) : (s.checkCopies before).cpu = s.cpu := by
  obtain ⟨l, c, h⟩ := checkCopies_marked s before
  rw [h]
@[simp] theorem checkCopies_mem (s before : State) : (s.checkCopies before).mem = s.mem := by
  obtain ⟨l, c, h⟩ := checkCopies_marked s before
  rw [h]
@[simp] theorem checkCopies_dir (s before : State) : (s.checkCopies before).coh.dir = s.coh.dir := by
  obtain ⟨l, c, h⟩ := checkCopies_marked s before
  rw [h]
@[simp] theorem checkCopies_plat (s before : State) : (s.checkCopies before).plat = s.plat := by
  obtain ⟨l, c, h⟩ := checkCopies_marked s before
  rw [h]

end Sys2Proof.Machine
end

