-- ==== Sys2Proof/Laws/Exec.lean ====
section
/-! SUPPORT. The arms of `exec`, one lemma each: an instruction or step means what its own definition says. -/

namespace Sys2Proof.Machine

@[simp] theorem exec_add (d : BitVec 5) (a : BitVec 5) (b : BitVec 5) (s : State) : exec (.add d a b) s = execAdd d a b s := rfl
@[simp] theorem exec_sub (d : BitVec 5) (a : BitVec 5) (b : BitVec 5) (s : State) : exec (.sub d a b) s = execSub d a b s := rfl
@[simp] theorem exec_and (d : BitVec 5) (a : BitVec 5) (b : BitVec 5) (s : State) : exec (.and d a b) s = execAnd d a b s := rfl
@[simp] theorem exec_or (d : BitVec 5) (a : BitVec 5) (b : BitVec 5) (s : State) : exec (.or d a b) s = execOr d a b s := rfl
@[simp] theorem exec_xor (d : BitVec 5) (a : BitVec 5) (b : BitVec 5) (s : State) : exec (.xor d a b) s = execXor d a b s := rfl
@[simp] theorem exec_andn (d : BitVec 5) (a : BitVec 5) (b : BitVec 5) (s : State) : exec (.andn d a b) s = execAndn d a b s := rfl
@[simp] theorem exec_orn (d : BitVec 5) (a : BitVec 5) (b : BitVec 5) (s : State) : exec (.orn d a b) s = execOrn d a b s := rfl
@[simp] theorem exec_sll (d : BitVec 5) (a : BitVec 5) (b : BitVec 5) (s : State) : exec (.sll d a b) s = execSll d a b s := rfl
@[simp] theorem exec_srl (d : BitVec 5) (a : BitVec 5) (b : BitVec 5) (s : State) : exec (.srl d a b) s = execSrl d a b s := rfl
@[simp] theorem exec_sra (d : BitVec 5) (a : BitVec 5) (b : BitVec 5) (s : State) : exec (.sra d a b) s = execSra d a b s := rfl
@[simp] theorem exec_slt (d : BitVec 5) (a : BitVec 5) (b : BitVec 5) (s : State) : exec (.slt d a b) s = execSlt d a b s := rfl
@[simp] theorem exec_sltu (d : BitVec 5) (a : BitVec 5) (b : BitVec 5) (s : State) : exec (.sltu d a b) s = execSltu d a b s := rfl
@[simp] theorem exec_min (d : BitVec 5) (a : BitVec 5) (b : BitVec 5) (s : State) : exec (.min d a b) s = execMin d a b s := rfl
@[simp] theorem exec_max (d : BitVec 5) (a : BitVec 5) (b : BitVec 5) (s : State) : exec (.max d a b) s = execMax d a b s := rfl
@[simp] theorem exec_minu (d : BitVec 5) (a : BitVec 5) (b : BitVec 5) (s : State) : exec (.minu d a b) s = execMinu d a b s := rfl
@[simp] theorem exec_maxu (d : BitVec 5) (a : BitVec 5) (b : BitVec 5) (s : State) : exec (.maxu d a b) s = execMaxu d a b s := rfl
@[simp] theorem exec_addw (d : BitVec 5) (a : BitVec 5) (b : BitVec 5) (s : State) : exec (.addw d a b) s = execAddw d a b s := rfl
@[simp] theorem exec_subw (d : BitVec 5) (a : BitVec 5) (b : BitVec 5) (s : State) : exec (.subw d a b) s = execSubw d a b s := rfl
@[simp] theorem exec_sllw (d : BitVec 5) (a : BitVec 5) (b : BitVec 5) (s : State) : exec (.sllw d a b) s = execSllw d a b s := rfl
@[simp] theorem exec_srlw (d : BitVec 5) (a : BitVec 5) (b : BitVec 5) (s : State) : exec (.srlw d a b) s = execSrlw d a b s := rfl
@[simp] theorem exec_sraw (d : BitVec 5) (a : BitVec 5) (b : BitVec 5) (s : State) : exec (.sraw d a b) s = execSraw d a b s := rfl
@[simp] theorem exec_addi (d : BitVec 5) (a : BitVec 5) (m : BitVec 16) (s : State) : exec (.addi d a m) s = execAddi d a m s := rfl
@[simp] theorem exec_andi (d : BitVec 5) (a : BitVec 5) (m : BitVec 16) (s : State) : exec (.andi d a m) s = execAndi d a m s := rfl
@[simp] theorem exec_ori (d : BitVec 5) (a : BitVec 5) (m : BitVec 16) (s : State) : exec (.ori d a m) s = execOri d a m s := rfl
@[simp] theorem exec_xori (d : BitVec 5) (a : BitVec 5) (m : BitVec 16) (s : State) : exec (.xori d a m) s = execXori d a m s := rfl
@[simp] theorem exec_slli (d : BitVec 5) (a : BitVec 5) (n : BitVec 6) (s : State) : exec (.slli d a n) s = execSlli d a n s := rfl
@[simp] theorem exec_srli (d : BitVec 5) (a : BitVec 5) (n : BitVec 6) (s : State) : exec (.srli d a n) s = execSrli d a n s := rfl
@[simp] theorem exec_srai (d : BitVec 5) (a : BitVec 5) (n : BitVec 6) (s : State) : exec (.srai d a n) s = execSrai d a n s := rfl
@[simp] theorem exec_slti (d : BitVec 5) (a : BitVec 5) (m : BitVec 16) (s : State) : exec (.slti d a m) s = execSlti d a m s := rfl
@[simp] theorem exec_sltiu (d : BitVec 5) (a : BitVec 5) (m : BitVec 16) (s : State) : exec (.sltiu d a m) s = execSltiu d a m s := rfl
@[simp] theorem exec_lhi (d : BitVec 5) (m : BitVec 16) (s : State) : exec (.lhi d m) s = execLhi d m s := rfl
@[simp] theorem exec_lpc (d : BitVec 5) (m : BitVec 16) (s : State) : exec (.lpc d m) s = execLpc d m s := rfl
@[simp] theorem exec_mul (d : BitVec 5) (a : BitVec 5) (b : BitVec 5) (s : State) : exec (.mul d a b) s = execMul d a b s := rfl
@[simp] theorem exec_mulh (d : BitVec 5) (a : BitVec 5) (b : BitVec 5) (s : State) : exec (.mulh d a b) s = execMulh d a b s := rfl
@[simp] theorem exec_mulhu (d : BitVec 5) (a : BitVec 5) (b : BitVec 5) (s : State) : exec (.mulhu d a b) s = execMulhu d a b s := rfl
@[simp] theorem exec_mulhsu (d : BitVec 5) (a : BitVec 5) (b : BitVec 5) (s : State) : exec (.mulhsu d a b) s = execMulhsu d a b s := rfl
@[simp] theorem exec_div (d : BitVec 5) (a : BitVec 5) (b : BitVec 5) (s : State) : exec (.div d a b) s = execDiv d a b s := rfl
@[simp] theorem exec_divu (d : BitVec 5) (a : BitVec 5) (b : BitVec 5) (s : State) : exec (.divu d a b) s = execDivu d a b s := rfl
@[simp] theorem exec_rem (d : BitVec 5) (a : BitVec 5) (b : BitVec 5) (s : State) : exec (.rem d a b) s = execRem d a b s := rfl
@[simp] theorem exec_remu (d : BitVec 5) (a : BitVec 5) (b : BitVec 5) (s : State) : exec (.remu d a b) s = execRemu d a b s := rfl
@[simp] theorem exec_mulw (d : BitVec 5) (a : BitVec 5) (b : BitVec 5) (s : State) : exec (.mulw d a b) s = execMulw d a b s := rfl
@[simp] theorem exec_divw (d : BitVec 5) (a : BitVec 5) (b : BitVec 5) (s : State) : exec (.divw d a b) s = execDivw d a b s := rfl
@[simp] theorem exec_remw (d : BitVec 5) (a : BitVec 5) (b : BitVec 5) (s : State) : exec (.remw d a b) s = execRemw d a b s := rfl
@[simp] theorem exec_clz (d : BitVec 5) (a : BitVec 5) (s : State) : exec (.clz d a) s = execClz d a s := rfl
@[simp] theorem exec_ctz (d : BitVec 5) (a : BitVec 5) (s : State) : exec (.ctz d a) s = execCtz d a s := rfl
@[simp] theorem exec_popc (d : BitVec 5) (a : BitVec 5) (s : State) : exec (.popc d a) s = execPopc d a s := rfl
@[simp] theorem exec_brev (d : BitVec 5) (a : BitVec 5) (s : State) : exec (.brev d a) s = execBrev d a s := rfl
@[simp] theorem exec_bswap (d : BitVec 5) (a : BitVec 5) (s : State) : exec (.bswap d a) s = execBswap d a s := rfl
@[simp] theorem exec_sxb (d : BitVec 5) (a : BitVec 5) (s : State) : exec (.sxb d a) s = execSxb d a s := rfl
@[simp] theorem exec_sxh (d : BitVec 5) (a : BitVec 5) (s : State) : exec (.sxh d a) s = execSxh d a s := rfl
@[simp] theorem exec_sxw (d : BitVec 5) (a : BitVec 5) (s : State) : exec (.sxw d a) s = execSxw d a s := rfl
@[simp] theorem exec_zxb (d : BitVec 5) (a : BitVec 5) (s : State) : exec (.zxb d a) s = execZxb d a s := rfl
@[simp] theorem exec_zxh (d : BitVec 5) (a : BitVec 5) (s : State) : exec (.zxh d a) s = execZxh d a s := rfl
@[simp] theorem exec_zxw (d : BitVec 5) (a : BitVec 5) (s : State) : exec (.zxw d a) s = execZxw d a s := rfl
@[simp] theorem exec_rol (d : BitVec 5) (a : BitVec 5) (b : BitVec 5) (s : State) : exec (.rol d a b) s = execRol d a b s := rfl
@[simp] theorem exec_ror (d : BitVec 5) (a : BitVec 5) (b : BitVec 5) (s : State) : exec (.ror d a b) s = execRor d a b s := rfl
@[simp] theorem exec_fadd (d : BitVec 5) (a : BitVec 5) (b : BitVec 5) (r : BitVec 3) (w : BitVec 2) (s : State) : exec (.fadd d a b r w) s = execFadd d a b r w s := rfl
@[simp] theorem exec_fsub (d : BitVec 5) (a : BitVec 5) (b : BitVec 5) (r : BitVec 3) (w : BitVec 2) (s : State) : exec (.fsub d a b r w) s = execFsub d a b r w s := rfl
@[simp] theorem exec_fmul (d : BitVec 5) (a : BitVec 5) (b : BitVec 5) (r : BitVec 3) (w : BitVec 2) (s : State) : exec (.fmul d a b r w) s = execFmul d a b r w s := rfl
@[simp] theorem exec_fdiv (d : BitVec 5) (a : BitVec 5) (b : BitVec 5) (r : BitVec 3) (w : BitVec 2) (s : State) : exec (.fdiv d a b r w) s = execFdiv d a b r w s := rfl
@[simp] theorem exec_fsqrt (d : BitVec 5) (a : BitVec 5) (r : BitVec 3) (w : BitVec 2) (s : State) : exec (.fsqrt d a r w) s = execFsqrt d a r w s := rfl
@[simp] theorem exec_fmin (d : BitVec 5) (a : BitVec 5) (b : BitVec 5) (w : BitVec 2) (s : State) : exec (.fmin d a b w) s = execFmin d a b w s := rfl
@[simp] theorem exec_fmax (d : BitVec 5) (a : BitVec 5) (b : BitVec 5) (w : BitVec 2) (s : State) : exec (.fmax d a b w) s = execFmax d a b w s := rfl
@[simp] theorem exec_feq (d : BitVec 5) (a : BitVec 5) (b : BitVec 5) (w : BitVec 2) (s : State) : exec (.feq d a b w) s = execFeq d a b w s := rfl
@[simp] theorem exec_flt (d : BitVec 5) (a : BitVec 5) (b : BitVec 5) (w : BitVec 2) (s : State) : exec (.flt d a b w) s = execFlt d a b w s := rfl
@[simp] theorem exec_fle (d : BitVec 5) (a : BitVec 5) (b : BitVec 5) (w : BitVec 2) (s : State) : exec (.fle d a b w) s = execFle d a b w s := rfl
@[simp] theorem exec_fclass (d : BitVec 5) (a : BitVec 5) (w : BitVec 2) (s : State) : exec (.fclass d a w) s = execFclass d a w s := rfl
@[simp] theorem exec_fcvtI (d : BitVec 5) (a : BitVec 5) (r : BitVec 3) (k : BitVec 2) (w : BitVec 2) (s : State) : exec (.fcvtI d a r k w) s = execFcvtI d a r k w s := rfl
@[simp] theorem exec_fcvtF (d : BitVec 5) (a : BitVec 5) (r : BitVec 3) (k : BitVec 2) (w : BitVec 2) (s : State) : exec (.fcvtF d a r k w) s = execFcvtF d a r k w s := rfl
@[simp] theorem exec_fcvtW (d : BitVec 5) (a : BitVec 5) (r : BitVec 3) (c : BitVec 2) (w : BitVec 2) (s : State) : exec (.fcvtW d a r c w) s = execFcvtW d a r c w s := rfl
@[simp] theorem exec_fma (d : BitVec 5) (a : BitVec 5) (b : BitVec 5) (c : BitVec 5) (w : BitVec 2) (s : State) : exec (.fma d a b c w) s = execFma d a b c w s := rfl
@[simp] theorem exec_fms (d : BitVec 5) (a : BitVec 5) (b : BitVec 5) (c : BitVec 5) (w : BitVec 2) (s : State) : exec (.fms d a b c w) s = execFms d a b c w s := rfl
@[simp] theorem exec_fnma (d : BitVec 5) (a : BitVec 5) (b : BitVec 5) (c : BitVec 5) (w : BitVec 2) (s : State) : exec (.fnma d a b c w) s = execFnma d a b c w s := rfl
@[simp] theorem exec_fnms (d : BitVec 5) (a : BitVec 5) (b : BitVec 5) (c : BitVec 5) (w : BitVec 2) (s : State) : exec (.fnms d a b c w) s = execFnms d a b c w s := rfl
@[simp] theorem exec_lb (d : BitVec 5) (a : BitVec 5) (m : BitVec 16) (s : State) : exec (.lb d a m) s = execLb d a m s := rfl
@[simp] theorem exec_lbu (d : BitVec 5) (a : BitVec 5) (m : BitVec 16) (s : State) : exec (.lbu d a m) s = execLbu d a m s := rfl
@[simp] theorem exec_lh (d : BitVec 5) (a : BitVec 5) (m : BitVec 16) (s : State) : exec (.lh d a m) s = execLh d a m s := rfl
@[simp] theorem exec_lhu (d : BitVec 5) (a : BitVec 5) (m : BitVec 16) (s : State) : exec (.lhu d a m) s = execLhu d a m s := rfl
@[simp] theorem exec_lw (d : BitVec 5) (a : BitVec 5) (m : BitVec 16) (s : State) : exec (.lw d a m) s = execLw d a m s := rfl
@[simp] theorem exec_lwu (d : BitVec 5) (a : BitVec 5) (m : BitVec 16) (s : State) : exec (.lwu d a m) s = execLwu d a m s := rfl
@[simp] theorem exec_ld (d : BitVec 5) (a : BitVec 5) (m : BitVec 16) (s : State) : exec (.ld d a m) s = execLd d a m s := rfl
@[simp] theorem exec_sb (r : BitVec 5) (a : BitVec 5) (m : BitVec 16) (s : State) : exec (.sb r a m) s = execSb r a m s := rfl
@[simp] theorem exec_sh (r : BitVec 5) (a : BitVec 5) (m : BitVec 16) (s : State) : exec (.sh r a m) s = execSh r a m s := rfl
@[simp] theorem exec_sw (r : BitVec 5) (a : BitVec 5) (m : BitVec 16) (s : State) : exec (.sw r a m) s = execSw r a m s := rfl
@[simp] theorem exec_sd (r : BitVec 5) (a : BitVec 5) (m : BitVec 16) (s : State) : exec (.sd r a m) s = execSd r a m s := rfl
@[simp] theorem exec_ldAcqW (d : BitVec 5) (a : BitVec 5) (scope : BitVec 2) (s : State) : exec (.ldAcqW d a scope) s = execLdAcqW d a scope s := rfl
@[simp] theorem exec_ldAcqD (d : BitVec 5) (a : BitVec 5) (scope : BitVec 2) (s : State) : exec (.ldAcqD d a scope) s = execLdAcqD d a scope s := rfl
@[simp] theorem exec_stRelW (a : BitVec 5) (b : BitVec 5) (scope : BitVec 2) (s : State) : exec (.stRelW a b scope) s = execStRelW a b scope s := rfl
@[simp] theorem exec_stRelD (a : BitVec 5) (b : BitVec 5) (scope : BitVec 2) (s : State) : exec (.stRelD a b scope) s = execStRelD a b scope s := rfl
@[simp] theorem exec_amoSwap (d : BitVec 5) (a : BitVec 5) (b : BitVec 5) (scope : BitVec 2) (o : BitVec 2) (z : BitVec 1) (s : State) : exec (.amoSwap d a b scope o z) s = execAmoSwap d a b scope o z s := rfl
@[simp] theorem exec_amoAdd (d : BitVec 5) (a : BitVec 5) (b : BitVec 5) (scope : BitVec 2) (o : BitVec 2) (z : BitVec 1) (s : State) : exec (.amoAdd d a b scope o z) s = execAmoAdd d a b scope o z s := rfl
@[simp] theorem exec_amoAnd (d : BitVec 5) (a : BitVec 5) (b : BitVec 5) (scope : BitVec 2) (o : BitVec 2) (z : BitVec 1) (s : State) : exec (.amoAnd d a b scope o z) s = execAmoAnd d a b scope o z s := rfl
@[simp] theorem exec_amoOr (d : BitVec 5) (a : BitVec 5) (b : BitVec 5) (scope : BitVec 2) (o : BitVec 2) (z : BitVec 1) (s : State) : exec (.amoOr d a b scope o z) s = execAmoOr d a b scope o z s := rfl
@[simp] theorem exec_amoXor (d : BitVec 5) (a : BitVec 5) (b : BitVec 5) (scope : BitVec 2) (o : BitVec 2) (z : BitVec 1) (s : State) : exec (.amoXor d a b scope o z) s = execAmoXor d a b scope o z s := rfl
@[simp] theorem exec_amoMin (d : BitVec 5) (a : BitVec 5) (b : BitVec 5) (scope : BitVec 2) (o : BitVec 2) (z : BitVec 1) (s : State) : exec (.amoMin d a b scope o z) s = execAmoMin d a b scope o z s := rfl
@[simp] theorem exec_amoMax (d : BitVec 5) (a : BitVec 5) (b : BitVec 5) (scope : BitVec 2) (o : BitVec 2) (z : BitVec 1) (s : State) : exec (.amoMax d a b scope o z) s = execAmoMax d a b scope o z s := rfl
@[simp] theorem exec_amoMinu (d : BitVec 5) (a : BitVec 5) (b : BitVec 5) (scope : BitVec 2) (o : BitVec 2) (z : BitVec 1) (s : State) : exec (.amoMinu d a b scope o z) s = execAmoMinu d a b scope o z s := rfl
@[simp] theorem exec_amoMaxu (d : BitVec 5) (a : BitVec 5) (b : BitVec 5) (scope : BitVec 2) (o : BitVec 2) (z : BitVec 1) (s : State) : exec (.amoMaxu d a b scope o z) s = execAmoMaxu d a b scope o z s := rfl
@[simp] theorem exec_cas (d : BitVec 5) (a : BitVec 5) (b : BitVec 5) (scope : BitVec 2) (o : BitVec 2) (z : BitVec 1) (s : State) : exec (.cas d a b scope o z) s = execCas d a b scope o z s := rfl
@[simp] theorem exec_beq (a : BitVec 5) (b : BitVec 5) (o : BitVec 13) (s : State) : exec (.beq a b o) s = execBeq a b o s := rfl
@[simp] theorem exec_bne (a : BitVec 5) (b : BitVec 5) (o : BitVec 13) (s : State) : exec (.bne a b o) s = execBne a b o s := rfl
@[simp] theorem exec_blt (a : BitVec 5) (b : BitVec 5) (o : BitVec 13) (s : State) : exec (.blt a b o) s = execBlt a b o s := rfl
@[simp] theorem exec_bge (a : BitVec 5) (b : BitVec 5) (o : BitVec 13) (s : State) : exec (.bge a b o) s = execBge a b o s := rfl
@[simp] theorem exec_bltu (a : BitVec 5) (b : BitVec 5) (o : BitVec 13) (s : State) : exec (.bltu a b o) s = execBltu a b o s := rfl
@[simp] theorem exec_bgeu (a : BitVec 5) (b : BitVec 5) (o : BitVec 13) (s : State) : exec (.bgeu a b o) s = execBgeu a b o s := rfl
@[simp] theorem exec_jal (d : BitVec 5) (o : BitVec 21) (s : State) : exec (.jal d o) s = execJal d o s := rfl
@[simp] theorem exec_jalr (d : BitVec 5) (a : BitVec 5) (m : BitVec 16) (s : State) : exec (.jalr d a m) s = execJalr d a m s := rfl
@[simp] theorem exec_jt (d : BitVec 5) (a : BitVec 5) (b : BitVec 5) (s : State) : exec (.jt d a b) s = execJt d a b s := rfl
@[simp] theorem exec_vloop (a : BitVec 5) (k : BitVec 3) (e : BitVec 2) (o : BitVec 13) (s : State) : exec (.vloop a k e o) s = execVloop a k e o s := rfl
@[simp] theorem exec_rpt (d : BitVec 2) (a : BitVec 2) (b : BitVec 2) (c : BitVec 8) (n : BitVec 4) (s : State) : exec (.rpt d a b c n) s = execRpt d a b c n s := rfl
@[simp] theorem exec_fork (a : BitVec 5) (b : BitVec 5) (o : BitVec 13) (s : State) : exec (.fork a b o) s = execFork a b o s := rfl
@[simp] theorem exec_fcut (d : BitVec 5) (o : BitVec 21) (s : State) : exec (.fcut d o) s = execFcut d o s := rfl
@[simp] theorem exec_fence (scope : BitVec 2) (bl : BitVec 1) (bs : BitVec 1) (e : BitVec 1) (s : State) : exec (.fence scope bl bs e) s = execFence scope bl bs e s := rfl
@[simp] theorem exec_waitw (d : BitVec 5) (a : BitVec 5) (b : BitVec 5) (c : BitVec 2) (z : BitVec 1) (s : State) : exec (.waitw d a b c z) s = execWaitw d a b c z s := rfl
@[simp] theorem exec_gjoin (d : BitVec 5) (a : BitVec 5) (s : State) : exec (.gjoin d a) s = execGjoin d a s := rfl
@[simp] theorem exec_gleave (d : BitVec 5) (a : BitVec 5) (s : State) : exec (.gleave d a) s = execGleave d a s := rfl
@[simp] theorem exec_gbar (d : BitVec 5) (a : BitVec 5) (b : BitVec 5) (s : State) : exec (.gbar d a b) s = execGbar d a b s := rfl
@[simp] theorem exec_msend (d : BitVec 5) (a : BitVec 5) (s : State) : exec (.msend d a) s = execMsend d a s := rfl
@[simp] theorem exec_mrecv (d : BitVec 5) (a : BitVec 5) (b : BitVec 5) (s : State) : exec (.mrecv d a b) s = execMrecv d a b s := rfl
@[simp] theorem exec_mcount (d : BitVec 5) (a : BitVec 5) (s : State) : exec (.mcount d a) s = execMcount d a s := rfl
@[simp] theorem exec_spawn (d : BitVec 5) (a : BitVec 5) (s : State) : exec (.spawn d a) s = execSpawn d a s := rfl
@[simp] theorem exec_rexit (a : BitVec 5) (s : State) : exec (.rexit a) s = execRexit a s := rfl
@[simp] theorem exec_yield (d : BitVec 5) (s : State) : exec (.yield d) s = execYield d s := rfl
@[simp] theorem exec_fwd (a : BitVec 5) (s : State) : exec (.fwd a) s = execFwd a s := rfl
@[simp] theorem exec_fserial (s : State) : exec (.fserial) s = execFserial s := rfl
@[simp] theorem exec_vadd (e : BitVec 2) (d : BitVec 5) (a : BitVec 5) (b : BitVec 5) (f : BitVec 2) (k : BitVec 2) (t : BitVec 2) (s : State) : exec (.vadd e d a b f k t) s = execVadd e d a b f k t s := rfl
@[simp] theorem exec_vsub (e : BitVec 2) (d : BitVec 5) (a : BitVec 5) (b : BitVec 5) (f : BitVec 2) (k : BitVec 2) (t : BitVec 2) (s : State) : exec (.vsub e d a b f k t) s = execVsub e d a b f k t s := rfl
@[simp] theorem exec_vrsub (e : BitVec 2) (d : BitVec 5) (a : BitVec 5) (b : BitVec 5) (f : BitVec 2) (k : BitVec 2) (t : BitVec 2) (s : State) : exec (.vrsub e d a b f k t) s = execVrsub e d a b f k t s := rfl
@[simp] theorem exec_vmul (e : BitVec 2) (d : BitVec 5) (a : BitVec 5) (b : BitVec 5) (f : BitVec 2) (k : BitVec 2) (t : BitVec 2) (s : State) : exec (.vmul e d a b f k t) s = execVmul e d a b f k t s := rfl
@[simp] theorem exec_vmulh (e : BitVec 2) (d : BitVec 5) (a : BitVec 5) (b : BitVec 5) (f : BitVec 2) (k : BitVec 2) (t : BitVec 2) (s : State) : exec (.vmulh e d a b f k t) s = execVmulh e d a b f k t s := rfl
@[simp] theorem exec_vmulhu (e : BitVec 2) (d : BitVec 5) (a : BitVec 5) (b : BitVec 5) (f : BitVec 2) (k : BitVec 2) (t : BitVec 2) (s : State) : exec (.vmulhu e d a b f k t) s = execVmulhu e d a b f k t s := rfl
@[simp] theorem exec_vmacc (e : BitVec 2) (d : BitVec 5) (a : BitVec 5) (b : BitVec 5) (f : BitVec 2) (k : BitVec 2) (t : BitVec 2) (s : State) : exec (.vmacc e d a b f k t) s = execVmacc e d a b f k t s := rfl
@[simp] theorem exec_vand (e : BitVec 2) (d : BitVec 5) (a : BitVec 5) (b : BitVec 5) (f : BitVec 2) (k : BitVec 2) (t : BitVec 2) (s : State) : exec (.vand e d a b f k t) s = execVand e d a b f k t s := rfl
@[simp] theorem exec_vor (e : BitVec 2) (d : BitVec 5) (a : BitVec 5) (b : BitVec 5) (f : BitVec 2) (k : BitVec 2) (t : BitVec 2) (s : State) : exec (.vor e d a b f k t) s = execVor e d a b f k t s := rfl
@[simp] theorem exec_vxor (e : BitVec 2) (d : BitVec 5) (a : BitVec 5) (b : BitVec 5) (f : BitVec 2) (k : BitVec 2) (t : BitVec 2) (s : State) : exec (.vxor e d a b f k t) s = execVxor e d a b f k t s := rfl
@[simp] theorem exec_vsll (e : BitVec 2) (d : BitVec 5) (a : BitVec 5) (b : BitVec 5) (f : BitVec 2) (k : BitVec 2) (t : BitVec 2) (s : State) : exec (.vsll e d a b f k t) s = execVsll e d a b f k t s := rfl
@[simp] theorem exec_vsrl (e : BitVec 2) (d : BitVec 5) (a : BitVec 5) (b : BitVec 5) (f : BitVec 2) (k : BitVec 2) (t : BitVec 2) (s : State) : exec (.vsrl e d a b f k t) s = execVsrl e d a b f k t s := rfl
@[simp] theorem exec_vsra (e : BitVec 2) (d : BitVec 5) (a : BitVec 5) (b : BitVec 5) (f : BitVec 2) (k : BitVec 2) (t : BitVec 2) (s : State) : exec (.vsra e d a b f k t) s = execVsra e d a b f k t s := rfl
@[simp] theorem exec_vmin (e : BitVec 2) (d : BitVec 5) (a : BitVec 5) (b : BitVec 5) (f : BitVec 2) (k : BitVec 2) (t : BitVec 2) (s : State) : exec (.vmin e d a b f k t) s = execVmin e d a b f k t s := rfl
@[simp] theorem exec_vmax (e : BitVec 2) (d : BitVec 5) (a : BitVec 5) (b : BitVec 5) (f : BitVec 2) (k : BitVec 2) (t : BitVec 2) (s : State) : exec (.vmax e d a b f k t) s = execVmax e d a b f k t s := rfl
@[simp] theorem exec_vminu (e : BitVec 2) (d : BitVec 5) (a : BitVec 5) (b : BitVec 5) (f : BitVec 2) (k : BitVec 2) (t : BitVec 2) (s : State) : exec (.vminu e d a b f k t) s = execVminu e d a b f k t s := rfl
@[simp] theorem exec_vmaxu (e : BitVec 2) (d : BitVec 5) (a : BitVec 5) (b : BitVec 5) (f : BitVec 2) (k : BitVec 2) (t : BitVec 2) (s : State) : exec (.vmaxu e d a b f k t) s = execVmaxu e d a b f k t s := rfl
@[simp] theorem exec_vsadd (e : BitVec 2) (d : BitVec 5) (a : BitVec 5) (b : BitVec 5) (f : BitVec 2) (k : BitVec 2) (t : BitVec 2) (s : State) : exec (.vsadd e d a b f k t) s = execVsadd e d a b f k t s := rfl
@[simp] theorem exec_vsaddu (e : BitVec 2) (d : BitVec 5) (a : BitVec 5) (b : BitVec 5) (f : BitVec 2) (k : BitVec 2) (t : BitVec 2) (s : State) : exec (.vsaddu e d a b f k t) s = execVsaddu e d a b f k t s := rfl
@[simp] theorem exec_vssub (e : BitVec 2) (d : BitVec 5) (a : BitVec 5) (b : BitVec 5) (f : BitVec 2) (k : BitVec 2) (t : BitVec 2) (s : State) : exec (.vssub e d a b f k t) s = execVssub e d a b f k t s := rfl
@[simp] theorem exec_vssubu (e : BitVec 2) (d : BitVec 5) (a : BitVec 5) (b : BitVec 5) (f : BitVec 2) (k : BitVec 2) (t : BitVec 2) (s : State) : exec (.vssubu e d a b f k t) s = execVssubu e d a b f k t s := rfl
@[simp] theorem exec_vabs (e : BitVec 2) (d : BitVec 5) (a : BitVec 5) (k : BitVec 2) (t : BitVec 2) (s : State) : exec (.vabs e d a k t) s = execVabs e d a k t s := rfl
@[simp] theorem exec_vceq (e : BitVec 2) (d : BitVec 3) (a : BitVec 5) (b : BitVec 5) (f : BitVec 2) (k : BitVec 2) (t : BitVec 2) (s : State) : exec (.vceq e d a b f k t) s = execVceq e d a b f k t s := rfl
@[simp] theorem exec_vcne (e : BitVec 2) (d : BitVec 3) (a : BitVec 5) (b : BitVec 5) (f : BitVec 2) (k : BitVec 2) (t : BitVec 2) (s : State) : exec (.vcne e d a b f k t) s = execVcne e d a b f k t s := rfl
@[simp] theorem exec_vclt (e : BitVec 2) (d : BitVec 3) (a : BitVec 5) (b : BitVec 5) (f : BitVec 2) (k : BitVec 2) (t : BitVec 2) (s : State) : exec (.vclt e d a b f k t) s = execVclt e d a b f k t s := rfl
@[simp] theorem exec_vcle (e : BitVec 2) (d : BitVec 3) (a : BitVec 5) (b : BitVec 5) (f : BitVec 2) (k : BitVec 2) (t : BitVec 2) (s : State) : exec (.vcle e d a b f k t) s = execVcle e d a b f k t s := rfl
@[simp] theorem exec_vcltu (e : BitVec 2) (d : BitVec 3) (a : BitVec 5) (b : BitVec 5) (f : BitVec 2) (k : BitVec 2) (t : BitVec 2) (s : State) : exec (.vcltu e d a b f k t) s = execVcltu e d a b f k t s := rfl
@[simp] theorem exec_vcleu (e : BitVec 2) (d : BitVec 3) (a : BitVec 5) (b : BitVec 5) (f : BitVec 2) (k : BitVec 2) (t : BitVec 2) (s : State) : exec (.vcleu e d a b f k t) s = execVcleu e d a b f k t s := rfl
@[simp] theorem exec_vmv (e : BitVec 2) (d : BitVec 5) (b : BitVec 5) (f : BitVec 2) (k : BitVec 2) (t : BitVec 2) (s : State) : exec (.vmv e d b f k t) s = execVmv e d b f k t s := rfl
@[simp] theorem exec_vnarrow (e : BitVec 2) (d : BitVec 5) (a : BitVec 5) (b : BitVec 5) (f : BitVec 2) (k : BitVec 2) (t : BitVec 2) (s : State) : exec (.vnarrow e d a b f k t) s = execVnarrow e d a b f k t s := rfl
@[simp] theorem exec_vwiden (e : BitVec 2) (d : BitVec 5) (a : BitVec 5) (k : BitVec 2) (t : BitVec 2) (s : State) : exec (.vwiden e d a k t) s = execVwiden e d a k t s := rfl
@[simp] theorem exec_vfadd (e : BitVec 2) (d : BitVec 5) (a : BitVec 5) (b : BitVec 5) (f : BitVec 2) (k : BitVec 2) (t : BitVec 2) (s : State) : exec (.vfadd e d a b f k t) s = execVfadd e d a b f k t s := rfl
@[simp] theorem exec_vfsub (e : BitVec 2) (d : BitVec 5) (a : BitVec 5) (b : BitVec 5) (f : BitVec 2) (k : BitVec 2) (t : BitVec 2) (s : State) : exec (.vfsub e d a b f k t) s = execVfsub e d a b f k t s := rfl
@[simp] theorem exec_vfmul (e : BitVec 2) (d : BitVec 5) (a : BitVec 5) (b : BitVec 5) (f : BitVec 2) (k : BitVec 2) (t : BitVec 2) (s : State) : exec (.vfmul e d a b f k t) s = execVfmul e d a b f k t s := rfl
@[simp] theorem exec_vfdiv (e : BitVec 2) (d : BitVec 5) (a : BitVec 5) (b : BitVec 5) (f : BitVec 2) (k : BitVec 2) (t : BitVec 2) (s : State) : exec (.vfdiv e d a b f k t) s = execVfdiv e d a b f k t s := rfl
@[simp] theorem exec_vfsqrt (e : BitVec 2) (d : BitVec 5) (a : BitVec 5) (k : BitVec 2) (t : BitVec 2) (s : State) : exec (.vfsqrt e d a k t) s = execVfsqrt e d a k t s := rfl
@[simp] theorem exec_vfma (e : BitVec 2) (d : BitVec 5) (a : BitVec 5) (b : BitVec 5) (f : BitVec 2) (k : BitVec 2) (t : BitVec 2) (s : State) : exec (.vfma e d a b f k t) s = execVfma e d a b f k t s := rfl
@[simp] theorem exec_vfms (e : BitVec 2) (d : BitVec 5) (a : BitVec 5) (b : BitVec 5) (f : BitVec 2) (k : BitVec 2) (t : BitVec 2) (s : State) : exec (.vfms e d a b f k t) s = execVfms e d a b f k t s := rfl
@[simp] theorem exec_vfnma (e : BitVec 2) (d : BitVec 5) (a : BitVec 5) (b : BitVec 5) (f : BitVec 2) (k : BitVec 2) (t : BitVec 2) (s : State) : exec (.vfnma e d a b f k t) s = execVfnma e d a b f k t s := rfl
@[simp] theorem exec_vfmin (e : BitVec 2) (d : BitVec 5) (a : BitVec 5) (b : BitVec 5) (f : BitVec 2) (k : BitVec 2) (t : BitVec 2) (s : State) : exec (.vfmin e d a b f k t) s = execVfmin e d a b f k t s := rfl
@[simp] theorem exec_vfmax (e : BitVec 2) (d : BitVec 5) (a : BitVec 5) (b : BitVec 5) (f : BitVec 2) (k : BitVec 2) (t : BitVec 2) (s : State) : exec (.vfmax e d a b f k t) s = execVfmax e d a b f k t s := rfl
@[simp] theorem exec_vfceq (e : BitVec 2) (d : BitVec 3) (a : BitVec 5) (b : BitVec 5) (f : BitVec 2) (k : BitVec 2) (t : BitVec 2) (s : State) : exec (.vfceq e d a b f k t) s = execVfceq e d a b f k t s := rfl
@[simp] theorem exec_vfclt (e : BitVec 2) (d : BitVec 3) (a : BitVec 5) (b : BitVec 5) (f : BitVec 2) (k : BitVec 2) (t : BitVec 2) (s : State) : exec (.vfclt e d a b f k t) s = execVfclt e d a b f k t s := rfl
@[simp] theorem exec_vfcle (e : BitVec 2) (d : BitVec 3) (a : BitVec 5) (b : BitVec 5) (f : BitVec 2) (k : BitVec 2) (t : BitVec 2) (s : State) : exec (.vfcle e d a b f k t) s = execVfcle e d a b f k t s := rfl
@[simp] theorem exec_vfabs (e : BitVec 2) (d : BitVec 5) (a : BitVec 5) (k : BitVec 2) (t : BitVec 2) (s : State) : exec (.vfabs e d a k t) s = execVfabs e d a k t s := rfl
@[simp] theorem exec_vfneg (e : BitVec 2) (d : BitVec 5) (a : BitVec 5) (k : BitVec 2) (t : BitVec 2) (s : State) : exec (.vfneg e d a k t) s = execVfneg e d a k t s := rfl
@[simp] theorem exec_vfclass (e : BitVec 2) (d : BitVec 5) (a : BitVec 5) (k : BitVec 2) (t : BitVec 2) (s : State) : exec (.vfclass e d a k t) s = execVfclass e d a k t s := rfl
@[simp] theorem exec_vfexp2 (e : BitVec 2) (d : BitVec 5) (a : BitVec 5) (k : BitVec 2) (t : BitVec 2) (s : State) : exec (.vfexp2 e d a k t) s = execVfexp2 e d a k t s := rfl
@[simp] theorem exec_vfrcp (e : BitVec 2) (d : BitVec 5) (a : BitVec 5) (k : BitVec 2) (t : BitVec 2) (s : State) : exec (.vfrcp e d a k t) s = execVfrcp e d a k t s := rfl
@[simp] theorem exec_vfrsq (e : BitVec 2) (d : BitVec 5) (a : BitVec 5) (k : BitVec 2) (t : BitVec 2) (s : State) : exec (.vfrsq e d a k t) s = execVfrsq e d a k t s := rfl
@[simp] theorem exec_vfmv (e : BitVec 2) (d : BitVec 5) (b : BitVec 5) (f : BitVec 2) (k : BitVec 2) (t : BitVec 2) (s : State) : exec (.vfmv e d b f k t) s = execVfmv e d b f k t s := rfl
@[simp] theorem exec_vconvSfBf (d : BitVec 5) (a : BitVec 5) (k : BitVec 2) (t : BitVec 2) (s : State) : exec (.vconvSfBf d a k t) s = execVconvSfBf d a k t s := rfl
@[simp] theorem exec_vconvBfSf (d : BitVec 5) (a : BitVec 5) (k : BitVec 2) (t : BitVec 2) (s : State) : exec (.vconvBfSf d a k t) s = execVconvBfSf d a k t s := rfl
@[simp] theorem exec_vconvSfHf (d : BitVec 5) (a : BitVec 5) (k : BitVec 2) (t : BitVec 2) (s : State) : exec (.vconvSfHf d a k t) s = execVconvSfHf d a k t s := rfl
@[simp] theorem exec_vconvHfSf (d : BitVec 5) (a : BitVec 5) (k : BitVec 2) (t : BitVec 2) (s : State) : exec (.vconvHfSf d a k t) s = execVconvHfSf d a k t s := rfl
@[simp] theorem exec_vconvSfE4 (d : BitVec 5) (a : BitVec 5) (k : BitVec 2) (t : BitVec 2) (s : State) : exec (.vconvSfE4 d a k t) s = execVconvSfE4 d a k t s := rfl
@[simp] theorem exec_vconvE4Sf (d : BitVec 5) (a : BitVec 5) (k : BitVec 2) (t : BitVec 2) (s : State) : exec (.vconvE4Sf d a k t) s = execVconvE4Sf d a k t s := rfl
@[simp] theorem exec_vconvSfE5 (d : BitVec 5) (a : BitVec 5) (k : BitVec 2) (t : BitVec 2) (s : State) : exec (.vconvSfE5 d a k t) s = execVconvSfE5 d a k t s := rfl
@[simp] theorem exec_vconvE5Sf (d : BitVec 5) (a : BitVec 5) (k : BitVec 2) (t : BitVec 2) (s : State) : exec (.vconvE5Sf d a k t) s = execVconvE5Sf d a k t s := rfl
@[simp] theorem exec_vconvDfSf (d : BitVec 5) (a : BitVec 5) (k : BitVec 2) (t : BitVec 2) (s : State) : exec (.vconvDfSf d a k t) s = execVconvDfSf d a k t s := rfl
@[simp] theorem exec_vconvSfDf (d : BitVec 5) (a : BitVec 5) (k : BitVec 2) (t : BitVec 2) (s : State) : exec (.vconvSfDf d a k t) s = execVconvSfDf d a k t s := rfl
@[simp] theorem exec_vconvSfW (d : BitVec 5) (a : BitVec 5) (k : BitVec 2) (t : BitVec 2) (s : State) : exec (.vconvSfW d a k t) s = execVconvSfW d a k t s := rfl
@[simp] theorem exec_vconvWSf (d : BitVec 5) (a : BitVec 5) (k : BitVec 2) (t : BitVec 2) (s : State) : exec (.vconvWSf d a k t) s = execVconvWSf d a k t s := rfl
@[simp] theorem exec_kq8 (d : BitVec 5) (a : BitVec 5) (b : BitVec 5) (t : BitVec 2) (s : State) : exec (.kq8 d a b t) s = execKq8 d a b t s := rfl
@[simp] theorem exec_kdq8 (d : BitVec 5) (a : BitVec 5) (b : BitVec 5) (k : BitVec 2) (t : BitVec 2) (s : State) : exec (.kdq8 d a b k t) s = execKdq8 d a b k t s := rfl
@[simp] theorem exec_t2pack (d : BitVec 5) (a : BitVec 5) (e : BitVec 2) (t : BitVec 2) (s : State) : exec (.t2pack d a e t) s = execT2pack d a e t s := rfl
@[simp] theorem exec_t2unpack (d : BitVec 5) (a : BitVec 5) (e : BitVec 2) (k : BitVec 2) (t : BitVec 2) (s : State) : exec (.t2unpack d a e k t) s = execT2unpack d a e k t s := rfl
@[simp] theorem exec_q4pack (d : BitVec 5) (a : BitVec 5) (e : BitVec 2) (t : BitVec 2) (s : State) : exec (.q4pack d a e t) s = execQ4pack d a e t s := rfl
@[simp] theorem exec_q4unpack (d : BitVec 5) (a : BitVec 5) (e : BitVec 2) (k : BitVec 2) (t : BitVec 2) (s : State) : exec (.q4unpack d a e k t) s = execQ4unpack d a e k t s := rfl
@[simp] theorem exec_kand (d : BitVec 3) (a : BitVec 3) (b : BitVec 3) (s : State) : exec (.kand d a b) s = execKand d a b s := rfl
@[simp] theorem exec_kor (d : BitVec 3) (a : BitVec 3) (b : BitVec 3) (s : State) : exec (.kor d a b) s = execKor d a b s := rfl
@[simp] theorem exec_kxor (d : BitVec 3) (a : BitVec 3) (b : BitVec 3) (s : State) : exec (.kxor d a b) s = execKxor d a b s := rfl
@[simp] theorem exec_knot (d : BitVec 3) (a : BitVec 3) (s : State) : exec (.knot d a) s = execKnot d a s := rfl
@[simp] theorem exec_kmov (d : BitVec 3) (a : BitVec 3) (s : State) : exec (.kmov d a) s = execKmov d a s := rfl
@[simp] theorem exec_kpop (d : BitVec 5) (a : BitVec 3) (s : State) : exec (.kpop d a) s = execKpop d a s := rfl
@[simp] theorem exec_kfirst (d : BitVec 5) (a : BitVec 3) (s : State) : exec (.kfirst d a) s = execKfirst d a s := rfl
@[simp] theorem exec_kset (d : BitVec 3) (a : BitVec 5) (b : BitVec 5) (s : State) : exec (.kset d a b) s = execKset d a b s := rfl
@[simp] theorem exec_kget (d : BitVec 5) (a : BitVec 3) (b : BitVec 5) (s : State) : exec (.kget d a b) s = execKget d a b s := rfl
@[simp] theorem exec_setvl (d : BitVec 5) (a : BitVec 5) (b : BitVec 5) (s : State) : exec (.setvl d a b) s = execSetvl d a b s := rfl
@[simp] theorem exec_vdead (s : State) : exec (.vdead) s = execVdead s := rfl
@[simp] theorem exec_vld (d : BitVec 5) (a : BitVec 5) (e : BitVec 2) (k : BitVec 2) (t : BitVec 2) (s : State) : exec (.vld d a e k t) s = execVld d a e k t s := rfl
@[simp] theorem exec_vlds (d : BitVec 5) (a : BitVec 5) (b : BitVec 5) (e : BitVec 2) (k : BitVec 2) (t : BitVec 2) (s : State) : exec (.vlds d a b e k t) s = execVlds d a b e k t s := rfl
@[simp] theorem exec_vldxO (d : BitVec 5) (a : BitVec 5) (b : BitVec 5) (e : BitVec 2) (k : BitVec 2) (t : BitVec 2) (s : State) : exec (.vldxO d a b e k t) s = execVldxO d a b e k t s := rfl
@[simp] theorem exec_vldxU (d : BitVec 5) (a : BitVec 5) (b : BitVec 5) (e : BitVec 2) (k : BitVec 2) (t : BitVec 2) (s : State) : exec (.vldxU d a b e k t) s = execVldxU d a b e k t s := rfl
@[simp] theorem exec_vst (r : BitVec 5) (a : BitVec 5) (e : BitVec 2) (k : BitVec 2) (t : BitVec 2) (s : State) : exec (.vst r a e k t) s = execVst r a e k t s := rfl
@[simp] theorem exec_vsts (r : BitVec 5) (a : BitVec 5) (b : BitVec 5) (e : BitVec 2) (k : BitVec 2) (t : BitVec 2) (s : State) : exec (.vsts r a b e k t) s = execVsts r a b e k t s := rfl
@[simp] theorem exec_vstxO (r : BitVec 5) (a : BitVec 5) (b : BitVec 5) (e : BitVec 2) (k : BitVec 2) (t : BitVec 2) (s : State) : exec (.vstxO r a b e k t) s = execVstxO r a b e k t s := rfl
@[simp] theorem exec_vstxU (r : BitVec 5) (a : BitVec 5) (b : BitVec 5) (e : BitVec 2) (k : BitVec 2) (t : BitVec 2) (s : State) : exec (.vstxU r a b e k t) s = execVstxU r a b e k t s := rfl
@[simp] theorem exec_vscaddI (r : BitVec 5) (a : BitVec 5) (b : BitVec 5) (e : BitVec 2) (k : BitVec 2) (t : BitVec 2) (s : State) : exec (.vscaddI r a b e k t) s = execVscaddI r a b e k t s := rfl
@[simp] theorem exec_vscaddX (r : BitVec 5) (a : BitVec 5) (b : BitVec 5) (k : BitVec 2) (t : BitVec 2) (s : State) : exec (.vscaddX r a b k t) s = execVscaddX r a b k t s := rfl
@[simp] theorem exec_vscmin (r : BitVec 5) (a : BitVec 5) (b : BitVec 5) (e : BitVec 2) (k : BitVec 2) (t : BitVec 2) (s : State) : exec (.vscmin r a b e k t) s = execVscmin r a b e k t s := rfl
@[simp] theorem exec_vscmax (r : BitVec 5) (a : BitVec 5) (b : BitVec 5) (e : BitVec 2) (k : BitVec 2) (t : BitVec 2) (s : State) : exec (.vscmax r a b e k t) s = execVscmax r a b e k t s := rfl
@[simp] theorem exec_vscor (r : BitVec 5) (a : BitVec 5) (b : BitVec 5) (e : BitVec 2) (k : BitVec 2) (t : BitVec 2) (s : State) : exec (.vscor r a b e k t) s = execVscor r a b e k t s := rfl
@[simp] theorem exec_vldb (d : BitVec 5) (a : BitVec 5) (e : BitVec 2) (k : BitVec 2) (t : BitVec 2) (s : State) : exec (.vldb d a e k t) s = execVldb d a e k t s := rfl
@[simp] theorem exec_vldff (d : BitVec 5) (a : BitVec 5) (e : BitVec 2) (k : BitVec 2) (t : BitVec 2) (s : State) : exec (.vldff d a e k t) s = execVldff d a e k t s := rfl
@[simp] theorem exec_vscaddF (r : BitVec 5) (a : BitVec 5) (b : BitVec 5) (e : BitVec 1) (k : BitVec 2) (t : BitVec 2) (s : State) : exec (.vscaddF r a b e k t) s = execVscaddF r a b e k t s := rfl
@[simp] theorem exec_vredsum (d : BitVec 5) (a : BitVec 5) (b : BitVec 5) (e : BitVec 2) (k : BitVec 2) (t : BitVec 2) (s : State) : exec (.vredsum d a b e k t) s = execVredsum d a b e k t s := rfl
@[simp] theorem exec_vredmax (d : BitVec 5) (a : BitVec 5) (b : BitVec 5) (e : BitVec 2) (k : BitVec 2) (t : BitVec 2) (s : State) : exec (.vredmax d a b e k t) s = execVredmax d a b e k t s := rfl
@[simp] theorem exec_vredmin (d : BitVec 5) (a : BitVec 5) (b : BitVec 5) (e : BitVec 2) (k : BitVec 2) (t : BitVec 2) (s : State) : exec (.vredmin d a b e k t) s = execVredmin d a b e k t s := rfl
@[simp] theorem exec_vredmaxu (d : BitVec 5) (a : BitVec 5) (b : BitVec 5) (e : BitVec 2) (k : BitVec 2) (t : BitVec 2) (s : State) : exec (.vredmaxu d a b e k t) s = execVredmaxu d a b e k t s := rfl
@[simp] theorem exec_vredminu (d : BitVec 5) (a : BitVec 5) (b : BitVec 5) (e : BitVec 2) (k : BitVec 2) (t : BitVec 2) (s : State) : exec (.vredminu d a b e k t) s = execVredminu d a b e k t s := rfl
@[simp] theorem exec_vfredsum (d : BitVec 5) (a : BitVec 5) (b : BitVec 5) (e : BitVec 2) (k : BitVec 2) (t : BitVec 2) (s : State) : exec (.vfredsum d a b e k t) s = execVfredsum d a b e k t s := rfl
@[simp] theorem exec_vfredmax (d : BitVec 5) (a : BitVec 5) (b : BitVec 5) (e : BitVec 2) (k : BitVec 2) (t : BitVec 2) (s : State) : exec (.vfredmax d a b e k t) s = execVfredmax d a b e k t s := rfl
@[simp] theorem exec_vslideup (d : BitVec 5) (a : BitVec 5) (b : BitVec 5) (e : BitVec 2) (k : BitVec 2) (t : BitVec 2) (s : State) : exec (.vslideup d a b e k t) s = execVslideup d a b e k t s := rfl
@[simp] theorem exec_vslidedn (d : BitVec 5) (a : BitVec 5) (b : BitVec 5) (e : BitVec 2) (k : BitVec 2) (t : BitVec 2) (s : State) : exec (.vslidedn d a b e k t) s = execVslidedn d a b e k t s := rfl
@[simp] theorem exec_vperm (d : BitVec 5) (a : BitVec 5) (b : BitVec 5) (e : BitVec 2) (k : BitVec 2) (t : BitVec 2) (s : State) : exec (.vperm d a b e k t) s = execVperm d a b e k t s := rfl
@[simp] theorem exec_vcompress (d : BitVec 5) (a : BitVec 5) (b : BitVec 3) (e : BitVec 2) (t : BitVec 2) (s : State) : exec (.vcompress d a b e t) s = execVcompress d a b e t s := rfl
@[simp] theorem exec_vexpand (d : BitVec 5) (a : BitVec 5) (b : BitVec 3) (e : BitVec 2) (t : BitVec 2) (s : State) : exec (.vexpand d a b e t) s = execVexpand d a b e t s := rfl
@[simp] theorem exec_vbcast (d : BitVec 5) (a : BitVec 5) (b : BitVec 5) (e : BitVec 2) (k : BitVec 2) (t : BitVec 2) (s : State) : exec (.vbcast d a b e k t) s = execVbcast d a b e k t s := rfl
@[simp] theorem exec_vmvxs (d : BitVec 5) (a : BitVec 5) (e : BitVec 2) (t : BitVec 2) (s : State) : exec (.vmvxs d a e t) s = execVmvxs d a e t s := rfl
@[simp] theorem exec_vmvsx (d : BitVec 5) (a : BitVec 5) (e : BitVec 2) (t : BitVec 2) (s : State) : exec (.vmvsx d a e t) s = execVmvsx d a e t s := rfl
@[simp] theorem exec_vmerge (d : BitVec 5) (a : BitVec 5) (b : BitVec 5) (e : BitVec 2) (k : BitVec 2) (t : BitVec 2) (s : State) : exec (.vmerge d a b e k t) s = execVmerge d a b e k t s := rfl
@[simp] theorem exec_vbin (d : BitVec 5) (a : BitVec 5) (b : BitVec 3) (e : BitVec 2) (k : BitVec 2) (t : BitVec 2) (s : State) : exec (.vbin d a b e k t) s = execVbin d a b e k t s := rfl
@[simp] theorem exec_vmrgs (d : BitVec 5) (a : BitVec 5) (b : BitVec 5) (e : BitVec 2) (k : BitVec 2) (t : BitVec 2) (s : State) : exec (.vmrgs d a b e k t) s = execVmrgs d a b e k t s := rfl
@[simp] theorem exec_viota (d : BitVec 5) (a : BitVec 3) (e : BitVec 2) (k : BitVec 2) (t : BitVec 2) (s : State) : exec (.viota d a e k t) s = execViota d a e k t s := rfl
@[simp] theorem exec_vscan (d : BitVec 5) (a : BitVec 5) (e : BitVec 2) (k : BitVec 2) (t : BitVec 2) (s : State) : exec (.vscan d a e k t) s = execVscan d a e k t s := rfl
@[simp] theorem exec_vid (d : BitVec 5) (e : BitVec 2) (k : BitVec 2) (t : BitVec 2) (s : State) : exec (.vid d e k t) s = execVid d e k t s := rfl
@[simp] theorem exec_ccopy (d : BitVec 5) (a : BitVec 5) (b : BitVec 3) (q : BitVec 1) (l : BitVec 1) (c : BitVec 2) (t : BitVec 2) (s : State) : exec (.ccopy d a b q l c t) s = execCcopy d a b q l c t s := rfl
@[simp] theorem exec_cgath (d : BitVec 5) (a : BitVec 5) (b : BitVec 3) (q : BitVec 1) (l : BitVec 1) (c : BitVec 2) (t : BitVec 2) (s : State) : exec (.cgath d a b q l c t) s = execCgath d a b q l c t s := rfl
@[simp] theorem exec_cscat (d : BitVec 5) (a : BitVec 5) (b : BitVec 3) (q : BitVec 1) (l : BitVec 1) (c : BitVec 2) (t : BitVec 2) (s : State) : exec (.cscat d a b q l c t) s = execCscat d a b q l c t s := rfl
@[simp] theorem exec_cfill (d : BitVec 5) (a : BitVec 5) (b : BitVec 3) (q : BitVec 1) (l : BitVec 1) (c : BitVec 2) (t : BitVec 2) (s : State) : exec (.cfill d a b q l c t) s = execCfill d a b q l c t s := rfl
@[simp] theorem exec_cwait (d : BitVec 5) (b : BitVec 3) (t : BitVec 2) (s : State) : exec (.cwait d b t) s = execCwait d b t s := rfl
@[simp] theorem exec_cquery (d : BitVec 5) (a : BitVec 5) (b : BitVec 3) (t : BitVec 2) (s : State) : exec (.cquery d a b t) s = execCquery d a b t s := rfl
@[simp] theorem exec_cresume (d : BitVec 5) (a : BitVec 5) (b : BitVec 3) (t : BitVec 2) (s : State) : exec (.cresume d a b t) s = execCresume d a b t s := rfl
@[simp] theorem exec_cabort (d : BitVec 5) (a : BitVec 5) (b : BitVec 3) (t : BitVec 2) (s : State) : exec (.cabort d a b t) s = execCabort d a b t s := rfl
@[simp] theorem exec_mclaim (d : BitVec 5) (t : BitVec 2) (s : State) : exec (.mclaim d t) s = execMclaim d t s := rfl
@[simp] theorem exec_mfmt (a : BitVec 5) (t : BitVec 2) (s : State) : exec (.mfmt a t) s = execMfmt a t s := rfl
@[simp] theorem exec_mzero (t : BitVec 2) (s : State) : exec (.mzero t) s = execMzero t s := rfl
@[simp] theorem exec_mstep (a : BitVec 5) (t : BitVec 2) (s : State) : exec (.mstep a t) s = execMstep a t s := rfl
@[simp] theorem exec_mdrain (d : BitVec 5) (a : BitVec 5) (t : BitVec 2) (s : State) : exec (.mdrain d a t) s = execMdrain d a t s := rfl
@[simp] theorem exec_mdrainl (a : BitVec 5) (t : BitVec 2) (s : State) : exec (.mdrainl a t) s = execMdrainl a t s := rfl
@[simp] theorem exec_mrel (t : BitVec 2) (s : State) : exec (.mrel t) s = execMrel t s := rfl
@[simp] theorem exec_mstat (d : BitVec 5) (t : BitVec 2) (s : State) : exec (.mstat d t) s = execMstat d t s := rfl
@[simp] theorem exec_mspill (d : BitVec 5) (t : BitVec 2) (s : State) : exec (.mspill d t) s = execMspill d t s := rfl
@[simp] theorem exec_lcfg (d : BitVec 5) (a : BitVec 5) (t : BitVec 2) (s : State) : exec (.lcfg d a t) s = execLcfg d a t s := rfl
@[simp] theorem exec_lpred (d : BitVec 5) (a : BitVec 5) (t : BitVec 2) (s : State) : exec (.lpred d a t) s = execLpred d a t s := rfl
@[simp] theorem exec_lproof (d : BitVec 5) (a : BitVec 5) (t : BitVec 2) (s : State) : exec (.lproof d a t) s = execLproof d a t s := rfl
@[simp] theorem exec_lstat (d : BitVec 5) (a : BitVec 5) (t : BitVec 2) (s : State) : exec (.lstat d a t) s = execLstat d a t s := rfl
@[simp] theorem exec_sregR (d : BitVec 5) (n : BitVec 10) (s : State) : exec (.sregR d n) s = execSregR d n s := rfl
@[simp] theorem exec_sregW (a : BitVec 5) (n : BitVec 10) (s : State) : exec (.sregW a n) s = execSregW a n s := rfl
@[simp] theorem exec_sregX (d : BitVec 5) (a : BitVec 5) (n : BitVec 10) (s : State) : exec (.sregX d a n) s = execSregX d a n s := rfl
@[simp] theorem exec_scall (n : BitVec 10) (s : State) : exec (.scall n) s = execScall n s := rfl
@[simp] theorem exec_tret (s : State) : exec (.tret) s = execTret s := rfl
@[simp] theorem exec_brk (n : BitVec 10) (s : State) : exec (.brk n) s = execBrk n s := rfl
@[simp] theorem exec_sgld (n : BitVec 3) (a : BitVec 5) (s : State) : exec (.sgld n a) s = execSgld n a s := rfl
@[simp] theorem exec_sgst (n : BitVec 3) (a : BitVec 5) (s : State) : exec (.sgst n a) s = execSgst n a s := rfl
@[simp] theorem exec_pflush (a : BitVec 5) (s : State) : exec (.pflush a) s = execPflush a s := rfl
@[simp] theorem exec_cflush (l : BitVec 5) (a : BitVec 5) (s : State) : exec (.cflush l a) s = execCflush l a s := rfl
@[simp] theorem exec_cinv (l : BitVec 5) (a : BitVec 5) (s : State) : exec (.cinv l a) s = execCinv l a s := rfl
@[simp] theorem exec_idle (d : BitVec 5) (s : State) : exec (.idle d) s = execIdle d s := rfl
@[simp] theorem exec_halt (a : BitVec 5) (s : State) : exec (.halt a) s = execHalt a s := rfl
@[simp] theorem exec_ssync (s : State) : exec (.ssync) s = execSsync s := rfl
@[simp] theorem exec_statWrite (v : BitVec 64) (s : State) : exec (.statWrite v) s = execStatWrite v s := rfl
@[simp] theorem exec_fflagsWrite (v : BitVec 64) (s : State) : exec (.fflagsWrite v) s = execFflagsWrite v s := rfl
@[simp] theorem exec_tmcmpWrite (v : BitVec 64) (s : State) : exec (.tmcmpWrite v) s = execTmcmpWrite v s := rfl
@[simp] theorem exec_mbaseWrite (v : BitVec 64) (s : State) : exec (.mbaseWrite v) s = execMbaseWrite v s := rfl
@[simp] theorem exec_asidWrite (v : BitVec 64) (s : State) : exec (.asidWrite v) s = execAsidWrite v s := rfl
@[simp] theorem exec_pgrootWrite (v : BitVec 64) (s : State) : exec (.pgrootWrite v) s = execPgrootWrite v s := rfl
@[simp] theorem exec_timerPending (s : State) : exec (.timerPending) s = execTimerPending s := rfl
@[simp] theorem exec_interruptEntry (s : State) : exec (.interruptEntry) s = execInterruptEntry s := rfl
@[simp] theorem exec_chunkCreate (s : State) : exec (.chunkCreate) s = execChunkCreate s := rfl
@[simp] theorem exec_stitchValueArrival (s : State) : exec (.stitchValueArrival) s = execStitchValueArrival s := rfl
@[simp] theorem exec_storeNoticeArrival (s : State) : exec (.storeNoticeArrival) s = execStoreNoticeArrival s := rfl
@[simp] theorem exec_chunkRestart (s : State) : exec (.chunkRestart) s = execChunkRestart s := rfl
@[simp] theorem exec_chunkCommit (s : State) : exec (.chunkCommit) s = execChunkCommit s := rfl
@[simp] theorem exec_loadResultReturn (s : State) : exec (.loadResultReturn) s = execLoadResultReturn s := rfl
@[simp] theorem exec_longOpResult (s : State) : exec (.longOpResult) s = execLongOpResult s := rfl
@[simp] theorem exec_trkReadMiss (ring : Nat) (line : Nat) (s : State) : exec (.trkReadMiss ring line) s = execTrkReadMiss ring line s := rfl
@[simp] theorem exec_trkOwnershipRequest (ring : Nat) (line : Nat) (s : State) : exec (.trkOwnershipRequest ring line) s = execTrkOwnershipRequest ring line s := rfl
@[simp] theorem exec_trkPurge (line : Nat) (s : State) : exec (.trkPurge line) s = execTrkPurge line s := rfl
@[simp] theorem exec_purgeAck (line : Nat) (s : State) : exec (.purgeAck line) s = execPurgeAck line s := rfl
@[simp] theorem exec_ringCacheEviction (ring : Nat) (line : Nat) (s : State) : exec (.ringCacheEviction ring line) s = execRingCacheEviction ring line s := rfl
@[simp] theorem exec_pageWalkStart (die : Nat) (va : BitVec 64) (s : State) : exec (.pageWalkStart die va) s = execPageWalkStart die va s := rfl
@[simp] theorem exec_pageWalkComplete (die : Nat) (s : State) : exec (.pageWalkComplete die) s = execPageWalkComplete die s := rfl
@[simp] theorem exec_shootdownAck (die : Nat) (s : State) : exec (.shootdownAck die) s = execShootdownAck die s := rfl
@[simp] theorem exec_messageDelivery (spkg : Nat) (sep : Nat) (ep : Nat) (mbox : Nat) (ch : Nat) (user : BitVec 64) (payload : List (BitVec 8)) (s : State) : exec (.messageDelivery spkg sep ep mbox ch user payload) s = execMessageDelivery spkg sep ep mbox ch user payload s := rfl
@[simp] theorem exec_parkedMessageDelivery (lid : Nat) (tix : Nat) (entry : Nat) (s : State) : exec (.parkedMessageDelivery lid tix entry) s = execParkedMessageDelivery lid tix entry s := rfl
@[simp] theorem exec_waitwReread (s : State) : exec (.waitwReread) s = execWaitwReread s := rfl
@[simp] theorem exec_waitwTimeout (s : State) : exec (.waitwTimeout) s = execWaitwTimeout s := rfl
@[simp] theorem exec_gbarComplete (group : Nat) (s : State) : exec (.gbarComplete group) s = execGbarComplete group s := rfl
@[simp] theorem exec_gbarTimeout (s : State) : exec (.gbarTimeout) s = execGbarTimeout s := rfl
@[simp] theorem exec_cwaitTimeout (s : State) : exec (.cwaitTimeout) s = execCwaitTimeout s := rfl
@[simp] theorem exec_copyCommandActivate (quad : Nat) (s : State) : exec (.copyCommandActivate quad) s = execCopyCommandActivate quad s := rfl
@[simp] theorem exec_copyElementGroup (cmd : Nat) (n : Nat) (s : State) : exec (.copyElementGroup cmd n) s = execCopyElementGroup cmd n s := rfl
@[simp] theorem exec_enlargerLease (s : State) : exec (.enlargerLease) s = execEnlargerLease s := rfl
@[simp] theorem exec_enlargerGroupApply (s : State) : exec (.enlargerGroupApply) s = execEnlargerGroupApply s := rfl
@[simp] theorem exec_lpredCompletion (s : State) : exec (.lpredCompletion) s = execLpredCompletion s := rfl
@[simp] theorem exec_placeThread (s : State) : exec (.placeThread) s = execPlaceThread s := rfl
@[simp] theorem exec_sliceExpiry (s : State) : exec (.sliceExpiry) s = execSliceExpiry s := rfl
@[simp] theorem exec_wparkExpiry (s : State) : exec (.wparkExpiry) s = execWparkExpiry s := rfl
@[simp] theorem exec_preempt (s : State) : exec (.preempt) s = execPreempt s := rfl
@[simp] theorem exec_resume (lid : Nat) (tix : Nat) (s : State) : exec (.resume lid tix) s = execResume lid tix s := rfl
@[simp] theorem exec_dependenceReread (lid : Nat) (s : State) : exec (.dependenceReread lid) s = execDependenceReread lid s := rfl
@[simp] theorem exec_waitevReread (queue : Nat) (s : State) : exec (.waitevReread queue) s = execWaitevReread queue s := rfl
@[simp] theorem exec_queueTailWrite (queue : Nat) (tail : BitVec 64) (s : State) : exec (.queueTailWrite queue tail) s = execQueueTailWrite queue tail s := rfl
@[simp] theorem exec_qctlWrite (queue : Nat) (v : BitVec 64) (s : State) : exec (.qctlWrite queue v) s = execQctlWrite queue v s := rfl
@[simp] theorem exec_eqheadWrite (v : BitVec 64) (s : State) : exec (.eqheadWrite v) s = execEqheadWrite v s := rfl
@[simp] theorem exec_eqctlWrite (v : BitVec 64) (s : State) : exec (.eqctlWrite v) s = execEqctlWrite v s := rfl
@[simp] theorem exec_registerWrite (mgmt : Bool) (off : Nat) (v : BitVec 64) (s : State) : exec (.registerWrite mgmt off v) s = execRegisterWrite mgmt off v s := rfl
@[simp] theorem exec_launch (queue : Nat) (s : State) : exec (.launch queue) s = execLaunch queue s := rfl
@[simp] theorem exec_signal (queue : Nat) (s : State) : exec (.signal queue) s = execSignal queue s := rfl
@[simp] theorem exec_waitev (queue : Nat) (s : State) : exec (.waitev queue) s = execWaitev queue s := rfl
@[simp] theorem exec_map (queue : Nat) (s : State) : exec (.map queue) s = execMap queue s := rfl
@[simp] theorem exec_unmap (queue : Nat) (s : State) : exec (.unmap queue) s = execUnmap queue s := rfl
@[simp] theorem exec_migrate (queue : Nat) (s : State) : exec (.migrate queue) s = execMigrate queue s := rfl
@[simp] theorem exec_copy (queue : Nat) (s : State) : exec (.copy queue) s = execCopy queue s := rfl
@[simp] theorem exec_query (queue : Nat) (s : State) : exec (.query queue) s = execQuery queue s := rfl
@[simp] theorem exec_resetLaunch (queue : Nat) (s : State) : exec (.resetLaunch queue) s = execResetLaunch queue s := rfl
@[simp] theorem exec_resetWarm (queue : Nat) (fails : List (Nat × Nat)) (s : State) : exec (.resetWarm queue fails) s = execResetWarm queue fails s := rfl
@[simp] theorem exec_resetCold (queue : Nat) (fails : List (Nat × Nat)) (s : State) : exec (.resetCold queue fails) s = execResetCold queue fails s := rfl
@[simp] theorem exec_attest (queue : Nat) (s : State) : exec (.attest queue) s = execAttest queue s := rfl
@[simp] theorem exec_loadimg (queue : Nat) (s : State) : exec (.loadimg queue) s = execLoadimg queue s := rfl
@[simp] theorem exec_hostRead (pa : Nat) (size : Nat) (s : State) : exec (.hostRead pa size) s = execHostRead pa size s := rfl
@[simp] theorem exec_hostWrite (pa : Nat) (size : Nat) (v : BitVec 512) (s : State) : exec (.hostWrite pa size v) s = execHostWrite pa size v s := rfl
@[simp] theorem exec_hostSnoop (line : Nat) (invalidate : Bool) (s : State) : exec (.hostSnoop line invalidate) s = execHostSnoop line invalidate s := rfl
@[simp] theorem exec_peerRequest (op : Nat) (pa : Nat) (size : Nat) (v : BitVec 64) (w : BitVec 64) (s : State) : exec (.peerRequest op pa size v w) s = execPeerRequest op pa size v w s := rfl
@[simp] theorem exec_powerEvaluation (pkg : Nat) (dieW : List Nat) (stackW : List Nat) (s : State) : exec (.powerEvaluation pkg dieW stackW) s = execPowerEvaluation pkg dieW stackW s := rfl
@[simp] theorem exec_dieJunctionHot (die : Nat) (s : State) : exec (.dieJunctionHot die) s = execDieJunctionHot die s := rfl
@[simp] theorem exec_dieJunctionTrip (die : Nat) (s : State) : exec (.dieJunctionTrip die) s = execDieJunctionTrip die s := rfl
@[simp] theorem exec_inputOutOfRange (volts : Nat) (s : State) : exec (.inputOutOfRange volts) s = execInputOutOfRange volts s := rfl
@[simp] theorem exec_hbmRetrain (stack : Nat) (chan : Nat) (s : State) : exec (.hbmRetrain stack chan) s = execHbmRetrain stack chan s := rfl
@[simp] theorem exec_hbmRetrainEnd (stack : Nat) (chan : Nat) (s : State) : exec (.hbmRetrainEnd stack chan) s = execHbmRetrainEnd stack chan s := rfl
@[simp] theorem exec_stackCriticalTemp (stack : Nat) (s : State) : exec (.stackCriticalTemp stack) s = execStackCriticalTemp stack s := rfl
@[simp] theorem exec_selfRefreshExit (stack : Nat) (s : State) : exec (.selfRefreshExit stack) s = execSelfRefreshExit stack s := rfl
@[simp] theorem exec_tsrMaxExpiry (stack : Nat) (s : State) : exec (.tsrMaxExpiry stack) s = execTsrMaxExpiry stack s := rfl
@[simp] theorem exec_patrolScrub (pa : Nat) (s : State) : exec (.patrolScrub pa) s = execPatrolScrub pa s := rfl
@[simp] theorem exec_memerr (pa : Nat) (charged : Bool) (asid : BitVec 12) (s : State) : exec (.memerr pa charged asid) s = execMemerr pa charged asid s := rfl
@[simp] theorem exec_powerOn (fails : List (Nat × Nat)) (s : State) : exec (.powerOn fails) s = execPowerOn fails s := rfl
@[simp] theorem exec_startcmdWarm (fails : List (Nat × Nat)) (s : State) : exec (.startcmdWarm fails) s = execStartcmdWarm fails s := rfl
@[simp] theorem exec_startcmdCold (fails : List (Nat × Nat)) (s : State) : exec (.startcmdCold fails) s = execStartcmdCold fails s := rfl
@[simp] theorem exec_startStepTimeout (step : Nat) (fails : List (Nat × Nat)) (s : State) : exec (.startStepTimeout step fails) s = execStartStepTimeout step fails s := rfl
@[simp] theorem exec_firmwareStagingWrite (version : Nat) (image : List (BitVec 8)) (s : State) : exec (.firmwareStagingWrite version image) s = execFirmwareStagingWrite version image s := rfl
@[simp] theorem exec_getVersion (attest : Bool) (req : List (BitVec 8)) (s : State) : exec (.getVersion attest req) s = execGetVersion attest req s := rfl
@[simp] theorem exec_getCapabilities (attest : Bool) (req : List (BitVec 8)) (s : State) : exec (.getCapabilities attest req) s = execGetCapabilities attest req s := rfl
@[simp] theorem exec_negotiateAlgorithms (attest : Bool) (req : List (BitVec 8)) (s : State) : exec (.negotiateAlgorithms attest req) s = execNegotiateAlgorithms attest req s := rfl
@[simp] theorem exec_getDigests (attest : Bool) (req : List (BitVec 8)) (s : State) : exec (.getDigests attest req) s = execGetDigests attest req s := rfl
@[simp] theorem exec_getCertificate (attest : Bool) (req : List (BitVec 8)) (s : State) : exec (.getCertificate attest req) s = execGetCertificate attest req s := rfl
@[simp] theorem exec_challenge (attest : Bool) (req : List (BitVec 8)) (s : State) : exec (.challenge attest req) s = execChallenge attest req s := rfl
@[simp] theorem exec_getMeasurements (attest : Bool) (req : List (BitVec 8)) (s : State) : exec (.getMeasurements attest req) s = execGetMeasurements attest req s := rfl
@[simp] theorem exec_unsupportedRequest (attest : Bool) (req : List (BitVec 8)) (s : State) : exec (.unsupportedRequest attest req) s = execUnsupportedRequest attest req s := rfl
@[simp] theorem exec_illop (w : BitVec 32) (s : State) : exec (.illop w) s = execIllop w s := rfl
@[simp] theorem exec_writeBackAcknowledgement (s : State) : exec (.writeBackAcknowledgement) s = execWriteBackAcknowledgement s := rfl
@[simp] theorem exec_criticalTemperatureCleared (stack : Nat) (s : State) : exec (.criticalTemperatureCleared stack) s = execCriticalTemperatureCleared stack s := rfl
@[simp] theorem exec_dieReset (die : Nat) (s : State) : exec (.dieReset die) s = execDieReset die s := rfl
@[simp] theorem exec_diePowerGating (die : Nat) (s : State) : exec (.diePowerGating die) s = execDiePowerGating die s := rfl
@[simp] theorem exec_hostLinkDown (s : State) : exec (.hostLinkDown) s = execHostLinkDown s := rfl

end Sys2Proof.Machine
end

