-- ==== Sys2Proof/Laws/Fields.lean ====
section
/-! SUPPORT. Bit fields of concatenations, for the round trip of encoder and decoder: every field that the decoder reads of
every shape of word that the encoder builds.
-/

namespace Sys2Proof.Laws

/-- A field above the low part of a concatenation lies in its high part. -/
theorem extract_hi {m n : Nat} (x : BitVec m) (y : BitVec n) (lo l : Nat) (h : n ≤ lo) :
    (x ++ y).extractLsb' lo l = x.extractLsb' (lo - n) l := by
  ext i hi
  simp only [BitVec.getElem_extractLsb', BitVec.getLsbD_append]
  rw [if_neg (by omega)]
  congr 1
  omega

/-- A field below the high part of a concatenation lies in its low part. -/
theorem extract_lo {m n : Nat} (x : BitVec m) (y : BitVec n) (lo l : Nat) (h : lo + l ≤ n) :
    (x ++ y).extractLsb' lo l = y.extractLsb' lo l := by
  ext i hi
  simp only [BitVec.getElem_extractLsb', BitVec.getLsbD_append]
  rw [if_pos (by omega)]

/-- The field that is the whole word. -/
theorem extract_all {n : Nat} (x : BitVec n) : x.extractLsb' 0 n = x := by
  ext i hi
  simp only [BitVec.getElem_extractLsb', Nat.zero_add, BitVec.getLsbD_eq_getElem hi]

/-- The values of a two-bit field. -/
theorem two_bits (e : BitVec 2) : e = 0#2 ∨ e = 1#2 ∨ e = 2#2 ∨ e = 3#2 := by
  revert e
  decide

/-- A candidate without a flaw is what the word decodes to. -/
theorem decode_of_candidate {w : Word} {i : Instr} (h : candidate w = .ok i) (hf : i.flaw = none) : decode w = .ok i := by
  rw [decode, h, legal, hf]

theorem field_4_2_2_3_5_5_2_5_2_2_at_0_2 (x0 : BitVec 4) (x1 : BitVec 2) (x2 : BitVec 2) (x3 : BitVec 3) (x4 : BitVec 5) (x5 : BitVec 5) (x6 : BitVec 2) (x7 : BitVec 5) (x8 : BitVec 2) (x9 : BitVec 2) :
    (x0 ++ x1 ++ x2 ++ x3 ++ x4 ++ x5 ++ x6 ++ x7 ++ x8 ++ x9).extractLsb' 0 2 = x9 := by
  rw [extract_lo]
  · exact extract_all _
  all_goals decide

theorem field_4_2_2_3_5_5_2_5_2_2_at_2_2 (x0 : BitVec 4) (x1 : BitVec 2) (x2 : BitVec 2) (x3 : BitVec 3) (x4 : BitVec 5) (x5 : BitVec 5) (x6 : BitVec 2) (x7 : BitVec 5) (x8 : BitVec 2) (x9 : BitVec 2) :
    (x0 ++ x1 ++ x2 ++ x3 ++ x4 ++ x5 ++ x6 ++ x7 ++ x8 ++ x9).extractLsb' 2 2 = x8 := by
  rw [extract_hi, extract_lo]
  · exact extract_all _
  all_goals decide

theorem field_4_2_2_3_5_5_2_5_2_2_at_4_5 (x0 : BitVec 4) (x1 : BitVec 2) (x2 : BitVec 2) (x3 : BitVec 3) (x4 : BitVec 5) (x5 : BitVec 5) (x6 : BitVec 2) (x7 : BitVec 5) (x8 : BitVec 2) (x9 : BitVec 2) :
    (x0 ++ x1 ++ x2 ++ x3 ++ x4 ++ x5 ++ x6 ++ x7 ++ x8 ++ x9).extractLsb' 4 5 = x7 := by
  rw [extract_hi, extract_hi, extract_lo]
  · exact extract_all _
  all_goals decide

theorem field_4_2_2_3_5_5_2_5_2_2_at_9_2 (x0 : BitVec 4) (x1 : BitVec 2) (x2 : BitVec 2) (x3 : BitVec 3) (x4 : BitVec 5) (x5 : BitVec 5) (x6 : BitVec 2) (x7 : BitVec 5) (x8 : BitVec 2) (x9 : BitVec 2) :
    (x0 ++ x1 ++ x2 ++ x3 ++ x4 ++ x5 ++ x6 ++ x7 ++ x8 ++ x9).extractLsb' 9 2 = x6 := by
  rw [extract_hi, extract_hi, extract_hi, extract_lo]
  · exact extract_all _
  all_goals decide

theorem field_4_2_2_3_5_5_2_5_2_2_at_11_5 (x0 : BitVec 4) (x1 : BitVec 2) (x2 : BitVec 2) (x3 : BitVec 3) (x4 : BitVec 5) (x5 : BitVec 5) (x6 : BitVec 2) (x7 : BitVec 5) (x8 : BitVec 2) (x9 : BitVec 2) :
    (x0 ++ x1 ++ x2 ++ x3 ++ x4 ++ x5 ++ x6 ++ x7 ++ x8 ++ x9).extractLsb' 11 5 = x5 := by
  rw [extract_hi, extract_hi, extract_hi, extract_hi, extract_lo]
  · exact extract_all _
  all_goals decide

theorem field_4_2_2_3_5_5_2_5_2_2_at_16_5 (x0 : BitVec 4) (x1 : BitVec 2) (x2 : BitVec 2) (x3 : BitVec 3) (x4 : BitVec 5) (x5 : BitVec 5) (x6 : BitVec 2) (x7 : BitVec 5) (x8 : BitVec 2) (x9 : BitVec 2) :
    (x0 ++ x1 ++ x2 ++ x3 ++ x4 ++ x5 ++ x6 ++ x7 ++ x8 ++ x9).extractLsb' 16 5 = x4 := by
  rw [extract_hi, extract_hi, extract_hi, extract_hi, extract_hi, extract_lo]
  · exact extract_all _
  all_goals decide

theorem field_4_2_2_3_5_5_2_5_2_2_at_21_3 (x0 : BitVec 4) (x1 : BitVec 2) (x2 : BitVec 2) (x3 : BitVec 3) (x4 : BitVec 5) (x5 : BitVec 5) (x6 : BitVec 2) (x7 : BitVec 5) (x8 : BitVec 2) (x9 : BitVec 2) :
    (x0 ++ x1 ++ x2 ++ x3 ++ x4 ++ x5 ++ x6 ++ x7 ++ x8 ++ x9).extractLsb' 21 3 = x3 := by
  rw [extract_hi, extract_hi, extract_hi, extract_hi, extract_hi, extract_hi, extract_lo]
  · exact extract_all _
  all_goals decide

theorem field_4_2_2_3_5_5_2_5_2_2_at_24_2 (x0 : BitVec 4) (x1 : BitVec 2) (x2 : BitVec 2) (x3 : BitVec 3) (x4 : BitVec 5) (x5 : BitVec 5) (x6 : BitVec 2) (x7 : BitVec 5) (x8 : BitVec 2) (x9 : BitVec 2) :
    (x0 ++ x1 ++ x2 ++ x3 ++ x4 ++ x5 ++ x6 ++ x7 ++ x8 ++ x9).extractLsb' 24 2 = x2 := by
  rw [extract_hi, extract_hi, extract_hi, extract_hi, extract_hi, extract_hi, extract_hi, extract_lo]
  · exact extract_all _
  all_goals decide

theorem field_4_2_2_3_5_5_2_5_2_2_at_26_2 (x0 : BitVec 4) (x1 : BitVec 2) (x2 : BitVec 2) (x3 : BitVec 3) (x4 : BitVec 5) (x5 : BitVec 5) (x6 : BitVec 2) (x7 : BitVec 5) (x8 : BitVec 2) (x9 : BitVec 2) :
    (x0 ++ x1 ++ x2 ++ x3 ++ x4 ++ x5 ++ x6 ++ x7 ++ x8 ++ x9).extractLsb' 26 2 = x1 := by
  rw [extract_hi, extract_hi, extract_hi, extract_hi, extract_hi, extract_hi, extract_hi, extract_hi, extract_lo]
  · exact extract_all _
  all_goals decide

theorem field_4_2_2_3_5_5_2_5_2_2_at_26_6 (x0 : BitVec 4) (x1 : BitVec 2) (x2 : BitVec 2) (x3 : BitVec 3) (x4 : BitVec 5) (x5 : BitVec 5) (x6 : BitVec 2) (x7 : BitVec 5) (x8 : BitVec 2) (x9 : BitVec 2) :
    (x0 ++ x1 ++ x2 ++ x3 ++ x4 ++ x5 ++ x6 ++ x7 ++ x8 ++ x9).extractLsb' 26 6 = x0 ++ x1 := by
  rw [extract_hi, extract_hi, extract_hi, extract_hi, extract_hi, extract_hi, extract_hi, extract_hi]
  · exact extract_all _
  all_goals decide

theorem field_4_2_5_5_5_2_5_2_2_at_0_2 (x0 : BitVec 4) (x1 : BitVec 2) (x2 : BitVec 5) (x3 : BitVec 5) (x4 : BitVec 5) (x5 : BitVec 2) (x6 : BitVec 5) (x7 : BitVec 2) (x8 : BitVec 2) :
    (x0 ++ x1 ++ x2 ++ x3 ++ x4 ++ x5 ++ x6 ++ x7 ++ x8).extractLsb' 0 2 = x8 := by
  rw [extract_lo]
  · exact extract_all _
  all_goals decide

theorem field_4_2_5_5_5_2_5_2_2_at_2_2 (x0 : BitVec 4) (x1 : BitVec 2) (x2 : BitVec 5) (x3 : BitVec 5) (x4 : BitVec 5) (x5 : BitVec 2) (x6 : BitVec 5) (x7 : BitVec 2) (x8 : BitVec 2) :
    (x0 ++ x1 ++ x2 ++ x3 ++ x4 ++ x5 ++ x6 ++ x7 ++ x8).extractLsb' 2 2 = x7 := by
  rw [extract_hi, extract_lo]
  · exact extract_all _
  all_goals decide

theorem field_4_2_5_5_5_2_5_2_2_at_4_5 (x0 : BitVec 4) (x1 : BitVec 2) (x2 : BitVec 5) (x3 : BitVec 5) (x4 : BitVec 5) (x5 : BitVec 2) (x6 : BitVec 5) (x7 : BitVec 2) (x8 : BitVec 2) :
    (x0 ++ x1 ++ x2 ++ x3 ++ x4 ++ x5 ++ x6 ++ x7 ++ x8).extractLsb' 4 5 = x6 := by
  rw [extract_hi, extract_hi, extract_lo]
  · exact extract_all _
  all_goals decide

theorem field_4_2_5_5_5_2_5_2_2_at_9_2 (x0 : BitVec 4) (x1 : BitVec 2) (x2 : BitVec 5) (x3 : BitVec 5) (x4 : BitVec 5) (x5 : BitVec 2) (x6 : BitVec 5) (x7 : BitVec 2) (x8 : BitVec 2) :
    (x0 ++ x1 ++ x2 ++ x3 ++ x4 ++ x5 ++ x6 ++ x7 ++ x8).extractLsb' 9 2 = x5 := by
  rw [extract_hi, extract_hi, extract_hi, extract_lo]
  · exact extract_all _
  all_goals decide

theorem field_4_2_5_5_5_2_5_2_2_at_11_5 (x0 : BitVec 4) (x1 : BitVec 2) (x2 : BitVec 5) (x3 : BitVec 5) (x4 : BitVec 5) (x5 : BitVec 2) (x6 : BitVec 5) (x7 : BitVec 2) (x8 : BitVec 2) :
    (x0 ++ x1 ++ x2 ++ x3 ++ x4 ++ x5 ++ x6 ++ x7 ++ x8).extractLsb' 11 5 = x4 := by
  rw [extract_hi, extract_hi, extract_hi, extract_hi, extract_lo]
  · exact extract_all _
  all_goals decide

theorem field_4_2_5_5_5_2_5_2_2_at_16_5 (x0 : BitVec 4) (x1 : BitVec 2) (x2 : BitVec 5) (x3 : BitVec 5) (x4 : BitVec 5) (x5 : BitVec 2) (x6 : BitVec 5) (x7 : BitVec 2) (x8 : BitVec 2) :
    (x0 ++ x1 ++ x2 ++ x3 ++ x4 ++ x5 ++ x6 ++ x7 ++ x8).extractLsb' 16 5 = x3 := by
  rw [extract_hi, extract_hi, extract_hi, extract_hi, extract_hi, extract_lo]
  · exact extract_all _
  all_goals decide

theorem field_4_2_5_5_5_2_5_2_2_at_21_5 (x0 : BitVec 4) (x1 : BitVec 2) (x2 : BitVec 5) (x3 : BitVec 5) (x4 : BitVec 5) (x5 : BitVec 2) (x6 : BitVec 5) (x7 : BitVec 2) (x8 : BitVec 2) :
    (x0 ++ x1 ++ x2 ++ x3 ++ x4 ++ x5 ++ x6 ++ x7 ++ x8).extractLsb' 21 5 = x2 := by
  rw [extract_hi, extract_hi, extract_hi, extract_hi, extract_hi, extract_hi, extract_lo]
  · exact extract_all _
  all_goals decide

theorem field_4_2_5_5_5_2_5_2_2_at_26_2 (x0 : BitVec 4) (x1 : BitVec 2) (x2 : BitVec 5) (x3 : BitVec 5) (x4 : BitVec 5) (x5 : BitVec 2) (x6 : BitVec 5) (x7 : BitVec 2) (x8 : BitVec 2) :
    (x0 ++ x1 ++ x2 ++ x3 ++ x4 ++ x5 ++ x6 ++ x7 ++ x8).extractLsb' 26 2 = x1 := by
  rw [extract_hi, extract_hi, extract_hi, extract_hi, extract_hi, extract_hi, extract_hi, extract_lo]
  · exact extract_all _
  all_goals decide

theorem field_4_2_5_5_5_2_5_2_2_at_26_6 (x0 : BitVec 4) (x1 : BitVec 2) (x2 : BitVec 5) (x3 : BitVec 5) (x4 : BitVec 5) (x5 : BitVec 2) (x6 : BitVec 5) (x7 : BitVec 2) (x8 : BitVec 2) :
    (x0 ++ x1 ++ x2 ++ x3 ++ x4 ++ x5 ++ x6 ++ x7 ++ x8).extractLsb' 26 6 = x0 ++ x1 := by
  rw [extract_hi, extract_hi, extract_hi, extract_hi, extract_hi, extract_hi, extract_hi]
  · exact extract_all _
  all_goals decide

theorem field_4_2_5_5_12_2_2_at_0_2 (x0 : BitVec 4) (x1 : BitVec 2) (x2 : BitVec 5) (x3 : BitVec 5) (x4 : BitVec 12) (x5 : BitVec 2) (x6 : BitVec 2) :
    (x0 ++ x1 ++ x2 ++ x3 ++ x4 ++ x5 ++ x6).extractLsb' 0 2 = x6 := by
  rw [extract_lo]
  · exact extract_all _
  all_goals decide

theorem field_4_2_5_5_12_2_2_at_2_2 (x0 : BitVec 4) (x1 : BitVec 2) (x2 : BitVec 5) (x3 : BitVec 5) (x4 : BitVec 12) (x5 : BitVec 2) (x6 : BitVec 2) :
    (x0 ++ x1 ++ x2 ++ x3 ++ x4 ++ x5 ++ x6).extractLsb' 2 2 = x5 := by
  rw [extract_hi, extract_lo]
  · exact extract_all _
  all_goals decide

theorem field_4_2_5_5_12_2_2_at_4_5 (x0 : BitVec 4) (x1 : BitVec 2) (x2 : BitVec 5) (x3 : BitVec 5) (x4 : BitVec 12) (x5 : BitVec 2) (x6 : BitVec 2) :
    (x0 ++ x1 ++ x2 ++ x3 ++ x4 ++ x5 ++ x6).extractLsb' 4 5 = x4.extractLsb' 0 5 := by
  rw [extract_hi, extract_hi, extract_lo]
  all_goals decide

theorem field_4_2_5_5_12_2_2_at_9_7 (x0 : BitVec 4) (x1 : BitVec 2) (x2 : BitVec 5) (x3 : BitVec 5) (x4 : BitVec 12) (x5 : BitVec 2) (x6 : BitVec 2) :
    (x0 ++ x1 ++ x2 ++ x3 ++ x4 ++ x5 ++ x6).extractLsb' 9 7 = x4.extractLsb' 5 7 := by
  rw [extract_hi, extract_hi, extract_lo]
  all_goals decide

theorem field_4_2_5_5_12_2_2_at_16_5 (x0 : BitVec 4) (x1 : BitVec 2) (x2 : BitVec 5) (x3 : BitVec 5) (x4 : BitVec 12) (x5 : BitVec 2) (x6 : BitVec 2) :
    (x0 ++ x1 ++ x2 ++ x3 ++ x4 ++ x5 ++ x6).extractLsb' 16 5 = x3 := by
  rw [extract_hi, extract_hi, extract_hi, extract_lo]
  · exact extract_all _
  all_goals decide

theorem field_4_2_5_5_12_2_2_at_21_5 (x0 : BitVec 4) (x1 : BitVec 2) (x2 : BitVec 5) (x3 : BitVec 5) (x4 : BitVec 12) (x5 : BitVec 2) (x6 : BitVec 2) :
    (x0 ++ x1 ++ x2 ++ x3 ++ x4 ++ x5 ++ x6).extractLsb' 21 5 = x2 := by
  rw [extract_hi, extract_hi, extract_hi, extract_hi, extract_lo]
  · exact extract_all _
  all_goals decide

theorem field_4_2_5_5_12_2_2_at_26_2 (x0 : BitVec 4) (x1 : BitVec 2) (x2 : BitVec 5) (x3 : BitVec 5) (x4 : BitVec 12) (x5 : BitVec 2) (x6 : BitVec 2) :
    (x0 ++ x1 ++ x2 ++ x3 ++ x4 ++ x5 ++ x6).extractLsb' 26 2 = x1 := by
  rw [extract_hi, extract_hi, extract_hi, extract_hi, extract_hi, extract_lo]
  · exact extract_all _
  all_goals decide

theorem field_4_2_5_5_12_2_2_at_26_6 (x0 : BitVec 4) (x1 : BitVec 2) (x2 : BitVec 5) (x3 : BitVec 5) (x4 : BitVec 12) (x5 : BitVec 2) (x6 : BitVec 2) :
    (x0 ++ x1 ++ x2 ++ x3 ++ x4 ++ x5 ++ x6).extractLsb' 26 6 = x0 ++ x1 := by
  rw [extract_hi, extract_hi, extract_hi, extract_hi, extract_hi]
  · exact extract_all _
  all_goals decide

theorem field_6_2_2_2_8_4_8_at_0_8 (x0 : BitVec 6) (x1 : BitVec 2) (x2 : BitVec 2) (x3 : BitVec 2) (x4 : BitVec 8) (x5 : BitVec 4) (x6 : BitVec 8) :
    (x0 ++ x1 ++ x2 ++ x3 ++ x4 ++ x5 ++ x6).extractLsb' 0 8 = x6 := by
  rw [extract_lo]
  · exact extract_all _
  all_goals decide

theorem field_6_2_2_2_8_4_8_at_8_4 (x0 : BitVec 6) (x1 : BitVec 2) (x2 : BitVec 2) (x3 : BitVec 2) (x4 : BitVec 8) (x5 : BitVec 4) (x6 : BitVec 8) :
    (x0 ++ x1 ++ x2 ++ x3 ++ x4 ++ x5 ++ x6).extractLsb' 8 4 = x5 := by
  rw [extract_hi, extract_lo]
  · exact extract_all _
  all_goals decide

theorem field_6_2_2_2_8_4_8_at_12_8 (x0 : BitVec 6) (x1 : BitVec 2) (x2 : BitVec 2) (x3 : BitVec 2) (x4 : BitVec 8) (x5 : BitVec 4) (x6 : BitVec 8) :
    (x0 ++ x1 ++ x2 ++ x3 ++ x4 ++ x5 ++ x6).extractLsb' 12 8 = x4 := by
  rw [extract_hi, extract_hi, extract_lo]
  · exact extract_all _
  all_goals decide

theorem field_6_2_2_2_8_4_8_at_20_2 (x0 : BitVec 6) (x1 : BitVec 2) (x2 : BitVec 2) (x3 : BitVec 2) (x4 : BitVec 8) (x5 : BitVec 4) (x6 : BitVec 8) :
    (x0 ++ x1 ++ x2 ++ x3 ++ x4 ++ x5 ++ x6).extractLsb' 20 2 = x3 := by
  rw [extract_hi, extract_hi, extract_hi, extract_lo]
  · exact extract_all _
  all_goals decide

theorem field_6_2_2_2_8_4_8_at_22_2 (x0 : BitVec 6) (x1 : BitVec 2) (x2 : BitVec 2) (x3 : BitVec 2) (x4 : BitVec 8) (x5 : BitVec 4) (x6 : BitVec 8) :
    (x0 ++ x1 ++ x2 ++ x3 ++ x4 ++ x5 ++ x6).extractLsb' 22 2 = x2 := by
  rw [extract_hi, extract_hi, extract_hi, extract_hi, extract_lo]
  · exact extract_all _
  all_goals decide

theorem field_6_2_2_2_8_4_8_at_24_2 (x0 : BitVec 6) (x1 : BitVec 2) (x2 : BitVec 2) (x3 : BitVec 2) (x4 : BitVec 8) (x5 : BitVec 4) (x6 : BitVec 8) :
    (x0 ++ x1 ++ x2 ++ x3 ++ x4 ++ x5 ++ x6).extractLsb' 24 2 = x1 := by
  rw [extract_hi, extract_hi, extract_hi, extract_hi, extract_hi, extract_lo]
  · exact extract_all _
  all_goals decide

theorem field_6_2_2_2_8_4_8_at_26_6 (x0 : BitVec 6) (x1 : BitVec 2) (x2 : BitVec 2) (x3 : BitVec 2) (x4 : BitVec 8) (x5 : BitVec 4) (x6 : BitVec 8) :
    (x0 ++ x1 ++ x2 ++ x3 ++ x4 ++ x5 ++ x6).extractLsb' 26 6 = x0 := by
  rw [extract_hi, extract_hi, extract_hi, extract_hi, extract_hi, extract_hi]
  · exact extract_all _
  all_goals decide

theorem field_6_5_2_3_1_2_13_at_0_13 (x0 : BitVec 6) (x1 : BitVec 5) (x2 : BitVec 2) (x3 : BitVec 3) (x4 : BitVec 1) (x5 : BitVec 2) (x6 : BitVec 13) :
    (x0 ++ x1 ++ x2 ++ x3 ++ x4 ++ x5 ++ x6).extractLsb' 0 13 = x6 := by
  rw [extract_lo]
  · exact extract_all _
  all_goals decide

theorem field_6_5_2_3_1_2_13_at_13_2 (x0 : BitVec 6) (x1 : BitVec 5) (x2 : BitVec 2) (x3 : BitVec 3) (x4 : BitVec 1) (x5 : BitVec 2) (x6 : BitVec 13) :
    (x0 ++ x1 ++ x2 ++ x3 ++ x4 ++ x5 ++ x6).extractLsb' 13 2 = x5 := by
  rw [extract_hi, extract_lo]
  · exact extract_all _
  all_goals decide

theorem field_6_5_2_3_1_2_13_at_15_1 (x0 : BitVec 6) (x1 : BitVec 5) (x2 : BitVec 2) (x3 : BitVec 3) (x4 : BitVec 1) (x5 : BitVec 2) (x6 : BitVec 13) :
    (x0 ++ x1 ++ x2 ++ x3 ++ x4 ++ x5 ++ x6).extractLsb' 15 1 = x4 := by
  rw [extract_hi, extract_hi, extract_lo]
  · exact extract_all _
  all_goals decide

theorem field_6_5_2_3_1_2_13_at_16_3 (x0 : BitVec 6) (x1 : BitVec 5) (x2 : BitVec 2) (x3 : BitVec 3) (x4 : BitVec 1) (x5 : BitVec 2) (x6 : BitVec 13) :
    (x0 ++ x1 ++ x2 ++ x3 ++ x4 ++ x5 ++ x6).extractLsb' 16 3 = x3 := by
  rw [extract_hi, extract_hi, extract_hi, extract_lo]
  · exact extract_all _
  all_goals decide

theorem field_6_5_2_3_1_2_13_at_19_2 (x0 : BitVec 6) (x1 : BitVec 5) (x2 : BitVec 2) (x3 : BitVec 3) (x4 : BitVec 1) (x5 : BitVec 2) (x6 : BitVec 13) :
    (x0 ++ x1 ++ x2 ++ x3 ++ x4 ++ x5 ++ x6).extractLsb' 19 2 = x2 := by
  rw [extract_hi, extract_hi, extract_hi, extract_hi, extract_lo]
  · exact extract_all _
  all_goals decide

theorem field_6_5_2_3_1_2_13_at_21_5 (x0 : BitVec 6) (x1 : BitVec 5) (x2 : BitVec 2) (x3 : BitVec 3) (x4 : BitVec 1) (x5 : BitVec 2) (x6 : BitVec 13) :
    (x0 ++ x1 ++ x2 ++ x3 ++ x4 ++ x5 ++ x6).extractLsb' 21 5 = x1 := by
  rw [extract_hi, extract_hi, extract_hi, extract_hi, extract_hi, extract_lo]
  · exact extract_all _
  all_goals decide

theorem field_6_5_2_3_1_2_13_at_26_6 (x0 : BitVec 6) (x1 : BitVec 5) (x2 : BitVec 2) (x3 : BitVec 3) (x4 : BitVec 1) (x5 : BitVec 2) (x6 : BitVec 13) :
    (x0 ++ x1 ++ x2 ++ x3 ++ x4 ++ x5 ++ x6).extractLsb' 26 6 = x0 := by
  rw [extract_hi, extract_hi, extract_hi, extract_hi, extract_hi, extract_hi]
  · exact extract_all _
  all_goals decide

theorem field_6_5_2_3_5_2_5_2_2_at_0_2 (x0 : BitVec 6) (x1 : BitVec 5) (x2 : BitVec 2) (x3 : BitVec 3) (x4 : BitVec 5) (x5 : BitVec 2) (x6 : BitVec 5) (x7 : BitVec 2) (x8 : BitVec 2) :
    (x0 ++ x1 ++ x2 ++ x3 ++ x4 ++ x5 ++ x6 ++ x7 ++ x8).extractLsb' 0 2 = x8 := by
  rw [extract_lo]
  · exact extract_all _
  all_goals decide

theorem field_6_5_2_3_5_2_5_2_2_at_2_2 (x0 : BitVec 6) (x1 : BitVec 5) (x2 : BitVec 2) (x3 : BitVec 3) (x4 : BitVec 5) (x5 : BitVec 2) (x6 : BitVec 5) (x7 : BitVec 2) (x8 : BitVec 2) :
    (x0 ++ x1 ++ x2 ++ x3 ++ x4 ++ x5 ++ x6 ++ x7 ++ x8).extractLsb' 2 2 = x7 := by
  rw [extract_hi, extract_lo]
  · exact extract_all _
  all_goals decide

theorem field_6_5_2_3_5_2_5_2_2_at_4_5 (x0 : BitVec 6) (x1 : BitVec 5) (x2 : BitVec 2) (x3 : BitVec 3) (x4 : BitVec 5) (x5 : BitVec 2) (x6 : BitVec 5) (x7 : BitVec 2) (x8 : BitVec 2) :
    (x0 ++ x1 ++ x2 ++ x3 ++ x4 ++ x5 ++ x6 ++ x7 ++ x8).extractLsb' 4 5 = x6 := by
  rw [extract_hi, extract_hi, extract_lo]
  · exact extract_all _
  all_goals decide

theorem field_6_5_2_3_5_2_5_2_2_at_9_2 (x0 : BitVec 6) (x1 : BitVec 5) (x2 : BitVec 2) (x3 : BitVec 3) (x4 : BitVec 5) (x5 : BitVec 2) (x6 : BitVec 5) (x7 : BitVec 2) (x8 : BitVec 2) :
    (x0 ++ x1 ++ x2 ++ x3 ++ x4 ++ x5 ++ x6 ++ x7 ++ x8).extractLsb' 9 2 = x5 := by
  rw [extract_hi, extract_hi, extract_hi, extract_lo]
  · exact extract_all _
  all_goals decide

theorem field_6_5_2_3_5_2_5_2_2_at_11_5 (x0 : BitVec 6) (x1 : BitVec 5) (x2 : BitVec 2) (x3 : BitVec 3) (x4 : BitVec 5) (x5 : BitVec 2) (x6 : BitVec 5) (x7 : BitVec 2) (x8 : BitVec 2) :
    (x0 ++ x1 ++ x2 ++ x3 ++ x4 ++ x5 ++ x6 ++ x7 ++ x8).extractLsb' 11 5 = x4 := by
  rw [extract_hi, extract_hi, extract_hi, extract_hi, extract_lo]
  · exact extract_all _
  all_goals decide

theorem field_6_5_2_3_5_2_5_2_2_at_16_3 (x0 : BitVec 6) (x1 : BitVec 5) (x2 : BitVec 2) (x3 : BitVec 3) (x4 : BitVec 5) (x5 : BitVec 2) (x6 : BitVec 5) (x7 : BitVec 2) (x8 : BitVec 2) :
    (x0 ++ x1 ++ x2 ++ x3 ++ x4 ++ x5 ++ x6 ++ x7 ++ x8).extractLsb' 16 3 = x3 := by
  rw [extract_hi, extract_hi, extract_hi, extract_hi, extract_hi, extract_lo]
  · exact extract_all _
  all_goals decide

theorem field_6_5_2_3_5_2_5_2_2_at_19_2 (x0 : BitVec 6) (x1 : BitVec 5) (x2 : BitVec 2) (x3 : BitVec 3) (x4 : BitVec 5) (x5 : BitVec 2) (x6 : BitVec 5) (x7 : BitVec 2) (x8 : BitVec 2) :
    (x0 ++ x1 ++ x2 ++ x3 ++ x4 ++ x5 ++ x6 ++ x7 ++ x8).extractLsb' 19 2 = x2 := by
  rw [extract_hi, extract_hi, extract_hi, extract_hi, extract_hi, extract_hi, extract_lo]
  · exact extract_all _
  all_goals decide

theorem field_6_5_2_3_5_2_5_2_2_at_21_5 (x0 : BitVec 6) (x1 : BitVec 5) (x2 : BitVec 2) (x3 : BitVec 3) (x4 : BitVec 5) (x5 : BitVec 2) (x6 : BitVec 5) (x7 : BitVec 2) (x8 : BitVec 2) :
    (x0 ++ x1 ++ x2 ++ x3 ++ x4 ++ x5 ++ x6 ++ x7 ++ x8).extractLsb' 21 5 = x1 := by
  rw [extract_hi, extract_hi, extract_hi, extract_hi, extract_hi, extract_hi, extract_hi, extract_lo]
  · exact extract_all _
  all_goals decide

theorem field_6_5_2_3_5_2_5_2_2_at_26_6 (x0 : BitVec 6) (x1 : BitVec 5) (x2 : BitVec 2) (x3 : BitVec 3) (x4 : BitVec 5) (x5 : BitVec 2) (x6 : BitVec 5) (x7 : BitVec 2) (x8 : BitVec 2) :
    (x0 ++ x1 ++ x2 ++ x3 ++ x4 ++ x5 ++ x6 ++ x7 ++ x8).extractLsb' 26 6 = x0 := by
  rw [extract_hi, extract_hi, extract_hi, extract_hi, extract_hi, extract_hi, extract_hi, extract_hi]
  · exact extract_all _
  all_goals decide

theorem field_6_5_2_3_5_11_at_0_6 (x0 : BitVec 6) (x1 : BitVec 5) (x2 : BitVec 2) (x3 : BitVec 3) (x4 : BitVec 5) (x5 : BitVec 11) :
    (x0 ++ x1 ++ x2 ++ x3 ++ x4 ++ x5).extractLsb' 0 6 = x5.extractLsb' 0 6 := by
  rw [extract_lo]
  all_goals decide

theorem field_6_5_2_3_5_11_at_6_5 (x0 : BitVec 6) (x1 : BitVec 5) (x2 : BitVec 2) (x3 : BitVec 3) (x4 : BitVec 5) (x5 : BitVec 11) :
    (x0 ++ x1 ++ x2 ++ x3 ++ x4 ++ x5).extractLsb' 6 5 = x5.extractLsb' 6 5 := by
  rw [extract_lo]
  all_goals decide

theorem field_6_5_2_3_5_11_at_11_5 (x0 : BitVec 6) (x1 : BitVec 5) (x2 : BitVec 2) (x3 : BitVec 3) (x4 : BitVec 5) (x5 : BitVec 11) :
    (x0 ++ x1 ++ x2 ++ x3 ++ x4 ++ x5).extractLsb' 11 5 = x4 := by
  rw [extract_hi, extract_lo]
  · exact extract_all _
  all_goals decide

theorem field_6_5_2_3_5_11_at_16_3 (x0 : BitVec 6) (x1 : BitVec 5) (x2 : BitVec 2) (x3 : BitVec 3) (x4 : BitVec 5) (x5 : BitVec 11) :
    (x0 ++ x1 ++ x2 ++ x3 ++ x4 ++ x5).extractLsb' 16 3 = x3 := by
  rw [extract_hi, extract_hi, extract_lo]
  · exact extract_all _
  all_goals decide

theorem field_6_5_2_3_5_11_at_19_2 (x0 : BitVec 6) (x1 : BitVec 5) (x2 : BitVec 2) (x3 : BitVec 3) (x4 : BitVec 5) (x5 : BitVec 11) :
    (x0 ++ x1 ++ x2 ++ x3 ++ x4 ++ x5).extractLsb' 19 2 = x2 := by
  rw [extract_hi, extract_hi, extract_hi, extract_lo]
  · exact extract_all _
  all_goals decide

theorem field_6_5_2_3_5_11_at_21_5 (x0 : BitVec 6) (x1 : BitVec 5) (x2 : BitVec 2) (x3 : BitVec 3) (x4 : BitVec 5) (x5 : BitVec 11) :
    (x0 ++ x1 ++ x2 ++ x3 ++ x4 ++ x5).extractLsb' 21 5 = x1 := by
  rw [extract_hi, extract_hi, extract_hi, extract_hi, extract_lo]
  · exact extract_all _
  all_goals decide

theorem field_6_5_2_3_5_11_at_26_6 (x0 : BitVec 6) (x1 : BitVec 5) (x2 : BitVec 2) (x3 : BitVec 3) (x4 : BitVec 5) (x5 : BitVec 11) :
    (x0 ++ x1 ++ x2 ++ x3 ++ x4 ++ x5).extractLsb' 26 6 = x0 := by
  rw [extract_hi, extract_hi, extract_hi, extract_hi, extract_hi]
  · exact extract_all _
  all_goals decide

theorem field_6_5_2_3_16_at_0_6 (x0 : BitVec 6) (x1 : BitVec 5) (x2 : BitVec 2) (x3 : BitVec 3) (x4 : BitVec 16) :
    (x0 ++ x1 ++ x2 ++ x3 ++ x4).extractLsb' 0 6 = x4.extractLsb' 0 6 := by
  rw [extract_lo]
  all_goals decide

theorem field_6_5_2_3_16_at_6_10 (x0 : BitVec 6) (x1 : BitVec 5) (x2 : BitVec 2) (x3 : BitVec 3) (x4 : BitVec 16) :
    (x0 ++ x1 ++ x2 ++ x3 ++ x4).extractLsb' 6 10 = x4.extractLsb' 6 10 := by
  rw [extract_lo]
  all_goals decide

theorem field_6_5_2_3_16_at_16_3 (x0 : BitVec 6) (x1 : BitVec 5) (x2 : BitVec 2) (x3 : BitVec 3) (x4 : BitVec 16) :
    (x0 ++ x1 ++ x2 ++ x3 ++ x4).extractLsb' 16 3 = x3 := by
  rw [extract_hi, extract_lo]
  · exact extract_all _
  all_goals decide

theorem field_6_5_2_3_16_at_19_2 (x0 : BitVec 6) (x1 : BitVec 5) (x2 : BitVec 2) (x3 : BitVec 3) (x4 : BitVec 16) :
    (x0 ++ x1 ++ x2 ++ x3 ++ x4).extractLsb' 19 2 = x2 := by
  rw [extract_hi, extract_hi, extract_lo]
  · exact extract_all _
  all_goals decide

theorem field_6_5_2_3_16_at_21_5 (x0 : BitVec 6) (x1 : BitVec 5) (x2 : BitVec 2) (x3 : BitVec 3) (x4 : BitVec 16) :
    (x0 ++ x1 ++ x2 ++ x3 ++ x4).extractLsb' 21 5 = x1 := by
  rw [extract_hi, extract_hi, extract_hi, extract_lo]
  · exact extract_all _
  all_goals decide

theorem field_6_5_2_3_16_at_26_6 (x0 : BitVec 6) (x1 : BitVec 5) (x2 : BitVec 2) (x3 : BitVec 3) (x4 : BitVec 16) :
    (x0 ++ x1 ++ x2 ++ x3 ++ x4).extractLsb' 26 6 = x0 := by
  rw [extract_hi, extract_hi, extract_hi, extract_hi]
  · exact extract_all _
  all_goals decide

theorem field_6_5_5_2_3_2_5_2_2_at_0_2 (x0 : BitVec 6) (x1 : BitVec 5) (x2 : BitVec 5) (x3 : BitVec 2) (x4 : BitVec 3) (x5 : BitVec 2) (x6 : BitVec 5) (x7 : BitVec 2) (x8 : BitVec 2) :
    (x0 ++ x1 ++ x2 ++ x3 ++ x4 ++ x5 ++ x6 ++ x7 ++ x8).extractLsb' 0 2 = x8 := by
  rw [extract_lo]
  · exact extract_all _
  all_goals decide

theorem field_6_5_5_2_3_2_5_2_2_at_2_2 (x0 : BitVec 6) (x1 : BitVec 5) (x2 : BitVec 5) (x3 : BitVec 2) (x4 : BitVec 3) (x5 : BitVec 2) (x6 : BitVec 5) (x7 : BitVec 2) (x8 : BitVec 2) :
    (x0 ++ x1 ++ x2 ++ x3 ++ x4 ++ x5 ++ x6 ++ x7 ++ x8).extractLsb' 2 2 = x7 := by
  rw [extract_hi, extract_lo]
  · exact extract_all _
  all_goals decide

theorem field_6_5_5_2_3_2_5_2_2_at_4_5 (x0 : BitVec 6) (x1 : BitVec 5) (x2 : BitVec 5) (x3 : BitVec 2) (x4 : BitVec 3) (x5 : BitVec 2) (x6 : BitVec 5) (x7 : BitVec 2) (x8 : BitVec 2) :
    (x0 ++ x1 ++ x2 ++ x3 ++ x4 ++ x5 ++ x6 ++ x7 ++ x8).extractLsb' 4 5 = x6 := by
  rw [extract_hi, extract_hi, extract_lo]
  · exact extract_all _
  all_goals decide

theorem field_6_5_5_2_3_2_5_2_2_at_9_2 (x0 : BitVec 6) (x1 : BitVec 5) (x2 : BitVec 5) (x3 : BitVec 2) (x4 : BitVec 3) (x5 : BitVec 2) (x6 : BitVec 5) (x7 : BitVec 2) (x8 : BitVec 2) :
    (x0 ++ x1 ++ x2 ++ x3 ++ x4 ++ x5 ++ x6 ++ x7 ++ x8).extractLsb' 9 2 = x5 := by
  rw [extract_hi, extract_hi, extract_hi, extract_lo]
  · exact extract_all _
  all_goals decide

theorem field_6_5_5_2_3_2_5_2_2_at_11_3 (x0 : BitVec 6) (x1 : BitVec 5) (x2 : BitVec 5) (x3 : BitVec 2) (x4 : BitVec 3) (x5 : BitVec 2) (x6 : BitVec 5) (x7 : BitVec 2) (x8 : BitVec 2) :
    (x0 ++ x1 ++ x2 ++ x3 ++ x4 ++ x5 ++ x6 ++ x7 ++ x8).extractLsb' 11 3 = x4 := by
  rw [extract_hi, extract_hi, extract_hi, extract_hi, extract_lo]
  · exact extract_all _
  all_goals decide

theorem field_6_5_5_2_3_2_5_2_2_at_14_2 (x0 : BitVec 6) (x1 : BitVec 5) (x2 : BitVec 5) (x3 : BitVec 2) (x4 : BitVec 3) (x5 : BitVec 2) (x6 : BitVec 5) (x7 : BitVec 2) (x8 : BitVec 2) :
    (x0 ++ x1 ++ x2 ++ x3 ++ x4 ++ x5 ++ x6 ++ x7 ++ x8).extractLsb' 14 2 = x3 := by
  rw [extract_hi, extract_hi, extract_hi, extract_hi, extract_hi, extract_lo]
  · exact extract_all _
  all_goals decide

theorem field_6_5_5_2_3_2_5_2_2_at_16_5 (x0 : BitVec 6) (x1 : BitVec 5) (x2 : BitVec 5) (x3 : BitVec 2) (x4 : BitVec 3) (x5 : BitVec 2) (x6 : BitVec 5) (x7 : BitVec 2) (x8 : BitVec 2) :
    (x0 ++ x1 ++ x2 ++ x3 ++ x4 ++ x5 ++ x6 ++ x7 ++ x8).extractLsb' 16 5 = x2 := by
  rw [extract_hi, extract_hi, extract_hi, extract_hi, extract_hi, extract_hi, extract_lo]
  · exact extract_all _
  all_goals decide

theorem field_6_5_5_2_3_2_5_2_2_at_21_5 (x0 : BitVec 6) (x1 : BitVec 5) (x2 : BitVec 5) (x3 : BitVec 2) (x4 : BitVec 3) (x5 : BitVec 2) (x6 : BitVec 5) (x7 : BitVec 2) (x8 : BitVec 2) :
    (x0 ++ x1 ++ x2 ++ x3 ++ x4 ++ x5 ++ x6 ++ x7 ++ x8).extractLsb' 21 5 = x1 := by
  rw [extract_hi, extract_hi, extract_hi, extract_hi, extract_hi, extract_hi, extract_hi, extract_lo]
  · exact extract_all _
  all_goals decide

theorem field_6_5_5_2_3_2_5_2_2_at_26_6 (x0 : BitVec 6) (x1 : BitVec 5) (x2 : BitVec 5) (x3 : BitVec 2) (x4 : BitVec 3) (x5 : BitVec 2) (x6 : BitVec 5) (x7 : BitVec 2) (x8 : BitVec 2) :
    (x0 ++ x1 ++ x2 ++ x3 ++ x4 ++ x5 ++ x6 ++ x7 ++ x8).extractLsb' 26 6 = x0 := by
  rw [extract_hi, extract_hi, extract_hi, extract_hi, extract_hi, extract_hi, extract_hi, extract_hi]
  · exact extract_all _
  all_goals decide

theorem field_6_5_5_2_3_2_7_2_at_0_2 (x0 : BitVec 6) (x1 : BitVec 5) (x2 : BitVec 5) (x3 : BitVec 2) (x4 : BitVec 3) (x5 : BitVec 2) (x6 : BitVec 7) (x7 : BitVec 2) :
    (x0 ++ x1 ++ x2 ++ x3 ++ x4 ++ x5 ++ x6 ++ x7).extractLsb' 0 2 = x7 := by
  rw [extract_lo]
  · exact extract_all _
  all_goals decide

theorem field_6_5_5_2_3_2_7_2_at_2_2 (x0 : BitVec 6) (x1 : BitVec 5) (x2 : BitVec 5) (x3 : BitVec 2) (x4 : BitVec 3) (x5 : BitVec 2) (x6 : BitVec 7) (x7 : BitVec 2) :
    (x0 ++ x1 ++ x2 ++ x3 ++ x4 ++ x5 ++ x6 ++ x7).extractLsb' 2 2 = x6.extractLsb' 0 2 := by
  rw [extract_hi, extract_lo]
  all_goals decide

theorem field_6_5_5_2_3_2_7_2_at_4_5 (x0 : BitVec 6) (x1 : BitVec 5) (x2 : BitVec 5) (x3 : BitVec 2) (x4 : BitVec 3) (x5 : BitVec 2) (x6 : BitVec 7) (x7 : BitVec 2) :
    (x0 ++ x1 ++ x2 ++ x3 ++ x4 ++ x5 ++ x6 ++ x7).extractLsb' 4 5 = x6.extractLsb' 2 5 := by
  rw [extract_hi, extract_lo]
  all_goals decide

theorem field_6_5_5_2_3_2_7_2_at_9_2 (x0 : BitVec 6) (x1 : BitVec 5) (x2 : BitVec 5) (x3 : BitVec 2) (x4 : BitVec 3) (x5 : BitVec 2) (x6 : BitVec 7) (x7 : BitVec 2) :
    (x0 ++ x1 ++ x2 ++ x3 ++ x4 ++ x5 ++ x6 ++ x7).extractLsb' 9 2 = x5 := by
  rw [extract_hi, extract_hi, extract_lo]
  · exact extract_all _
  all_goals decide

theorem field_6_5_5_2_3_2_7_2_at_11_3 (x0 : BitVec 6) (x1 : BitVec 5) (x2 : BitVec 5) (x3 : BitVec 2) (x4 : BitVec 3) (x5 : BitVec 2) (x6 : BitVec 7) (x7 : BitVec 2) :
    (x0 ++ x1 ++ x2 ++ x3 ++ x4 ++ x5 ++ x6 ++ x7).extractLsb' 11 3 = x4 := by
  rw [extract_hi, extract_hi, extract_hi, extract_lo]
  · exact extract_all _
  all_goals decide

theorem field_6_5_5_2_3_2_7_2_at_14_2 (x0 : BitVec 6) (x1 : BitVec 5) (x2 : BitVec 5) (x3 : BitVec 2) (x4 : BitVec 3) (x5 : BitVec 2) (x6 : BitVec 7) (x7 : BitVec 2) :
    (x0 ++ x1 ++ x2 ++ x3 ++ x4 ++ x5 ++ x6 ++ x7).extractLsb' 14 2 = x3 := by
  rw [extract_hi, extract_hi, extract_hi, extract_hi, extract_lo]
  · exact extract_all _
  all_goals decide

theorem field_6_5_5_2_3_2_7_2_at_16_5 (x0 : BitVec 6) (x1 : BitVec 5) (x2 : BitVec 5) (x3 : BitVec 2) (x4 : BitVec 3) (x5 : BitVec 2) (x6 : BitVec 7) (x7 : BitVec 2) :
    (x0 ++ x1 ++ x2 ++ x3 ++ x4 ++ x5 ++ x6 ++ x7).extractLsb' 16 5 = x2 := by
  rw [extract_hi, extract_hi, extract_hi, extract_hi, extract_hi, extract_lo]
  · exact extract_all _
  all_goals decide

theorem field_6_5_5_2_3_2_7_2_at_21_5 (x0 : BitVec 6) (x1 : BitVec 5) (x2 : BitVec 5) (x3 : BitVec 2) (x4 : BitVec 3) (x5 : BitVec 2) (x6 : BitVec 7) (x7 : BitVec 2) :
    (x0 ++ x1 ++ x2 ++ x3 ++ x4 ++ x5 ++ x6 ++ x7).extractLsb' 21 5 = x1 := by
  rw [extract_hi, extract_hi, extract_hi, extract_hi, extract_hi, extract_hi, extract_lo]
  · exact extract_all _
  all_goals decide

theorem field_6_5_5_2_3_2_7_2_at_26_6 (x0 : BitVec 6) (x1 : BitVec 5) (x2 : BitVec 5) (x3 : BitVec 2) (x4 : BitVec 3) (x5 : BitVec 2) (x6 : BitVec 7) (x7 : BitVec 2) :
    (x0 ++ x1 ++ x2 ++ x3 ++ x4 ++ x5 ++ x6 ++ x7).extractLsb' 26 6 = x0 := by
  rw [extract_hi, extract_hi, extract_hi, extract_hi, extract_hi, extract_hi, extract_hi]
  · exact extract_all _
  all_goals decide

theorem field_6_5_5_2_3_5_1_1_2_2_at_0_2 (x0 : BitVec 6) (x1 : BitVec 5) (x2 : BitVec 5) (x3 : BitVec 2) (x4 : BitVec 3) (x5 : BitVec 5) (x6 : BitVec 1) (x7 : BitVec 1) (x8 : BitVec 2) (x9 : BitVec 2) :
    (x0 ++ x1 ++ x2 ++ x3 ++ x4 ++ x5 ++ x6 ++ x7 ++ x8 ++ x9).extractLsb' 0 2 = x9 := by
  rw [extract_lo]
  · exact extract_all _
  all_goals decide

theorem field_6_5_5_2_3_5_1_1_2_2_at_2_2 (x0 : BitVec 6) (x1 : BitVec 5) (x2 : BitVec 5) (x3 : BitVec 2) (x4 : BitVec 3) (x5 : BitVec 5) (x6 : BitVec 1) (x7 : BitVec 1) (x8 : BitVec 2) (x9 : BitVec 2) :
    (x0 ++ x1 ++ x2 ++ x3 ++ x4 ++ x5 ++ x6 ++ x7 ++ x8 ++ x9).extractLsb' 2 2 = x8 := by
  rw [extract_hi, extract_lo]
  · exact extract_all _
  all_goals decide

theorem field_6_5_5_2_3_5_1_1_2_2_at_4_1 (x0 : BitVec 6) (x1 : BitVec 5) (x2 : BitVec 5) (x3 : BitVec 2) (x4 : BitVec 3) (x5 : BitVec 5) (x6 : BitVec 1) (x7 : BitVec 1) (x8 : BitVec 2) (x9 : BitVec 2) :
    (x0 ++ x1 ++ x2 ++ x3 ++ x4 ++ x5 ++ x6 ++ x7 ++ x8 ++ x9).extractLsb' 4 1 = x7 := by
  rw [extract_hi, extract_hi, extract_lo]
  · exact extract_all _
  all_goals decide

theorem field_6_5_5_2_3_5_1_1_2_2_at_5_1 (x0 : BitVec 6) (x1 : BitVec 5) (x2 : BitVec 5) (x3 : BitVec 2) (x4 : BitVec 3) (x5 : BitVec 5) (x6 : BitVec 1) (x7 : BitVec 1) (x8 : BitVec 2) (x9 : BitVec 2) :
    (x0 ++ x1 ++ x2 ++ x3 ++ x4 ++ x5 ++ x6 ++ x7 ++ x8 ++ x9).extractLsb' 5 1 = x6 := by
  rw [extract_hi, extract_hi, extract_hi, extract_lo]
  · exact extract_all _
  all_goals decide

theorem field_6_5_5_2_3_5_1_1_2_2_at_6_5 (x0 : BitVec 6) (x1 : BitVec 5) (x2 : BitVec 5) (x3 : BitVec 2) (x4 : BitVec 3) (x5 : BitVec 5) (x6 : BitVec 1) (x7 : BitVec 1) (x8 : BitVec 2) (x9 : BitVec 2) :
    (x0 ++ x1 ++ x2 ++ x3 ++ x4 ++ x5 ++ x6 ++ x7 ++ x8 ++ x9).extractLsb' 6 5 = x5 := by
  rw [extract_hi, extract_hi, extract_hi, extract_hi, extract_lo]
  · exact extract_all _
  all_goals decide

theorem field_6_5_5_2_3_5_1_1_2_2_at_11_3 (x0 : BitVec 6) (x1 : BitVec 5) (x2 : BitVec 5) (x3 : BitVec 2) (x4 : BitVec 3) (x5 : BitVec 5) (x6 : BitVec 1) (x7 : BitVec 1) (x8 : BitVec 2) (x9 : BitVec 2) :
    (x0 ++ x1 ++ x2 ++ x3 ++ x4 ++ x5 ++ x6 ++ x7 ++ x8 ++ x9).extractLsb' 11 3 = x4 := by
  rw [extract_hi, extract_hi, extract_hi, extract_hi, extract_hi, extract_lo]
  · exact extract_all _
  all_goals decide

theorem field_6_5_5_2_3_5_1_1_2_2_at_14_2 (x0 : BitVec 6) (x1 : BitVec 5) (x2 : BitVec 5) (x3 : BitVec 2) (x4 : BitVec 3) (x5 : BitVec 5) (x6 : BitVec 1) (x7 : BitVec 1) (x8 : BitVec 2) (x9 : BitVec 2) :
    (x0 ++ x1 ++ x2 ++ x3 ++ x4 ++ x5 ++ x6 ++ x7 ++ x8 ++ x9).extractLsb' 14 2 = x3 := by
  rw [extract_hi, extract_hi, extract_hi, extract_hi, extract_hi, extract_hi, extract_lo]
  · exact extract_all _
  all_goals decide

theorem field_6_5_5_2_3_5_1_1_2_2_at_16_5 (x0 : BitVec 6) (x1 : BitVec 5) (x2 : BitVec 5) (x3 : BitVec 2) (x4 : BitVec 3) (x5 : BitVec 5) (x6 : BitVec 1) (x7 : BitVec 1) (x8 : BitVec 2) (x9 : BitVec 2) :
    (x0 ++ x1 ++ x2 ++ x3 ++ x4 ++ x5 ++ x6 ++ x7 ++ x8 ++ x9).extractLsb' 16 5 = x2 := by
  rw [extract_hi, extract_hi, extract_hi, extract_hi, extract_hi, extract_hi, extract_hi, extract_lo]
  · exact extract_all _
  all_goals decide

theorem field_6_5_5_2_3_5_1_1_2_2_at_21_5 (x0 : BitVec 6) (x1 : BitVec 5) (x2 : BitVec 5) (x3 : BitVec 2) (x4 : BitVec 3) (x5 : BitVec 5) (x6 : BitVec 1) (x7 : BitVec 1) (x8 : BitVec 2) (x9 : BitVec 2) :
    (x0 ++ x1 ++ x2 ++ x3 ++ x4 ++ x5 ++ x6 ++ x7 ++ x8 ++ x9).extractLsb' 21 5 = x1 := by
  rw [extract_hi, extract_hi, extract_hi, extract_hi, extract_hi, extract_hi, extract_hi, extract_hi, extract_lo]
  · exact extract_all _
  all_goals decide

theorem field_6_5_5_2_3_5_1_1_2_2_at_26_6 (x0 : BitVec 6) (x1 : BitVec 5) (x2 : BitVec 5) (x3 : BitVec 2) (x4 : BitVec 3) (x5 : BitVec 5) (x6 : BitVec 1) (x7 : BitVec 1) (x8 : BitVec 2) (x9 : BitVec 2) :
    (x0 ++ x1 ++ x2 ++ x3 ++ x4 ++ x5 ++ x6 ++ x7 ++ x8 ++ x9).extractLsb' 26 6 = x0 := by
  rw [extract_hi, extract_hi, extract_hi, extract_hi, extract_hi, extract_hi, extract_hi, extract_hi, extract_hi]
  · exact extract_all _
  all_goals decide

theorem field_6_5_5_2_3_9_2_at_0_2 (x0 : BitVec 6) (x1 : BitVec 5) (x2 : BitVec 5) (x3 : BitVec 2) (x4 : BitVec 3) (x5 : BitVec 9) (x6 : BitVec 2) :
    (x0 ++ x1 ++ x2 ++ x3 ++ x4 ++ x5 ++ x6).extractLsb' 0 2 = x6 := by
  rw [extract_lo]
  · exact extract_all _
  all_goals decide

theorem field_6_5_5_2_3_9_2_at_2_4 (x0 : BitVec 6) (x1 : BitVec 5) (x2 : BitVec 5) (x3 : BitVec 2) (x4 : BitVec 3) (x5 : BitVec 9) (x6 : BitVec 2) :
    (x0 ++ x1 ++ x2 ++ x3 ++ x4 ++ x5 ++ x6).extractLsb' 2 4 = x5.extractLsb' 0 4 := by
  rw [extract_hi, extract_lo]
  all_goals decide

theorem field_6_5_5_2_3_9_2_at_6_5 (x0 : BitVec 6) (x1 : BitVec 5) (x2 : BitVec 5) (x3 : BitVec 2) (x4 : BitVec 3) (x5 : BitVec 9) (x6 : BitVec 2) :
    (x0 ++ x1 ++ x2 ++ x3 ++ x4 ++ x5 ++ x6).extractLsb' 6 5 = x5.extractLsb' 4 5 := by
  rw [extract_hi, extract_lo]
  all_goals decide

theorem field_6_5_5_2_3_9_2_at_11_3 (x0 : BitVec 6) (x1 : BitVec 5) (x2 : BitVec 5) (x3 : BitVec 2) (x4 : BitVec 3) (x5 : BitVec 9) (x6 : BitVec 2) :
    (x0 ++ x1 ++ x2 ++ x3 ++ x4 ++ x5 ++ x6).extractLsb' 11 3 = x4 := by
  rw [extract_hi, extract_hi, extract_lo]
  · exact extract_all _
  all_goals decide

theorem field_6_5_5_2_3_9_2_at_14_2 (x0 : BitVec 6) (x1 : BitVec 5) (x2 : BitVec 5) (x3 : BitVec 2) (x4 : BitVec 3) (x5 : BitVec 9) (x6 : BitVec 2) :
    (x0 ++ x1 ++ x2 ++ x3 ++ x4 ++ x5 ++ x6).extractLsb' 14 2 = x3 := by
  rw [extract_hi, extract_hi, extract_hi, extract_lo]
  · exact extract_all _
  all_goals decide

theorem field_6_5_5_2_3_9_2_at_16_5 (x0 : BitVec 6) (x1 : BitVec 5) (x2 : BitVec 5) (x3 : BitVec 2) (x4 : BitVec 3) (x5 : BitVec 9) (x6 : BitVec 2) :
    (x0 ++ x1 ++ x2 ++ x3 ++ x4 ++ x5 ++ x6).extractLsb' 16 5 = x2 := by
  rw [extract_hi, extract_hi, extract_hi, extract_hi, extract_lo]
  · exact extract_all _
  all_goals decide

theorem field_6_5_5_2_3_9_2_at_21_5 (x0 : BitVec 6) (x1 : BitVec 5) (x2 : BitVec 5) (x3 : BitVec 2) (x4 : BitVec 3) (x5 : BitVec 9) (x6 : BitVec 2) :
    (x0 ++ x1 ++ x2 ++ x3 ++ x4 ++ x5 ++ x6).extractLsb' 21 5 = x1 := by
  rw [extract_hi, extract_hi, extract_hi, extract_hi, extract_hi, extract_lo]
  · exact extract_all _
  all_goals decide

theorem field_6_5_5_2_3_9_2_at_26_6 (x0 : BitVec 6) (x1 : BitVec 5) (x2 : BitVec 5) (x3 : BitVec 2) (x4 : BitVec 3) (x5 : BitVec 9) (x6 : BitVec 2) :
    (x0 ++ x1 ++ x2 ++ x3 ++ x4 ++ x5 ++ x6).extractLsb' 26 6 = x0 := by
  rw [extract_hi, extract_hi, extract_hi, extract_hi, extract_hi, extract_hi]
  · exact extract_all _
  all_goals decide

theorem field_6_5_5_3_13_at_0_13 (x0 : BitVec 6) (x1 : BitVec 5) (x2 : BitVec 5) (x3 : BitVec 3) (x4 : BitVec 13) :
    (x0 ++ x1 ++ x2 ++ x3 ++ x4).extractLsb' 0 13 = x4 := by
  rw [extract_lo]
  · exact extract_all _
  all_goals decide

theorem field_6_5_5_3_13_at_13_3 (x0 : BitVec 6) (x1 : BitVec 5) (x2 : BitVec 5) (x3 : BitVec 3) (x4 : BitVec 13) :
    (x0 ++ x1 ++ x2 ++ x3 ++ x4).extractLsb' 13 3 = x3 := by
  rw [extract_hi, extract_lo]
  · exact extract_all _
  all_goals decide

theorem field_6_5_5_3_13_at_16_5 (x0 : BitVec 6) (x1 : BitVec 5) (x2 : BitVec 5) (x3 : BitVec 3) (x4 : BitVec 13) :
    (x0 ++ x1 ++ x2 ++ x3 ++ x4).extractLsb' 16 5 = x2 := by
  rw [extract_hi, extract_hi, extract_lo]
  · exact extract_all _
  all_goals decide

theorem field_6_5_5_3_13_at_21_5 (x0 : BitVec 6) (x1 : BitVec 5) (x2 : BitVec 5) (x3 : BitVec 3) (x4 : BitVec 13) :
    (x0 ++ x1 ++ x2 ++ x3 ++ x4).extractLsb' 21 5 = x1 := by
  rw [extract_hi, extract_hi, extract_hi, extract_lo]
  · exact extract_all _
  all_goals decide

theorem field_6_5_5_3_13_at_26_6 (x0 : BitVec 6) (x1 : BitVec 5) (x2 : BitVec 5) (x3 : BitVec 3) (x4 : BitVec 13) :
    (x0 ++ x1 ++ x2 ++ x3 ++ x4).extractLsb' 26 6 = x0 := by
  rw [extract_hi, extract_hi, extract_hi, extract_hi]
  · exact extract_all _
  all_goals decide

theorem field_6_5_5_5_1_1_5_2_2_at_0_2 (x0 : BitVec 6) (x1 : BitVec 5) (x2 : BitVec 5) (x3 : BitVec 5) (x4 : BitVec 1) (x5 : BitVec 1) (x6 : BitVec 5) (x7 : BitVec 2) (x8 : BitVec 2) :
    (x0 ++ x1 ++ x2 ++ x3 ++ x4 ++ x5 ++ x6 ++ x7 ++ x8).extractLsb' 0 2 = x8 := by
  rw [extract_lo]
  · exact extract_all _
  all_goals decide

theorem field_6_5_5_5_1_1_5_2_2_at_2_2 (x0 : BitVec 6) (x1 : BitVec 5) (x2 : BitVec 5) (x3 : BitVec 5) (x4 : BitVec 1) (x5 : BitVec 1) (x6 : BitVec 5) (x7 : BitVec 2) (x8 : BitVec 2) :
    (x0 ++ x1 ++ x2 ++ x3 ++ x4 ++ x5 ++ x6 ++ x7 ++ x8).extractLsb' 2 2 = x7 := by
  rw [extract_hi, extract_lo]
  · exact extract_all _
  all_goals decide

theorem field_6_5_5_5_1_1_5_2_2_at_4_5 (x0 : BitVec 6) (x1 : BitVec 5) (x2 : BitVec 5) (x3 : BitVec 5) (x4 : BitVec 1) (x5 : BitVec 1) (x6 : BitVec 5) (x7 : BitVec 2) (x8 : BitVec 2) :
    (x0 ++ x1 ++ x2 ++ x3 ++ x4 ++ x5 ++ x6 ++ x7 ++ x8).extractLsb' 4 5 = x6 := by
  rw [extract_hi, extract_hi, extract_lo]
  · exact extract_all _
  all_goals decide

theorem field_6_5_5_5_1_1_5_2_2_at_9_1 (x0 : BitVec 6) (x1 : BitVec 5) (x2 : BitVec 5) (x3 : BitVec 5) (x4 : BitVec 1) (x5 : BitVec 1) (x6 : BitVec 5) (x7 : BitVec 2) (x8 : BitVec 2) :
    (x0 ++ x1 ++ x2 ++ x3 ++ x4 ++ x5 ++ x6 ++ x7 ++ x8).extractLsb' 9 1 = x5 := by
  rw [extract_hi, extract_hi, extract_hi, extract_lo]
  · exact extract_all _
  all_goals decide

theorem field_6_5_5_5_1_1_5_2_2_at_10_1 (x0 : BitVec 6) (x1 : BitVec 5) (x2 : BitVec 5) (x3 : BitVec 5) (x4 : BitVec 1) (x5 : BitVec 1) (x6 : BitVec 5) (x7 : BitVec 2) (x8 : BitVec 2) :
    (x0 ++ x1 ++ x2 ++ x3 ++ x4 ++ x5 ++ x6 ++ x7 ++ x8).extractLsb' 10 1 = x4 := by
  rw [extract_hi, extract_hi, extract_hi, extract_hi, extract_lo]
  · exact extract_all _
  all_goals decide

theorem field_6_5_5_5_1_1_5_2_2_at_11_5 (x0 : BitVec 6) (x1 : BitVec 5) (x2 : BitVec 5) (x3 : BitVec 5) (x4 : BitVec 1) (x5 : BitVec 1) (x6 : BitVec 5) (x7 : BitVec 2) (x8 : BitVec 2) :
    (x0 ++ x1 ++ x2 ++ x3 ++ x4 ++ x5 ++ x6 ++ x7 ++ x8).extractLsb' 11 5 = x3 := by
  rw [extract_hi, extract_hi, extract_hi, extract_hi, extract_hi, extract_lo]
  · exact extract_all _
  all_goals decide

theorem field_6_5_5_5_1_1_5_2_2_at_16_5 (x0 : BitVec 6) (x1 : BitVec 5) (x2 : BitVec 5) (x3 : BitVec 5) (x4 : BitVec 1) (x5 : BitVec 1) (x6 : BitVec 5) (x7 : BitVec 2) (x8 : BitVec 2) :
    (x0 ++ x1 ++ x2 ++ x3 ++ x4 ++ x5 ++ x6 ++ x7 ++ x8).extractLsb' 16 5 = x2 := by
  rw [extract_hi, extract_hi, extract_hi, extract_hi, extract_hi, extract_hi, extract_lo]
  · exact extract_all _
  all_goals decide

theorem field_6_5_5_5_1_1_5_2_2_at_21_5 (x0 : BitVec 6) (x1 : BitVec 5) (x2 : BitVec 5) (x3 : BitVec 5) (x4 : BitVec 1) (x5 : BitVec 1) (x6 : BitVec 5) (x7 : BitVec 2) (x8 : BitVec 2) :
    (x0 ++ x1 ++ x2 ++ x3 ++ x4 ++ x5 ++ x6 ++ x7 ++ x8).extractLsb' 21 5 = x1 := by
  rw [extract_hi, extract_hi, extract_hi, extract_hi, extract_hi, extract_hi, extract_hi, extract_lo]
  · exact extract_all _
  all_goals decide

theorem field_6_5_5_5_1_1_5_2_2_at_26_6 (x0 : BitVec 6) (x1 : BitVec 5) (x2 : BitVec 5) (x3 : BitVec 5) (x4 : BitVec 1) (x5 : BitVec 1) (x6 : BitVec 5) (x7 : BitVec 2) (x8 : BitVec 2) :
    (x0 ++ x1 ++ x2 ++ x3 ++ x4 ++ x5 ++ x6 ++ x7 ++ x8).extractLsb' 26 6 = x0 := by
  rw [extract_hi, extract_hi, extract_hi, extract_hi, extract_hi, extract_hi, extract_hi, extract_hi]
  · exact extract_all _
  all_goals decide

theorem field_6_5_5_5_2_1_8_at_0_6 (x0 : BitVec 6) (x1 : BitVec 5) (x2 : BitVec 5) (x3 : BitVec 5) (x4 : BitVec 2) (x5 : BitVec 1) (x6 : BitVec 8) :
    (x0 ++ x1 ++ x2 ++ x3 ++ x4 ++ x5 ++ x6).extractLsb' 0 6 = x6.extractLsb' 0 6 := by
  rw [extract_lo]
  all_goals decide

theorem field_6_5_5_5_2_1_8_at_6_2 (x0 : BitVec 6) (x1 : BitVec 5) (x2 : BitVec 5) (x3 : BitVec 5) (x4 : BitVec 2) (x5 : BitVec 1) (x6 : BitVec 8) :
    (x0 ++ x1 ++ x2 ++ x3 ++ x4 ++ x5 ++ x6).extractLsb' 6 2 = x6.extractLsb' 6 2 := by
  rw [extract_lo]
  all_goals decide

theorem field_6_5_5_5_2_1_8_at_8_1 (x0 : BitVec 6) (x1 : BitVec 5) (x2 : BitVec 5) (x3 : BitVec 5) (x4 : BitVec 2) (x5 : BitVec 1) (x6 : BitVec 8) :
    (x0 ++ x1 ++ x2 ++ x3 ++ x4 ++ x5 ++ x6).extractLsb' 8 1 = x5 := by
  rw [extract_hi, extract_lo]
  · exact extract_all _
  all_goals decide

theorem field_6_5_5_5_2_1_8_at_9_2 (x0 : BitVec 6) (x1 : BitVec 5) (x2 : BitVec 5) (x3 : BitVec 5) (x4 : BitVec 2) (x5 : BitVec 1) (x6 : BitVec 8) :
    (x0 ++ x1 ++ x2 ++ x3 ++ x4 ++ x5 ++ x6).extractLsb' 9 2 = x4 := by
  rw [extract_hi, extract_hi, extract_lo]
  · exact extract_all _
  all_goals decide

theorem field_6_5_5_5_2_1_8_at_11_5 (x0 : BitVec 6) (x1 : BitVec 5) (x2 : BitVec 5) (x3 : BitVec 5) (x4 : BitVec 2) (x5 : BitVec 1) (x6 : BitVec 8) :
    (x0 ++ x1 ++ x2 ++ x3 ++ x4 ++ x5 ++ x6).extractLsb' 11 5 = x3 := by
  rw [extract_hi, extract_hi, extract_hi, extract_lo]
  · exact extract_all _
  all_goals decide

theorem field_6_5_5_5_2_1_8_at_16_5 (x0 : BitVec 6) (x1 : BitVec 5) (x2 : BitVec 5) (x3 : BitVec 5) (x4 : BitVec 2) (x5 : BitVec 1) (x6 : BitVec 8) :
    (x0 ++ x1 ++ x2 ++ x3 ++ x4 ++ x5 ++ x6).extractLsb' 16 5 = x2 := by
  rw [extract_hi, extract_hi, extract_hi, extract_hi, extract_lo]
  · exact extract_all _
  all_goals decide

theorem field_6_5_5_5_2_1_8_at_21_5 (x0 : BitVec 6) (x1 : BitVec 5) (x2 : BitVec 5) (x3 : BitVec 5) (x4 : BitVec 2) (x5 : BitVec 1) (x6 : BitVec 8) :
    (x0 ++ x1 ++ x2 ++ x3 ++ x4 ++ x5 ++ x6).extractLsb' 21 5 = x1 := by
  rw [extract_hi, extract_hi, extract_hi, extract_hi, extract_hi, extract_lo]
  · exact extract_all _
  all_goals decide

theorem field_6_5_5_5_2_1_8_at_26_6 (x0 : BitVec 6) (x1 : BitVec 5) (x2 : BitVec 5) (x3 : BitVec 5) (x4 : BitVec 2) (x5 : BitVec 1) (x6 : BitVec 8) :
    (x0 ++ x1 ++ x2 ++ x3 ++ x4 ++ x5 ++ x6).extractLsb' 26 6 = x0 := by
  rw [extract_hi, extract_hi, extract_hi, extract_hi, extract_hi, extract_hi]
  · exact extract_all _
  all_goals decide

theorem field_6_5_5_5_2_2_1_6_at_0_6 (x0 : BitVec 6) (x1 : BitVec 5) (x2 : BitVec 5) (x3 : BitVec 5) (x4 : BitVec 2) (x5 : BitVec 2) (x6 : BitVec 1) (x7 : BitVec 6) :
    (x0 ++ x1 ++ x2 ++ x3 ++ x4 ++ x5 ++ x6 ++ x7).extractLsb' 0 6 = x7 := by
  rw [extract_lo]
  · exact extract_all _
  all_goals decide

theorem field_6_5_5_5_2_2_1_6_at_6_1 (x0 : BitVec 6) (x1 : BitVec 5) (x2 : BitVec 5) (x3 : BitVec 5) (x4 : BitVec 2) (x5 : BitVec 2) (x6 : BitVec 1) (x7 : BitVec 6) :
    (x0 ++ x1 ++ x2 ++ x3 ++ x4 ++ x5 ++ x6 ++ x7).extractLsb' 6 1 = x6 := by
  rw [extract_hi, extract_lo]
  · exact extract_all _
  all_goals decide

theorem field_6_5_5_5_2_2_1_6_at_7_2 (x0 : BitVec 6) (x1 : BitVec 5) (x2 : BitVec 5) (x3 : BitVec 5) (x4 : BitVec 2) (x5 : BitVec 2) (x6 : BitVec 1) (x7 : BitVec 6) :
    (x0 ++ x1 ++ x2 ++ x3 ++ x4 ++ x5 ++ x6 ++ x7).extractLsb' 7 2 = x5 := by
  rw [extract_hi, extract_hi, extract_lo]
  · exact extract_all _
  all_goals decide

theorem field_6_5_5_5_2_2_1_6_at_9_2 (x0 : BitVec 6) (x1 : BitVec 5) (x2 : BitVec 5) (x3 : BitVec 5) (x4 : BitVec 2) (x5 : BitVec 2) (x6 : BitVec 1) (x7 : BitVec 6) :
    (x0 ++ x1 ++ x2 ++ x3 ++ x4 ++ x5 ++ x6 ++ x7).extractLsb' 9 2 = x4 := by
  rw [extract_hi, extract_hi, extract_hi, extract_lo]
  · exact extract_all _
  all_goals decide

theorem field_6_5_5_5_2_2_1_6_at_11_5 (x0 : BitVec 6) (x1 : BitVec 5) (x2 : BitVec 5) (x3 : BitVec 5) (x4 : BitVec 2) (x5 : BitVec 2) (x6 : BitVec 1) (x7 : BitVec 6) :
    (x0 ++ x1 ++ x2 ++ x3 ++ x4 ++ x5 ++ x6 ++ x7).extractLsb' 11 5 = x3 := by
  rw [extract_hi, extract_hi, extract_hi, extract_hi, extract_lo]
  · exact extract_all _
  all_goals decide

theorem field_6_5_5_5_2_2_1_6_at_16_5 (x0 : BitVec 6) (x1 : BitVec 5) (x2 : BitVec 5) (x3 : BitVec 5) (x4 : BitVec 2) (x5 : BitVec 2) (x6 : BitVec 1) (x7 : BitVec 6) :
    (x0 ++ x1 ++ x2 ++ x3 ++ x4 ++ x5 ++ x6 ++ x7).extractLsb' 16 5 = x2 := by
  rw [extract_hi, extract_hi, extract_hi, extract_hi, extract_hi, extract_lo]
  · exact extract_all _
  all_goals decide

theorem field_6_5_5_5_2_2_1_6_at_21_5 (x0 : BitVec 6) (x1 : BitVec 5) (x2 : BitVec 5) (x3 : BitVec 5) (x4 : BitVec 2) (x5 : BitVec 2) (x6 : BitVec 1) (x7 : BitVec 6) :
    (x0 ++ x1 ++ x2 ++ x3 ++ x4 ++ x5 ++ x6 ++ x7).extractLsb' 21 5 = x1 := by
  rw [extract_hi, extract_hi, extract_hi, extract_hi, extract_hi, extract_hi, extract_lo]
  · exact extract_all _
  all_goals decide

theorem field_6_5_5_5_2_2_1_6_at_26_6 (x0 : BitVec 6) (x1 : BitVec 5) (x2 : BitVec 5) (x3 : BitVec 5) (x4 : BitVec 2) (x5 : BitVec 2) (x6 : BitVec 1) (x7 : BitVec 6) :
    (x0 ++ x1 ++ x2 ++ x3 ++ x4 ++ x5 ++ x6 ++ x7).extractLsb' 26 6 = x0 := by
  rw [extract_hi, extract_hi, extract_hi, extract_hi, extract_hi, extract_hi, extract_hi]
  · exact extract_all _
  all_goals decide

theorem field_6_5_5_5_2_5_2_2_at_0_2 (x0 : BitVec 6) (x1 : BitVec 5) (x2 : BitVec 5) (x3 : BitVec 5) (x4 : BitVec 2) (x5 : BitVec 5) (x6 : BitVec 2) (x7 : BitVec 2) :
    (x0 ++ x1 ++ x2 ++ x3 ++ x4 ++ x5 ++ x6 ++ x7).extractLsb' 0 2 = x7 := by
  rw [extract_lo]
  · exact extract_all _
  all_goals decide

theorem field_6_5_5_5_2_5_2_2_at_2_2 (x0 : BitVec 6) (x1 : BitVec 5) (x2 : BitVec 5) (x3 : BitVec 5) (x4 : BitVec 2) (x5 : BitVec 5) (x6 : BitVec 2) (x7 : BitVec 2) :
    (x0 ++ x1 ++ x2 ++ x3 ++ x4 ++ x5 ++ x6 ++ x7).extractLsb' 2 2 = x6 := by
  rw [extract_hi, extract_lo]
  · exact extract_all _
  all_goals decide

theorem field_6_5_5_5_2_5_2_2_at_4_5 (x0 : BitVec 6) (x1 : BitVec 5) (x2 : BitVec 5) (x3 : BitVec 5) (x4 : BitVec 2) (x5 : BitVec 5) (x6 : BitVec 2) (x7 : BitVec 2) :
    (x0 ++ x1 ++ x2 ++ x3 ++ x4 ++ x5 ++ x6 ++ x7).extractLsb' 4 5 = x5 := by
  rw [extract_hi, extract_hi, extract_lo]
  · exact extract_all _
  all_goals decide

theorem field_6_5_5_5_2_5_2_2_at_9_2 (x0 : BitVec 6) (x1 : BitVec 5) (x2 : BitVec 5) (x3 : BitVec 5) (x4 : BitVec 2) (x5 : BitVec 5) (x6 : BitVec 2) (x7 : BitVec 2) :
    (x0 ++ x1 ++ x2 ++ x3 ++ x4 ++ x5 ++ x6 ++ x7).extractLsb' 9 2 = x4 := by
  rw [extract_hi, extract_hi, extract_hi, extract_lo]
  · exact extract_all _
  all_goals decide

theorem field_6_5_5_5_2_5_2_2_at_11_5 (x0 : BitVec 6) (x1 : BitVec 5) (x2 : BitVec 5) (x3 : BitVec 5) (x4 : BitVec 2) (x5 : BitVec 5) (x6 : BitVec 2) (x7 : BitVec 2) :
    (x0 ++ x1 ++ x2 ++ x3 ++ x4 ++ x5 ++ x6 ++ x7).extractLsb' 11 5 = x3 := by
  rw [extract_hi, extract_hi, extract_hi, extract_hi, extract_lo]
  · exact extract_all _
  all_goals decide

theorem field_6_5_5_5_2_5_2_2_at_16_5 (x0 : BitVec 6) (x1 : BitVec 5) (x2 : BitVec 5) (x3 : BitVec 5) (x4 : BitVec 2) (x5 : BitVec 5) (x6 : BitVec 2) (x7 : BitVec 2) :
    (x0 ++ x1 ++ x2 ++ x3 ++ x4 ++ x5 ++ x6 ++ x7).extractLsb' 16 5 = x2 := by
  rw [extract_hi, extract_hi, extract_hi, extract_hi, extract_hi, extract_lo]
  · exact extract_all _
  all_goals decide

theorem field_6_5_5_5_2_5_2_2_at_21_5 (x0 : BitVec 6) (x1 : BitVec 5) (x2 : BitVec 5) (x3 : BitVec 5) (x4 : BitVec 2) (x5 : BitVec 5) (x6 : BitVec 2) (x7 : BitVec 2) :
    (x0 ++ x1 ++ x2 ++ x3 ++ x4 ++ x5 ++ x6 ++ x7).extractLsb' 21 5 = x1 := by
  rw [extract_hi, extract_hi, extract_hi, extract_hi, extract_hi, extract_hi, extract_lo]
  · exact extract_all _
  all_goals decide

theorem field_6_5_5_5_2_5_2_2_at_26_6 (x0 : BitVec 6) (x1 : BitVec 5) (x2 : BitVec 5) (x3 : BitVec 5) (x4 : BitVec 2) (x5 : BitVec 5) (x6 : BitVec 2) (x7 : BitVec 2) :
    (x0 ++ x1 ++ x2 ++ x3 ++ x4 ++ x5 ++ x6 ++ x7).extractLsb' 26 6 = x0 := by
  rw [extract_hi, extract_hi, extract_hi, extract_hi, extract_hi, extract_hi, extract_hi]
  · exact extract_all _
  all_goals decide

theorem field_6_5_5_5_2_7_2_at_0_2 (x0 : BitVec 6) (x1 : BitVec 5) (x2 : BitVec 5) (x3 : BitVec 5) (x4 : BitVec 2) (x5 : BitVec 7) (x6 : BitVec 2) :
    (x0 ++ x1 ++ x2 ++ x3 ++ x4 ++ x5 ++ x6).extractLsb' 0 2 = x6 := by
  rw [extract_lo]
  · exact extract_all _
  all_goals decide

theorem field_6_5_5_5_2_7_2_at_2_2 (x0 : BitVec 6) (x1 : BitVec 5) (x2 : BitVec 5) (x3 : BitVec 5) (x4 : BitVec 2) (x5 : BitVec 7) (x6 : BitVec 2) :
    (x0 ++ x1 ++ x2 ++ x3 ++ x4 ++ x5 ++ x6).extractLsb' 2 2 = x5.extractLsb' 0 2 := by
  rw [extract_hi, extract_lo]
  all_goals decide

theorem field_6_5_5_5_2_7_2_at_4_5 (x0 : BitVec 6) (x1 : BitVec 5) (x2 : BitVec 5) (x3 : BitVec 5) (x4 : BitVec 2) (x5 : BitVec 7) (x6 : BitVec 2) :
    (x0 ++ x1 ++ x2 ++ x3 ++ x4 ++ x5 ++ x6).extractLsb' 4 5 = x5.extractLsb' 2 5 := by
  rw [extract_hi, extract_lo]
  all_goals decide

theorem field_6_5_5_5_2_7_2_at_9_2 (x0 : BitVec 6) (x1 : BitVec 5) (x2 : BitVec 5) (x3 : BitVec 5) (x4 : BitVec 2) (x5 : BitVec 7) (x6 : BitVec 2) :
    (x0 ++ x1 ++ x2 ++ x3 ++ x4 ++ x5 ++ x6).extractLsb' 9 2 = x4 := by
  rw [extract_hi, extract_hi, extract_lo]
  · exact extract_all _
  all_goals decide

theorem field_6_5_5_5_2_7_2_at_11_5 (x0 : BitVec 6) (x1 : BitVec 5) (x2 : BitVec 5) (x3 : BitVec 5) (x4 : BitVec 2) (x5 : BitVec 7) (x6 : BitVec 2) :
    (x0 ++ x1 ++ x2 ++ x3 ++ x4 ++ x5 ++ x6).extractLsb' 11 5 = x3 := by
  rw [extract_hi, extract_hi, extract_hi, extract_lo]
  · exact extract_all _
  all_goals decide

theorem field_6_5_5_5_2_7_2_at_16_5 (x0 : BitVec 6) (x1 : BitVec 5) (x2 : BitVec 5) (x3 : BitVec 5) (x4 : BitVec 2) (x5 : BitVec 7) (x6 : BitVec 2) :
    (x0 ++ x1 ++ x2 ++ x3 ++ x4 ++ x5 ++ x6).extractLsb' 16 5 = x2 := by
  rw [extract_hi, extract_hi, extract_hi, extract_hi, extract_lo]
  · exact extract_all _
  all_goals decide

theorem field_6_5_5_5_2_7_2_at_21_5 (x0 : BitVec 6) (x1 : BitVec 5) (x2 : BitVec 5) (x3 : BitVec 5) (x4 : BitVec 2) (x5 : BitVec 7) (x6 : BitVec 2) :
    (x0 ++ x1 ++ x2 ++ x3 ++ x4 ++ x5 ++ x6).extractLsb' 21 5 = x1 := by
  rw [extract_hi, extract_hi, extract_hi, extract_hi, extract_hi, extract_lo]
  · exact extract_all _
  all_goals decide

theorem field_6_5_5_5_2_7_2_at_26_6 (x0 : BitVec 6) (x1 : BitVec 5) (x2 : BitVec 5) (x3 : BitVec 5) (x4 : BitVec 2) (x5 : BitVec 7) (x6 : BitVec 2) :
    (x0 ++ x1 ++ x2 ++ x3 ++ x4 ++ x5 ++ x6).extractLsb' 26 6 = x0 := by
  rw [extract_hi, extract_hi, extract_hi, extract_hi, extract_hi, extract_hi]
  · exact extract_all _
  all_goals decide

theorem field_6_5_5_5_2_9_at_0_6 (x0 : BitVec 6) (x1 : BitVec 5) (x2 : BitVec 5) (x3 : BitVec 5) (x4 : BitVec 2) (x5 : BitVec 9) :
    (x0 ++ x1 ++ x2 ++ x3 ++ x4 ++ x5).extractLsb' 0 6 = x5.extractLsb' 0 6 := by
  rw [extract_lo]
  all_goals decide

theorem field_6_5_5_5_2_9_at_6_3 (x0 : BitVec 6) (x1 : BitVec 5) (x2 : BitVec 5) (x3 : BitVec 5) (x4 : BitVec 2) (x5 : BitVec 9) :
    (x0 ++ x1 ++ x2 ++ x3 ++ x4 ++ x5).extractLsb' 6 3 = x5.extractLsb' 6 3 := by
  rw [extract_lo]
  all_goals decide

theorem field_6_5_5_5_2_9_at_9_2 (x0 : BitVec 6) (x1 : BitVec 5) (x2 : BitVec 5) (x3 : BitVec 5) (x4 : BitVec 2) (x5 : BitVec 9) :
    (x0 ++ x1 ++ x2 ++ x3 ++ x4 ++ x5).extractLsb' 9 2 = x4 := by
  rw [extract_hi, extract_lo]
  · exact extract_all _
  all_goals decide

theorem field_6_5_5_5_2_9_at_11_5 (x0 : BitVec 6) (x1 : BitVec 5) (x2 : BitVec 5) (x3 : BitVec 5) (x4 : BitVec 2) (x5 : BitVec 9) :
    (x0 ++ x1 ++ x2 ++ x3 ++ x4 ++ x5).extractLsb' 11 5 = x3 := by
  rw [extract_hi, extract_hi, extract_lo]
  · exact extract_all _
  all_goals decide

theorem field_6_5_5_5_2_9_at_16_5 (x0 : BitVec 6) (x1 : BitVec 5) (x2 : BitVec 5) (x3 : BitVec 5) (x4 : BitVec 2) (x5 : BitVec 9) :
    (x0 ++ x1 ++ x2 ++ x3 ++ x4 ++ x5).extractLsb' 16 5 = x2 := by
  rw [extract_hi, extract_hi, extract_hi, extract_lo]
  · exact extract_all _
  all_goals decide

theorem field_6_5_5_5_2_9_at_21_5 (x0 : BitVec 6) (x1 : BitVec 5) (x2 : BitVec 5) (x3 : BitVec 5) (x4 : BitVec 2) (x5 : BitVec 9) :
    (x0 ++ x1 ++ x2 ++ x3 ++ x4 ++ x5).extractLsb' 21 5 = x1 := by
  rw [extract_hi, extract_hi, extract_hi, extract_hi, extract_lo]
  · exact extract_all _
  all_goals decide

theorem field_6_5_5_5_2_9_at_26_6 (x0 : BitVec 6) (x1 : BitVec 5) (x2 : BitVec 5) (x3 : BitVec 5) (x4 : BitVec 2) (x5 : BitVec 9) :
    (x0 ++ x1 ++ x2 ++ x3 ++ x4 ++ x5).extractLsb' 26 6 = x0 := by
  rw [extract_hi, extract_hi, extract_hi, extract_hi, extract_hi]
  · exact extract_all _
  all_goals decide

theorem field_6_5_5_5_3_2_2_4_at_0_4 (x0 : BitVec 6) (x1 : BitVec 5) (x2 : BitVec 5) (x3 : BitVec 5) (x4 : BitVec 3) (x5 : BitVec 2) (x6 : BitVec 2) (x7 : BitVec 4) :
    (x0 ++ x1 ++ x2 ++ x3 ++ x4 ++ x5 ++ x6 ++ x7).extractLsb' 0 4 = x7 := by
  rw [extract_lo]
  · exact extract_all _
  all_goals decide

theorem field_6_5_5_5_3_2_2_4_at_4_2 (x0 : BitVec 6) (x1 : BitVec 5) (x2 : BitVec 5) (x3 : BitVec 5) (x4 : BitVec 3) (x5 : BitVec 2) (x6 : BitVec 2) (x7 : BitVec 4) :
    (x0 ++ x1 ++ x2 ++ x3 ++ x4 ++ x5 ++ x6 ++ x7).extractLsb' 4 2 = x6 := by
  rw [extract_hi, extract_lo]
  · exact extract_all _
  all_goals decide

theorem field_6_5_5_5_3_2_2_4_at_6_2 (x0 : BitVec 6) (x1 : BitVec 5) (x2 : BitVec 5) (x3 : BitVec 5) (x4 : BitVec 3) (x5 : BitVec 2) (x6 : BitVec 2) (x7 : BitVec 4) :
    (x0 ++ x1 ++ x2 ++ x3 ++ x4 ++ x5 ++ x6 ++ x7).extractLsb' 6 2 = x5 := by
  rw [extract_hi, extract_hi, extract_lo]
  · exact extract_all _
  all_goals decide

theorem field_6_5_5_5_3_2_2_4_at_8_3 (x0 : BitVec 6) (x1 : BitVec 5) (x2 : BitVec 5) (x3 : BitVec 5) (x4 : BitVec 3) (x5 : BitVec 2) (x6 : BitVec 2) (x7 : BitVec 4) :
    (x0 ++ x1 ++ x2 ++ x3 ++ x4 ++ x5 ++ x6 ++ x7).extractLsb' 8 3 = x4 := by
  rw [extract_hi, extract_hi, extract_hi, extract_lo]
  · exact extract_all _
  all_goals decide

theorem field_6_5_5_5_3_2_2_4_at_11_5 (x0 : BitVec 6) (x1 : BitVec 5) (x2 : BitVec 5) (x3 : BitVec 5) (x4 : BitVec 3) (x5 : BitVec 2) (x6 : BitVec 2) (x7 : BitVec 4) :
    (x0 ++ x1 ++ x2 ++ x3 ++ x4 ++ x5 ++ x6 ++ x7).extractLsb' 11 5 = x3 := by
  rw [extract_hi, extract_hi, extract_hi, extract_hi, extract_lo]
  · exact extract_all _
  all_goals decide

theorem field_6_5_5_5_3_2_2_4_at_16_5 (x0 : BitVec 6) (x1 : BitVec 5) (x2 : BitVec 5) (x3 : BitVec 5) (x4 : BitVec 3) (x5 : BitVec 2) (x6 : BitVec 2) (x7 : BitVec 4) :
    (x0 ++ x1 ++ x2 ++ x3 ++ x4 ++ x5 ++ x6 ++ x7).extractLsb' 16 5 = x2 := by
  rw [extract_hi, extract_hi, extract_hi, extract_hi, extract_hi, extract_lo]
  · exact extract_all _
  all_goals decide

theorem field_6_5_5_5_3_2_2_4_at_21_5 (x0 : BitVec 6) (x1 : BitVec 5) (x2 : BitVec 5) (x3 : BitVec 5) (x4 : BitVec 3) (x5 : BitVec 2) (x6 : BitVec 2) (x7 : BitVec 4) :
    (x0 ++ x1 ++ x2 ++ x3 ++ x4 ++ x5 ++ x6 ++ x7).extractLsb' 21 5 = x1 := by
  rw [extract_hi, extract_hi, extract_hi, extract_hi, extract_hi, extract_hi, extract_lo]
  · exact extract_all _
  all_goals decide

theorem field_6_5_5_5_3_2_2_4_at_26_6 (x0 : BitVec 6) (x1 : BitVec 5) (x2 : BitVec 5) (x3 : BitVec 5) (x4 : BitVec 3) (x5 : BitVec 2) (x6 : BitVec 2) (x7 : BitVec 4) :
    (x0 ++ x1 ++ x2 ++ x3 ++ x4 ++ x5 ++ x6 ++ x7).extractLsb' 26 6 = x0 := by
  rw [extract_hi, extract_hi, extract_hi, extract_hi, extract_hi, extract_hi, extract_hi]
  · exact extract_all _
  all_goals decide

theorem field_6_5_5_5_5_2_4_at_0_4 (x0 : BitVec 6) (x1 : BitVec 5) (x2 : BitVec 5) (x3 : BitVec 5) (x4 : BitVec 5) (x5 : BitVec 2) (x6 : BitVec 4) :
    (x0 ++ x1 ++ x2 ++ x3 ++ x4 ++ x5 ++ x6).extractLsb' 0 4 = x6 := by
  rw [extract_lo]
  · exact extract_all _
  all_goals decide

theorem field_6_5_5_5_5_2_4_at_4_2 (x0 : BitVec 6) (x1 : BitVec 5) (x2 : BitVec 5) (x3 : BitVec 5) (x4 : BitVec 5) (x5 : BitVec 2) (x6 : BitVec 4) :
    (x0 ++ x1 ++ x2 ++ x3 ++ x4 ++ x5 ++ x6).extractLsb' 4 2 = x5 := by
  rw [extract_hi, extract_lo]
  · exact extract_all _
  all_goals decide

theorem field_6_5_5_5_5_2_4_at_6_5 (x0 : BitVec 6) (x1 : BitVec 5) (x2 : BitVec 5) (x3 : BitVec 5) (x4 : BitVec 5) (x5 : BitVec 2) (x6 : BitVec 4) :
    (x0 ++ x1 ++ x2 ++ x3 ++ x4 ++ x5 ++ x6).extractLsb' 6 5 = x4 := by
  rw [extract_hi, extract_hi, extract_lo]
  · exact extract_all _
  all_goals decide

theorem field_6_5_5_5_5_2_4_at_11_5 (x0 : BitVec 6) (x1 : BitVec 5) (x2 : BitVec 5) (x3 : BitVec 5) (x4 : BitVec 5) (x5 : BitVec 2) (x6 : BitVec 4) :
    (x0 ++ x1 ++ x2 ++ x3 ++ x4 ++ x5 ++ x6).extractLsb' 11 5 = x3 := by
  rw [extract_hi, extract_hi, extract_hi, extract_lo]
  · exact extract_all _
  all_goals decide

theorem field_6_5_5_5_5_2_4_at_16_5 (x0 : BitVec 6) (x1 : BitVec 5) (x2 : BitVec 5) (x3 : BitVec 5) (x4 : BitVec 5) (x5 : BitVec 2) (x6 : BitVec 4) :
    (x0 ++ x1 ++ x2 ++ x3 ++ x4 ++ x5 ++ x6).extractLsb' 16 5 = x2 := by
  rw [extract_hi, extract_hi, extract_hi, extract_hi, extract_lo]
  · exact extract_all _
  all_goals decide

theorem field_6_5_5_5_5_2_4_at_21_5 (x0 : BitVec 6) (x1 : BitVec 5) (x2 : BitVec 5) (x3 : BitVec 5) (x4 : BitVec 5) (x5 : BitVec 2) (x6 : BitVec 4) :
    (x0 ++ x1 ++ x2 ++ x3 ++ x4 ++ x5 ++ x6).extractLsb' 21 5 = x1 := by
  rw [extract_hi, extract_hi, extract_hi, extract_hi, extract_hi, extract_lo]
  · exact extract_all _
  all_goals decide

theorem field_6_5_5_5_5_2_4_at_26_6 (x0 : BitVec 6) (x1 : BitVec 5) (x2 : BitVec 5) (x3 : BitVec 5) (x4 : BitVec 5) (x5 : BitVec 2) (x6 : BitVec 4) :
    (x0 ++ x1 ++ x2 ++ x3 ++ x4 ++ x5 ++ x6).extractLsb' 26 6 = x0 := by
  rw [extract_hi, extract_hi, extract_hi, extract_hi, extract_hi, extract_hi]
  · exact extract_all _
  all_goals decide

theorem field_6_5_5_5_7_2_2_at_0_2 (x0 : BitVec 6) (x1 : BitVec 5) (x2 : BitVec 5) (x3 : BitVec 5) (x4 : BitVec 7) (x5 : BitVec 2) (x6 : BitVec 2) :
    (x0 ++ x1 ++ x2 ++ x3 ++ x4 ++ x5 ++ x6).extractLsb' 0 2 = x6 := by
  rw [extract_lo]
  · exact extract_all _
  all_goals decide

theorem field_6_5_5_5_7_2_2_at_2_2 (x0 : BitVec 6) (x1 : BitVec 5) (x2 : BitVec 5) (x3 : BitVec 5) (x4 : BitVec 7) (x5 : BitVec 2) (x6 : BitVec 2) :
    (x0 ++ x1 ++ x2 ++ x3 ++ x4 ++ x5 ++ x6).extractLsb' 2 2 = x5 := by
  rw [extract_hi, extract_lo]
  · exact extract_all _
  all_goals decide

theorem field_6_5_5_5_7_2_2_at_4_5 (x0 : BitVec 6) (x1 : BitVec 5) (x2 : BitVec 5) (x3 : BitVec 5) (x4 : BitVec 7) (x5 : BitVec 2) (x6 : BitVec 2) :
    (x0 ++ x1 ++ x2 ++ x3 ++ x4 ++ x5 ++ x6).extractLsb' 4 5 = x4.extractLsb' 0 5 := by
  rw [extract_hi, extract_hi, extract_lo]
  all_goals decide

theorem field_6_5_5_5_7_2_2_at_9_2 (x0 : BitVec 6) (x1 : BitVec 5) (x2 : BitVec 5) (x3 : BitVec 5) (x4 : BitVec 7) (x5 : BitVec 2) (x6 : BitVec 2) :
    (x0 ++ x1 ++ x2 ++ x3 ++ x4 ++ x5 ++ x6).extractLsb' 9 2 = x4.extractLsb' 5 2 := by
  rw [extract_hi, extract_hi, extract_lo]
  all_goals decide

theorem field_6_5_5_5_7_2_2_at_11_5 (x0 : BitVec 6) (x1 : BitVec 5) (x2 : BitVec 5) (x3 : BitVec 5) (x4 : BitVec 7) (x5 : BitVec 2) (x6 : BitVec 2) :
    (x0 ++ x1 ++ x2 ++ x3 ++ x4 ++ x5 ++ x6).extractLsb' 11 5 = x3 := by
  rw [extract_hi, extract_hi, extract_hi, extract_lo]
  · exact extract_all _
  all_goals decide

theorem field_6_5_5_5_7_2_2_at_16_5 (x0 : BitVec 6) (x1 : BitVec 5) (x2 : BitVec 5) (x3 : BitVec 5) (x4 : BitVec 7) (x5 : BitVec 2) (x6 : BitVec 2) :
    (x0 ++ x1 ++ x2 ++ x3 ++ x4 ++ x5 ++ x6).extractLsb' 16 5 = x2 := by
  rw [extract_hi, extract_hi, extract_hi, extract_hi, extract_lo]
  · exact extract_all _
  all_goals decide

theorem field_6_5_5_5_7_2_2_at_21_5 (x0 : BitVec 6) (x1 : BitVec 5) (x2 : BitVec 5) (x3 : BitVec 5) (x4 : BitVec 7) (x5 : BitVec 2) (x6 : BitVec 2) :
    (x0 ++ x1 ++ x2 ++ x3 ++ x4 ++ x5 ++ x6).extractLsb' 21 5 = x1 := by
  rw [extract_hi, extract_hi, extract_hi, extract_hi, extract_hi, extract_lo]
  · exact extract_all _
  all_goals decide

theorem field_6_5_5_5_7_2_2_at_26_6 (x0 : BitVec 6) (x1 : BitVec 5) (x2 : BitVec 5) (x3 : BitVec 5) (x4 : BitVec 7) (x5 : BitVec 2) (x6 : BitVec 2) :
    (x0 ++ x1 ++ x2 ++ x3 ++ x4 ++ x5 ++ x6).extractLsb' 26 6 = x0 := by
  rw [extract_hi, extract_hi, extract_hi, extract_hi, extract_hi, extract_hi]
  · exact extract_all _
  all_goals decide

theorem field_6_5_5_5_9_2_at_0_2 (x0 : BitVec 6) (x1 : BitVec 5) (x2 : BitVec 5) (x3 : BitVec 5) (x4 : BitVec 9) (x5 : BitVec 2) :
    (x0 ++ x1 ++ x2 ++ x3 ++ x4 ++ x5).extractLsb' 0 2 = x5 := by
  rw [extract_lo]
  · exact extract_all _
  all_goals decide

theorem field_6_5_5_5_9_2_at_2_2 (x0 : BitVec 6) (x1 : BitVec 5) (x2 : BitVec 5) (x3 : BitVec 5) (x4 : BitVec 9) (x5 : BitVec 2) :
    (x0 ++ x1 ++ x2 ++ x3 ++ x4 ++ x5).extractLsb' 2 2 = x4.extractLsb' 0 2 := by
  rw [extract_hi, extract_lo]
  all_goals decide

theorem field_6_5_5_5_9_2_at_4_5 (x0 : BitVec 6) (x1 : BitVec 5) (x2 : BitVec 5) (x3 : BitVec 5) (x4 : BitVec 9) (x5 : BitVec 2) :
    (x0 ++ x1 ++ x2 ++ x3 ++ x4 ++ x5).extractLsb' 4 5 = x4.extractLsb' 2 5 := by
  rw [extract_hi, extract_lo]
  all_goals decide

theorem field_6_5_5_5_9_2_at_9_2 (x0 : BitVec 6) (x1 : BitVec 5) (x2 : BitVec 5) (x3 : BitVec 5) (x4 : BitVec 9) (x5 : BitVec 2) :
    (x0 ++ x1 ++ x2 ++ x3 ++ x4 ++ x5).extractLsb' 9 2 = x4.extractLsb' 7 2 := by
  rw [extract_hi, extract_lo]
  all_goals decide

theorem field_6_5_5_5_9_2_at_11_5 (x0 : BitVec 6) (x1 : BitVec 5) (x2 : BitVec 5) (x3 : BitVec 5) (x4 : BitVec 9) (x5 : BitVec 2) :
    (x0 ++ x1 ++ x2 ++ x3 ++ x4 ++ x5).extractLsb' 11 5 = x3 := by
  rw [extract_hi, extract_hi, extract_lo]
  · exact extract_all _
  all_goals decide

theorem field_6_5_5_5_9_2_at_16_5 (x0 : BitVec 6) (x1 : BitVec 5) (x2 : BitVec 5) (x3 : BitVec 5) (x4 : BitVec 9) (x5 : BitVec 2) :
    (x0 ++ x1 ++ x2 ++ x3 ++ x4 ++ x5).extractLsb' 16 5 = x2 := by
  rw [extract_hi, extract_hi, extract_hi, extract_lo]
  · exact extract_all _
  all_goals decide

theorem field_6_5_5_5_9_2_at_21_5 (x0 : BitVec 6) (x1 : BitVec 5) (x2 : BitVec 5) (x3 : BitVec 5) (x4 : BitVec 9) (x5 : BitVec 2) :
    (x0 ++ x1 ++ x2 ++ x3 ++ x4 ++ x5).extractLsb' 21 5 = x1 := by
  rw [extract_hi, extract_hi, extract_hi, extract_hi, extract_lo]
  · exact extract_all _
  all_goals decide

theorem field_6_5_5_5_9_2_at_26_6 (x0 : BitVec 6) (x1 : BitVec 5) (x2 : BitVec 5) (x3 : BitVec 5) (x4 : BitVec 9) (x5 : BitVec 2) :
    (x0 ++ x1 ++ x2 ++ x3 ++ x4 ++ x5).extractLsb' 26 6 = x0 := by
  rw [extract_hi, extract_hi, extract_hi, extract_hi, extract_hi]
  · exact extract_all _
  all_goals decide

theorem field_6_5_5_5_11_at_0_6 (x0 : BitVec 6) (x1 : BitVec 5) (x2 : BitVec 5) (x3 : BitVec 5) (x4 : BitVec 11) :
    (x0 ++ x1 ++ x2 ++ x3 ++ x4).extractLsb' 0 6 = x4.extractLsb' 0 6 := by
  rw [extract_lo]
  all_goals decide

theorem field_6_5_5_5_11_at_6_5 (x0 : BitVec 6) (x1 : BitVec 5) (x2 : BitVec 5) (x3 : BitVec 5) (x4 : BitVec 11) :
    (x0 ++ x1 ++ x2 ++ x3 ++ x4).extractLsb' 6 5 = x4.extractLsb' 6 5 := by
  rw [extract_lo]
  all_goals decide

theorem field_6_5_5_5_11_at_11_5 (x0 : BitVec 6) (x1 : BitVec 5) (x2 : BitVec 5) (x3 : BitVec 5) (x4 : BitVec 11) :
    (x0 ++ x1 ++ x2 ++ x3 ++ x4).extractLsb' 11 5 = x3 := by
  rw [extract_hi, extract_lo]
  · exact extract_all _
  all_goals decide

theorem field_6_5_5_5_11_at_16_5 (x0 : BitVec 6) (x1 : BitVec 5) (x2 : BitVec 5) (x3 : BitVec 5) (x4 : BitVec 11) :
    (x0 ++ x1 ++ x2 ++ x3 ++ x4).extractLsb' 16 5 = x2 := by
  rw [extract_hi, extract_hi, extract_lo]
  · exact extract_all _
  all_goals decide

theorem field_6_5_5_5_11_at_21_5 (x0 : BitVec 6) (x1 : BitVec 5) (x2 : BitVec 5) (x3 : BitVec 5) (x4 : BitVec 11) :
    (x0 ++ x1 ++ x2 ++ x3 ++ x4).extractLsb' 21 5 = x1 := by
  rw [extract_hi, extract_hi, extract_hi, extract_lo]
  · exact extract_all _
  all_goals decide

theorem field_6_5_5_5_11_at_26_6 (x0 : BitVec 6) (x1 : BitVec 5) (x2 : BitVec 5) (x3 : BitVec 5) (x4 : BitVec 11) :
    (x0 ++ x1 ++ x2 ++ x3 ++ x4).extractLsb' 26 6 = x0 := by
  rw [extract_hi, extract_hi, extract_hi, extract_hi]
  · exact extract_all _
  all_goals decide

theorem field_6_5_5_10_2_4_at_0_4 (x0 : BitVec 6) (x1 : BitVec 5) (x2 : BitVec 5) (x3 : BitVec 10) (x4 : BitVec 2) (x5 : BitVec 4) :
    (x0 ++ x1 ++ x2 ++ x3 ++ x4 ++ x5).extractLsb' 0 4 = x5 := by
  rw [extract_lo]
  · exact extract_all _
  all_goals decide

theorem field_6_5_5_10_2_4_at_4_2 (x0 : BitVec 6) (x1 : BitVec 5) (x2 : BitVec 5) (x3 : BitVec 10) (x4 : BitVec 2) (x5 : BitVec 4) :
    (x0 ++ x1 ++ x2 ++ x3 ++ x4 ++ x5).extractLsb' 4 2 = x4 := by
  rw [extract_hi, extract_lo]
  · exact extract_all _
  all_goals decide

theorem field_6_5_5_10_2_4_at_6_10 (x0 : BitVec 6) (x1 : BitVec 5) (x2 : BitVec 5) (x3 : BitVec 10) (x4 : BitVec 2) (x5 : BitVec 4) :
    (x0 ++ x1 ++ x2 ++ x3 ++ x4 ++ x5).extractLsb' 6 10 = x3 := by
  rw [extract_hi, extract_hi, extract_lo]
  · exact extract_all _
  all_goals decide

theorem field_6_5_5_10_2_4_at_16_5 (x0 : BitVec 6) (x1 : BitVec 5) (x2 : BitVec 5) (x3 : BitVec 10) (x4 : BitVec 2) (x5 : BitVec 4) :
    (x0 ++ x1 ++ x2 ++ x3 ++ x4 ++ x5).extractLsb' 16 5 = x2 := by
  rw [extract_hi, extract_hi, extract_hi, extract_lo]
  · exact extract_all _
  all_goals decide

theorem field_6_5_5_10_2_4_at_21_5 (x0 : BitVec 6) (x1 : BitVec 5) (x2 : BitVec 5) (x3 : BitVec 10) (x4 : BitVec 2) (x5 : BitVec 4) :
    (x0 ++ x1 ++ x2 ++ x3 ++ x4 ++ x5).extractLsb' 21 5 = x1 := by
  rw [extract_hi, extract_hi, extract_hi, extract_hi, extract_lo]
  · exact extract_all _
  all_goals decide

theorem field_6_5_5_10_2_4_at_26_6 (x0 : BitVec 6) (x1 : BitVec 5) (x2 : BitVec 5) (x3 : BitVec 10) (x4 : BitVec 2) (x5 : BitVec 4) :
    (x0 ++ x1 ++ x2 ++ x3 ++ x4 ++ x5).extractLsb' 26 6 = x0 := by
  rw [extract_hi, extract_hi, extract_hi, extract_hi, extract_hi]
  · exact extract_all _
  all_goals decide

theorem field_6_5_5_10_6_at_0_6 (x0 : BitVec 6) (x1 : BitVec 5) (x2 : BitVec 5) (x3 : BitVec 10) (x4 : BitVec 6) :
    (x0 ++ x1 ++ x2 ++ x3 ++ x4).extractLsb' 0 6 = x4 := by
  rw [extract_lo]
  · exact extract_all _
  all_goals decide

theorem field_6_5_5_10_6_at_6_8 (x0 : BitVec 6) (x1 : BitVec 5) (x2 : BitVec 5) (x3 : BitVec 10) (x4 : BitVec 6) :
    (x0 ++ x1 ++ x2 ++ x3 ++ x4).extractLsb' 6 8 = x3.extractLsb' 0 8 := by
  rw [extract_hi, extract_lo]
  all_goals decide

theorem field_6_5_5_10_6_at_6_10 (x0 : BitVec 6) (x1 : BitVec 5) (x2 : BitVec 5) (x3 : BitVec 10) (x4 : BitVec 6) :
    (x0 ++ x1 ++ x2 ++ x3 ++ x4).extractLsb' 6 10 = x3 := by
  rw [extract_hi, extract_lo]
  · exact extract_all _
  all_goals decide

theorem field_6_5_5_10_6_at_14_2 (x0 : BitVec 6) (x1 : BitVec 5) (x2 : BitVec 5) (x3 : BitVec 10) (x4 : BitVec 6) :
    (x0 ++ x1 ++ x2 ++ x3 ++ x4).extractLsb' 14 2 = x3.extractLsb' 8 2 := by
  rw [extract_hi, extract_lo]
  all_goals decide

theorem field_6_5_5_10_6_at_16_5 (x0 : BitVec 6) (x1 : BitVec 5) (x2 : BitVec 5) (x3 : BitVec 10) (x4 : BitVec 6) :
    (x0 ++ x1 ++ x2 ++ x3 ++ x4).extractLsb' 16 5 = x2 := by
  rw [extract_hi, extract_hi, extract_lo]
  · exact extract_all _
  all_goals decide

theorem field_6_5_5_10_6_at_21_5 (x0 : BitVec 6) (x1 : BitVec 5) (x2 : BitVec 5) (x3 : BitVec 10) (x4 : BitVec 6) :
    (x0 ++ x1 ++ x2 ++ x3 ++ x4).extractLsb' 21 5 = x1 := by
  rw [extract_hi, extract_hi, extract_hi, extract_lo]
  · exact extract_all _
  all_goals decide

theorem field_6_5_5_10_6_at_26_6 (x0 : BitVec 6) (x1 : BitVec 5) (x2 : BitVec 5) (x3 : BitVec 10) (x4 : BitVec 6) :
    (x0 ++ x1 ++ x2 ++ x3 ++ x4).extractLsb' 26 6 = x0 := by
  rw [extract_hi, extract_hi, extract_hi, extract_hi]
  · exact extract_all _
  all_goals decide

theorem field_6_5_5_12_2_2_at_0_2 (x0 : BitVec 6) (x1 : BitVec 5) (x2 : BitVec 5) (x3 : BitVec 12) (x4 : BitVec 2) (x5 : BitVec 2) :
    (x0 ++ x1 ++ x2 ++ x3 ++ x4 ++ x5).extractLsb' 0 2 = x5 := by
  rw [extract_lo]
  · exact extract_all _
  all_goals decide

theorem field_6_5_5_12_2_2_at_2_2 (x0 : BitVec 6) (x1 : BitVec 5) (x2 : BitVec 5) (x3 : BitVec 12) (x4 : BitVec 2) (x5 : BitVec 2) :
    (x0 ++ x1 ++ x2 ++ x3 ++ x4 ++ x5).extractLsb' 2 2 = x4 := by
  rw [extract_hi, extract_lo]
  · exact extract_all _
  all_goals decide

theorem field_6_5_5_12_2_2_at_4_5 (x0 : BitVec 6) (x1 : BitVec 5) (x2 : BitVec 5) (x3 : BitVec 12) (x4 : BitVec 2) (x5 : BitVec 2) :
    (x0 ++ x1 ++ x2 ++ x3 ++ x4 ++ x5).extractLsb' 4 5 = x3.extractLsb' 0 5 := by
  rw [extract_hi, extract_hi, extract_lo]
  all_goals decide

theorem field_6_5_5_12_2_2_at_9_7 (x0 : BitVec 6) (x1 : BitVec 5) (x2 : BitVec 5) (x3 : BitVec 12) (x4 : BitVec 2) (x5 : BitVec 2) :
    (x0 ++ x1 ++ x2 ++ x3 ++ x4 ++ x5).extractLsb' 9 7 = x3.extractLsb' 5 7 := by
  rw [extract_hi, extract_hi, extract_lo]
  all_goals decide

theorem field_6_5_5_12_2_2_at_16_5 (x0 : BitVec 6) (x1 : BitVec 5) (x2 : BitVec 5) (x3 : BitVec 12) (x4 : BitVec 2) (x5 : BitVec 2) :
    (x0 ++ x1 ++ x2 ++ x3 ++ x4 ++ x5).extractLsb' 16 5 = x2 := by
  rw [extract_hi, extract_hi, extract_hi, extract_lo]
  · exact extract_all _
  all_goals decide

theorem field_6_5_5_12_2_2_at_21_5 (x0 : BitVec 6) (x1 : BitVec 5) (x2 : BitVec 5) (x3 : BitVec 12) (x4 : BitVec 2) (x5 : BitVec 2) :
    (x0 ++ x1 ++ x2 ++ x3 ++ x4 ++ x5).extractLsb' 21 5 = x1 := by
  rw [extract_hi, extract_hi, extract_hi, extract_hi, extract_lo]
  · exact extract_all _
  all_goals decide

theorem field_6_5_5_12_2_2_at_26_6 (x0 : BitVec 6) (x1 : BitVec 5) (x2 : BitVec 5) (x3 : BitVec 12) (x4 : BitVec 2) (x5 : BitVec 2) :
    (x0 ++ x1 ++ x2 ++ x3 ++ x4 ++ x5).extractLsb' 26 6 = x0 := by
  rw [extract_hi, extract_hi, extract_hi, extract_hi, extract_hi]
  · exact extract_all _
  all_goals decide

theorem field_6_5_5_14_2_at_0_2 (x0 : BitVec 6) (x1 : BitVec 5) (x2 : BitVec 5) (x3 : BitVec 14) (x4 : BitVec 2) :
    (x0 ++ x1 ++ x2 ++ x3 ++ x4).extractLsb' 0 2 = x4 := by
  rw [extract_lo]
  · exact extract_all _
  all_goals decide

theorem field_6_5_5_14_2_at_2_4 (x0 : BitVec 6) (x1 : BitVec 5) (x2 : BitVec 5) (x3 : BitVec 14) (x4 : BitVec 2) :
    (x0 ++ x1 ++ x2 ++ x3 ++ x4).extractLsb' 2 4 = x3.extractLsb' 0 4 := by
  rw [extract_hi, extract_lo]
  all_goals decide

theorem field_6_5_5_14_2_at_6_5 (x0 : BitVec 6) (x1 : BitVec 5) (x2 : BitVec 5) (x3 : BitVec 14) (x4 : BitVec 2) :
    (x0 ++ x1 ++ x2 ++ x3 ++ x4).extractLsb' 6 5 = x3.extractLsb' 4 5 := by
  rw [extract_hi, extract_lo]
  all_goals decide

theorem field_6_5_5_14_2_at_11_5 (x0 : BitVec 6) (x1 : BitVec 5) (x2 : BitVec 5) (x3 : BitVec 14) (x4 : BitVec 2) :
    (x0 ++ x1 ++ x2 ++ x3 ++ x4).extractLsb' 11 5 = x3.extractLsb' 9 5 := by
  rw [extract_hi, extract_lo]
  all_goals decide

theorem field_6_5_5_14_2_at_16_5 (x0 : BitVec 6) (x1 : BitVec 5) (x2 : BitVec 5) (x3 : BitVec 14) (x4 : BitVec 2) :
    (x0 ++ x1 ++ x2 ++ x3 ++ x4).extractLsb' 16 5 = x2 := by
  rw [extract_hi, extract_hi, extract_lo]
  · exact extract_all _
  all_goals decide

theorem field_6_5_5_14_2_at_21_5 (x0 : BitVec 6) (x1 : BitVec 5) (x2 : BitVec 5) (x3 : BitVec 14) (x4 : BitVec 2) :
    (x0 ++ x1 ++ x2 ++ x3 ++ x4).extractLsb' 21 5 = x1 := by
  rw [extract_hi, extract_hi, extract_hi, extract_lo]
  · exact extract_all _
  all_goals decide

theorem field_6_5_5_14_2_at_26_6 (x0 : BitVec 6) (x1 : BitVec 5) (x2 : BitVec 5) (x3 : BitVec 14) (x4 : BitVec 2) :
    (x0 ++ x1 ++ x2 ++ x3 ++ x4).extractLsb' 26 6 = x0 := by
  rw [extract_hi, extract_hi, extract_hi, extract_hi]
  · exact extract_all _
  all_goals decide

theorem field_6_5_5_16_at_0_6 (x0 : BitVec 6) (x1 : BitVec 5) (x2 : BitVec 5) (x3 : BitVec 16) :
    (x0 ++ x1 ++ x2 ++ x3).extractLsb' 0 6 = x3.extractLsb' 0 6 := by
  rw [extract_lo]
  all_goals decide

theorem field_6_5_5_16_at_0_16 (x0 : BitVec 6) (x1 : BitVec 5) (x2 : BitVec 5) (x3 : BitVec 16) :
    (x0 ++ x1 ++ x2 ++ x3).extractLsb' 0 16 = x3 := by
  rw [extract_lo]
  · exact extract_all _
  all_goals decide

theorem field_6_5_5_16_at_6_10 (x0 : BitVec 6) (x1 : BitVec 5) (x2 : BitVec 5) (x3 : BitVec 16) :
    (x0 ++ x1 ++ x2 ++ x3).extractLsb' 6 10 = x3.extractLsb' 6 10 := by
  rw [extract_lo]
  all_goals decide

theorem field_6_5_5_16_at_16_5 (x0 : BitVec 6) (x1 : BitVec 5) (x2 : BitVec 5) (x3 : BitVec 16) :
    (x0 ++ x1 ++ x2 ++ x3).extractLsb' 16 5 = x2 := by
  rw [extract_hi, extract_lo]
  · exact extract_all _
  all_goals decide

theorem field_6_5_5_16_at_21_5 (x0 : BitVec 6) (x1 : BitVec 5) (x2 : BitVec 5) (x3 : BitVec 16) :
    (x0 ++ x1 ++ x2 ++ x3).extractLsb' 21 5 = x1 := by
  rw [extract_hi, extract_hi, extract_lo]
  · exact extract_all _
  all_goals decide

theorem field_6_5_5_16_at_26_6 (x0 : BitVec 6) (x1 : BitVec 5) (x2 : BitVec 5) (x3 : BitVec 16) :
    (x0 ++ x1 ++ x2 ++ x3).extractLsb' 26 6 = x0 := by
  rw [extract_hi, extract_hi, extract_hi]
  · exact extract_all _
  all_goals decide

theorem field_6_5_7_3_9_2_at_0_2 (x0 : BitVec 6) (x1 : BitVec 5) (x2 : BitVec 7) (x3 : BitVec 3) (x4 : BitVec 9) (x5 : BitVec 2) :
    (x0 ++ x1 ++ x2 ++ x3 ++ x4 ++ x5).extractLsb' 0 2 = x5 := by
  rw [extract_lo]
  · exact extract_all _
  all_goals decide

theorem field_6_5_7_3_9_2_at_2_4 (x0 : BitVec 6) (x1 : BitVec 5) (x2 : BitVec 7) (x3 : BitVec 3) (x4 : BitVec 9) (x5 : BitVec 2) :
    (x0 ++ x1 ++ x2 ++ x3 ++ x4 ++ x5).extractLsb' 2 4 = x4.extractLsb' 0 4 := by
  rw [extract_hi, extract_lo]
  all_goals decide

theorem field_6_5_7_3_9_2_at_6_5 (x0 : BitVec 6) (x1 : BitVec 5) (x2 : BitVec 7) (x3 : BitVec 3) (x4 : BitVec 9) (x5 : BitVec 2) :
    (x0 ++ x1 ++ x2 ++ x3 ++ x4 ++ x5).extractLsb' 6 5 = x4.extractLsb' 4 5 := by
  rw [extract_hi, extract_lo]
  all_goals decide

theorem field_6_5_7_3_9_2_at_11_3 (x0 : BitVec 6) (x1 : BitVec 5) (x2 : BitVec 7) (x3 : BitVec 3) (x4 : BitVec 9) (x5 : BitVec 2) :
    (x0 ++ x1 ++ x2 ++ x3 ++ x4 ++ x5).extractLsb' 11 3 = x3 := by
  rw [extract_hi, extract_hi, extract_lo]
  · exact extract_all _
  all_goals decide

theorem field_6_5_7_3_9_2_at_14_7 (x0 : BitVec 6) (x1 : BitVec 5) (x2 : BitVec 7) (x3 : BitVec 3) (x4 : BitVec 9) (x5 : BitVec 2) :
    (x0 ++ x1 ++ x2 ++ x3 ++ x4 ++ x5).extractLsb' 14 7 = x2 := by
  rw [extract_hi, extract_hi, extract_hi, extract_lo]
  · exact extract_all _
  all_goals decide

theorem field_6_5_7_3_9_2_at_21_5 (x0 : BitVec 6) (x1 : BitVec 5) (x2 : BitVec 7) (x3 : BitVec 3) (x4 : BitVec 9) (x5 : BitVec 2) :
    (x0 ++ x1 ++ x2 ++ x3 ++ x4 ++ x5).extractLsb' 21 5 = x1 := by
  rw [extract_hi, extract_hi, extract_hi, extract_hi, extract_lo]
  · exact extract_all _
  all_goals decide

theorem field_6_5_7_3_9_2_at_26_6 (x0 : BitVec 6) (x1 : BitVec 5) (x2 : BitVec 7) (x3 : BitVec 3) (x4 : BitVec 9) (x5 : BitVec 2) :
    (x0 ++ x1 ++ x2 ++ x3 ++ x4 ++ x5).extractLsb' 26 6 = x0 := by
  rw [extract_hi, extract_hi, extract_hi, extract_hi, extract_hi]
  · exact extract_all _
  all_goals decide

theorem field_6_5_10_2_5_2_2_at_0_2 (x0 : BitVec 6) (x1 : BitVec 5) (x2 : BitVec 10) (x3 : BitVec 2) (x4 : BitVec 5) (x5 : BitVec 2) (x6 : BitVec 2) :
    (x0 ++ x1 ++ x2 ++ x3 ++ x4 ++ x5 ++ x6).extractLsb' 0 2 = x6 := by
  rw [extract_lo]
  · exact extract_all _
  all_goals decide

theorem field_6_5_10_2_5_2_2_at_2_2 (x0 : BitVec 6) (x1 : BitVec 5) (x2 : BitVec 10) (x3 : BitVec 2) (x4 : BitVec 5) (x5 : BitVec 2) (x6 : BitVec 2) :
    (x0 ++ x1 ++ x2 ++ x3 ++ x4 ++ x5 ++ x6).extractLsb' 2 2 = x5 := by
  rw [extract_hi, extract_lo]
  · exact extract_all _
  all_goals decide

theorem field_6_5_10_2_5_2_2_at_4_5 (x0 : BitVec 6) (x1 : BitVec 5) (x2 : BitVec 10) (x3 : BitVec 2) (x4 : BitVec 5) (x5 : BitVec 2) (x6 : BitVec 2) :
    (x0 ++ x1 ++ x2 ++ x3 ++ x4 ++ x5 ++ x6).extractLsb' 4 5 = x4 := by
  rw [extract_hi, extract_hi, extract_lo]
  · exact extract_all _
  all_goals decide

theorem field_6_5_10_2_5_2_2_at_9_2 (x0 : BitVec 6) (x1 : BitVec 5) (x2 : BitVec 10) (x3 : BitVec 2) (x4 : BitVec 5) (x5 : BitVec 2) (x6 : BitVec 2) :
    (x0 ++ x1 ++ x2 ++ x3 ++ x4 ++ x5 ++ x6).extractLsb' 9 2 = x3 := by
  rw [extract_hi, extract_hi, extract_hi, extract_lo]
  · exact extract_all _
  all_goals decide

theorem field_6_5_10_2_5_2_2_at_11_10 (x0 : BitVec 6) (x1 : BitVec 5) (x2 : BitVec 10) (x3 : BitVec 2) (x4 : BitVec 5) (x5 : BitVec 2) (x6 : BitVec 2) :
    (x0 ++ x1 ++ x2 ++ x3 ++ x4 ++ x5 ++ x6).extractLsb' 11 10 = x2 := by
  rw [extract_hi, extract_hi, extract_hi, extract_hi, extract_lo]
  · exact extract_all _
  all_goals decide

theorem field_6_5_10_2_5_2_2_at_21_5 (x0 : BitVec 6) (x1 : BitVec 5) (x2 : BitVec 10) (x3 : BitVec 2) (x4 : BitVec 5) (x5 : BitVec 2) (x6 : BitVec 2) :
    (x0 ++ x1 ++ x2 ++ x3 ++ x4 ++ x5 ++ x6).extractLsb' 21 5 = x1 := by
  rw [extract_hi, extract_hi, extract_hi, extract_hi, extract_hi, extract_lo]
  · exact extract_all _
  all_goals decide

theorem field_6_5_10_2_5_2_2_at_26_6 (x0 : BitVec 6) (x1 : BitVec 5) (x2 : BitVec 10) (x3 : BitVec 2) (x4 : BitVec 5) (x5 : BitVec 2) (x6 : BitVec 2) :
    (x0 ++ x1 ++ x2 ++ x3 ++ x4 ++ x5 ++ x6).extractLsb' 26 6 = x0 := by
  rw [extract_hi, extract_hi, extract_hi, extract_hi, extract_hi, extract_hi]
  · exact extract_all _
  all_goals decide

theorem field_6_5_19_2_at_0_2 (x0 : BitVec 6) (x1 : BitVec 5) (x2 : BitVec 19) (x3 : BitVec 2) :
    (x0 ++ x1 ++ x2 ++ x3).extractLsb' 0 2 = x3 := by
  rw [extract_lo]
  · exact extract_all _
  all_goals decide

theorem field_6_5_19_2_at_2_4 (x0 : BitVec 6) (x1 : BitVec 5) (x2 : BitVec 19) (x3 : BitVec 2) :
    (x0 ++ x1 ++ x2 ++ x3).extractLsb' 2 4 = x2.extractLsb' 0 4 := by
  rw [extract_hi, extract_lo]
  all_goals decide

theorem field_6_5_19_2_at_6_5 (x0 : BitVec 6) (x1 : BitVec 5) (x2 : BitVec 19) (x3 : BitVec 2) :
    (x0 ++ x1 ++ x2 ++ x3).extractLsb' 6 5 = x2.extractLsb' 4 5 := by
  rw [extract_hi, extract_lo]
  all_goals decide

theorem field_6_5_19_2_at_11_10 (x0 : BitVec 6) (x1 : BitVec 5) (x2 : BitVec 19) (x3 : BitVec 2) :
    (x0 ++ x1 ++ x2 ++ x3).extractLsb' 11 10 = x2.extractLsb' 9 10 := by
  rw [extract_hi, extract_lo]
  all_goals decide

theorem field_6_5_19_2_at_21_5 (x0 : BitVec 6) (x1 : BitVec 5) (x2 : BitVec 19) (x3 : BitVec 2) :
    (x0 ++ x1 ++ x2 ++ x3).extractLsb' 21 5 = x1 := by
  rw [extract_hi, extract_hi, extract_lo]
  · exact extract_all _
  all_goals decide

theorem field_6_5_19_2_at_26_6 (x0 : BitVec 6) (x1 : BitVec 5) (x2 : BitVec 19) (x3 : BitVec 2) :
    (x0 ++ x1 ++ x2 ++ x3).extractLsb' 26 6 = x0 := by
  rw [extract_hi, extract_hi, extract_hi]
  · exact extract_all _
  all_goals decide

theorem field_6_5_21_at_0_6 (x0 : BitVec 6) (x1 : BitVec 5) (x2 : BitVec 21) :
    (x0 ++ x1 ++ x2).extractLsb' 0 6 = x2.extractLsb' 0 6 := by
  rw [extract_lo]
  all_goals decide

theorem field_6_5_21_at_0_21 (x0 : BitVec 6) (x1 : BitVec 5) (x2 : BitVec 21) :
    (x0 ++ x1 ++ x2).extractLsb' 0 21 = x2 := by
  rw [extract_lo]
  · exact extract_all _
  all_goals decide

theorem field_6_5_21_at_6_15 (x0 : BitVec 6) (x1 : BitVec 5) (x2 : BitVec 21) :
    (x0 ++ x1 ++ x2).extractLsb' 6 15 = x2.extractLsb' 6 15 := by
  rw [extract_lo]
  all_goals decide

theorem field_6_5_21_at_21_5 (x0 : BitVec 6) (x1 : BitVec 5) (x2 : BitVec 21) :
    (x0 ++ x1 ++ x2).extractLsb' 21 5 = x1 := by
  rw [extract_hi, extract_lo]
  · exact extract_all _
  all_goals decide

theorem field_6_5_21_at_26_6 (x0 : BitVec 6) (x1 : BitVec 5) (x2 : BitVec 21) :
    (x0 ++ x1 ++ x2).extractLsb' 26 6 = x0 := by
  rw [extract_hi, extract_hi]
  · exact extract_all _
  all_goals decide

theorem field_8_3_2_3_2_3_11_at_0_6 (x0 : BitVec 8) (x1 : BitVec 3) (x2 : BitVec 2) (x3 : BitVec 3) (x4 : BitVec 2) (x5 : BitVec 3) (x6 : BitVec 11) :
    (x0 ++ x1 ++ x2 ++ x3 ++ x4 ++ x5 ++ x6).extractLsb' 0 6 = x6.extractLsb' 0 6 := by
  rw [extract_lo]
  all_goals decide

theorem field_8_3_2_3_2_3_11_at_6_5 (x0 : BitVec 8) (x1 : BitVec 3) (x2 : BitVec 2) (x3 : BitVec 3) (x4 : BitVec 2) (x5 : BitVec 3) (x6 : BitVec 11) :
    (x0 ++ x1 ++ x2 ++ x3 ++ x4 ++ x5 ++ x6).extractLsb' 6 5 = x6.extractLsb' 6 5 := by
  rw [extract_lo]
  all_goals decide

theorem field_8_3_2_3_2_3_11_at_11_3 (x0 : BitVec 8) (x1 : BitVec 3) (x2 : BitVec 2) (x3 : BitVec 3) (x4 : BitVec 2) (x5 : BitVec 3) (x6 : BitVec 11) :
    (x0 ++ x1 ++ x2 ++ x3 ++ x4 ++ x5 ++ x6).extractLsb' 11 3 = x5 := by
  rw [extract_hi, extract_lo]
  · exact extract_all _
  all_goals decide

theorem field_8_3_2_3_2_3_11_at_14_2 (x0 : BitVec 8) (x1 : BitVec 3) (x2 : BitVec 2) (x3 : BitVec 3) (x4 : BitVec 2) (x5 : BitVec 3) (x6 : BitVec 11) :
    (x0 ++ x1 ++ x2 ++ x3 ++ x4 ++ x5 ++ x6).extractLsb' 14 2 = x4 := by
  rw [extract_hi, extract_hi, extract_lo]
  · exact extract_all _
  all_goals decide

theorem field_8_3_2_3_2_3_11_at_16_3 (x0 : BitVec 8) (x1 : BitVec 3) (x2 : BitVec 2) (x3 : BitVec 3) (x4 : BitVec 2) (x5 : BitVec 3) (x6 : BitVec 11) :
    (x0 ++ x1 ++ x2 ++ x3 ++ x4 ++ x5 ++ x6).extractLsb' 16 3 = x3 := by
  rw [extract_hi, extract_hi, extract_hi, extract_lo]
  · exact extract_all _
  all_goals decide

theorem field_8_3_2_3_2_3_11_at_19_2 (x0 : BitVec 8) (x1 : BitVec 3) (x2 : BitVec 2) (x3 : BitVec 3) (x4 : BitVec 2) (x5 : BitVec 3) (x6 : BitVec 11) :
    (x0 ++ x1 ++ x2 ++ x3 ++ x4 ++ x5 ++ x6).extractLsb' 19 2 = x2 := by
  rw [extract_hi, extract_hi, extract_hi, extract_hi, extract_lo]
  · exact extract_all _
  all_goals decide

theorem field_8_3_2_3_2_3_11_at_21_3 (x0 : BitVec 8) (x1 : BitVec 3) (x2 : BitVec 2) (x3 : BitVec 3) (x4 : BitVec 2) (x5 : BitVec 3) (x6 : BitVec 11) :
    (x0 ++ x1 ++ x2 ++ x3 ++ x4 ++ x5 ++ x6).extractLsb' 21 3 = x1 := by
  rw [extract_hi, extract_hi, extract_hi, extract_hi, extract_hi, extract_lo]
  · exact extract_all _
  all_goals decide

theorem field_8_3_2_3_2_3_11_at_24_2 (x0 : BitVec 8) (x1 : BitVec 3) (x2 : BitVec 2) (x3 : BitVec 3) (x4 : BitVec 2) (x5 : BitVec 3) (x6 : BitVec 11) :
    (x0 ++ x1 ++ x2 ++ x3 ++ x4 ++ x5 ++ x6).extractLsb' 24 2 = x0.extractLsb' 0 2 := by
  rw [extract_hi, extract_hi, extract_hi, extract_hi, extract_hi, extract_hi]
  all_goals decide

theorem field_8_3_2_3_2_3_11_at_26_6 (x0 : BitVec 8) (x1 : BitVec 3) (x2 : BitVec 2) (x3 : BitVec 3) (x4 : BitVec 2) (x5 : BitVec 3) (x6 : BitVec 11) :
    (x0 ++ x1 ++ x2 ++ x3 ++ x4 ++ x5 ++ x6).extractLsb' 26 6 = x0.extractLsb' 2 6 := by
  rw [extract_hi, extract_hi, extract_hi, extract_hi, extract_hi, extract_hi]
  all_goals decide

theorem field_8_3_2_3_16_at_0_6 (x0 : BitVec 8) (x1 : BitVec 3) (x2 : BitVec 2) (x3 : BitVec 3) (x4 : BitVec 16) :
    (x0 ++ x1 ++ x2 ++ x3 ++ x4).extractLsb' 0 6 = x4.extractLsb' 0 6 := by
  rw [extract_lo]
  all_goals decide

theorem field_8_3_2_3_16_at_6_10 (x0 : BitVec 8) (x1 : BitVec 3) (x2 : BitVec 2) (x3 : BitVec 3) (x4 : BitVec 16) :
    (x0 ++ x1 ++ x2 ++ x3 ++ x4).extractLsb' 6 10 = x4.extractLsb' 6 10 := by
  rw [extract_lo]
  all_goals decide

theorem field_8_3_2_3_16_at_16_3 (x0 : BitVec 8) (x1 : BitVec 3) (x2 : BitVec 2) (x3 : BitVec 3) (x4 : BitVec 16) :
    (x0 ++ x1 ++ x2 ++ x3 ++ x4).extractLsb' 16 3 = x3 := by
  rw [extract_hi, extract_lo]
  · exact extract_all _
  all_goals decide

theorem field_8_3_2_3_16_at_19_2 (x0 : BitVec 8) (x1 : BitVec 3) (x2 : BitVec 2) (x3 : BitVec 3) (x4 : BitVec 16) :
    (x0 ++ x1 ++ x2 ++ x3 ++ x4).extractLsb' 19 2 = x2 := by
  rw [extract_hi, extract_hi, extract_lo]
  · exact extract_all _
  all_goals decide

theorem field_8_3_2_3_16_at_21_3 (x0 : BitVec 8) (x1 : BitVec 3) (x2 : BitVec 2) (x3 : BitVec 3) (x4 : BitVec 16) :
    (x0 ++ x1 ++ x2 ++ x3 ++ x4).extractLsb' 21 3 = x1 := by
  rw [extract_hi, extract_hi, extract_hi, extract_lo]
  · exact extract_all _
  all_goals decide

theorem field_8_3_2_3_16_at_24_2 (x0 : BitVec 8) (x1 : BitVec 3) (x2 : BitVec 2) (x3 : BitVec 3) (x4 : BitVec 16) :
    (x0 ++ x1 ++ x2 ++ x3 ++ x4).extractLsb' 24 2 = x0.extractLsb' 0 2 := by
  rw [extract_hi, extract_hi, extract_hi, extract_hi]
  all_goals decide

theorem field_8_3_2_3_16_at_26_6 (x0 : BitVec 8) (x1 : BitVec 3) (x2 : BitVec 2) (x3 : BitVec 3) (x4 : BitVec 16) :
    (x0 ++ x1 ++ x2 ++ x3 ++ x4).extractLsb' 26 6 = x0.extractLsb' 2 6 := by
  rw [extract_hi, extract_hi, extract_hi, extract_hi]
  all_goals decide

theorem field_8_3_5_5_11_at_0_6 (x0 : BitVec 8) (x1 : BitVec 3) (x2 : BitVec 5) (x3 : BitVec 5) (x4 : BitVec 11) :
    (x0 ++ x1 ++ x2 ++ x3 ++ x4).extractLsb' 0 6 = x4.extractLsb' 0 6 := by
  rw [extract_lo]
  all_goals decide

theorem field_8_3_5_5_11_at_6_5 (x0 : BitVec 8) (x1 : BitVec 3) (x2 : BitVec 5) (x3 : BitVec 5) (x4 : BitVec 11) :
    (x0 ++ x1 ++ x2 ++ x3 ++ x4).extractLsb' 6 5 = x4.extractLsb' 6 5 := by
  rw [extract_lo]
  all_goals decide

theorem field_8_3_5_5_11_at_11_5 (x0 : BitVec 8) (x1 : BitVec 3) (x2 : BitVec 5) (x3 : BitVec 5) (x4 : BitVec 11) :
    (x0 ++ x1 ++ x2 ++ x3 ++ x4).extractLsb' 11 5 = x3 := by
  rw [extract_hi, extract_lo]
  · exact extract_all _
  all_goals decide

theorem field_8_3_5_5_11_at_16_5 (x0 : BitVec 8) (x1 : BitVec 3) (x2 : BitVec 5) (x3 : BitVec 5) (x4 : BitVec 11) :
    (x0 ++ x1 ++ x2 ++ x3 ++ x4).extractLsb' 16 5 = x2 := by
  rw [extract_hi, extract_hi, extract_lo]
  · exact extract_all _
  all_goals decide

theorem field_8_3_5_5_11_at_21_3 (x0 : BitVec 8) (x1 : BitVec 3) (x2 : BitVec 5) (x3 : BitVec 5) (x4 : BitVec 11) :
    (x0 ++ x1 ++ x2 ++ x3 ++ x4).extractLsb' 21 3 = x1 := by
  rw [extract_hi, extract_hi, extract_hi, extract_lo]
  · exact extract_all _
  all_goals decide

theorem field_8_3_5_5_11_at_24_2 (x0 : BitVec 8) (x1 : BitVec 3) (x2 : BitVec 5) (x3 : BitVec 5) (x4 : BitVec 11) :
    (x0 ++ x1 ++ x2 ++ x3 ++ x4).extractLsb' 24 2 = x0.extractLsb' 0 2 := by
  rw [extract_hi, extract_hi, extract_hi, extract_hi]
  all_goals decide

theorem field_8_3_5_5_11_at_26_6 (x0 : BitVec 8) (x1 : BitVec 3) (x2 : BitVec 5) (x3 : BitVec 5) (x4 : BitVec 11) :
    (x0 ++ x1 ++ x2 ++ x3 ++ x4).extractLsb' 26 6 = x0.extractLsb' 2 6 := by
  rw [extract_hi, extract_hi, extract_hi, extract_hi]
  all_goals decide

theorem field_8_3_5_16_at_0_6 (x0 : BitVec 8) (x1 : BitVec 3) (x2 : BitVec 5) (x3 : BitVec 16) :
    (x0 ++ x1 ++ x2 ++ x3).extractLsb' 0 6 = x3.extractLsb' 0 6 := by
  rw [extract_lo]
  all_goals decide

theorem field_8_3_5_16_at_6_10 (x0 : BitVec 8) (x1 : BitVec 3) (x2 : BitVec 5) (x3 : BitVec 16) :
    (x0 ++ x1 ++ x2 ++ x3).extractLsb' 6 10 = x3.extractLsb' 6 10 := by
  rw [extract_lo]
  all_goals decide

theorem field_8_3_5_16_at_16_5 (x0 : BitVec 8) (x1 : BitVec 3) (x2 : BitVec 5) (x3 : BitVec 16) :
    (x0 ++ x1 ++ x2 ++ x3).extractLsb' 16 5 = x2 := by
  rw [extract_hi, extract_lo]
  · exact extract_all _
  all_goals decide

theorem field_8_3_5_16_at_21_3 (x0 : BitVec 8) (x1 : BitVec 3) (x2 : BitVec 5) (x3 : BitVec 16) :
    (x0 ++ x1 ++ x2 ++ x3).extractLsb' 21 3 = x1 := by
  rw [extract_hi, extract_hi, extract_lo]
  · exact extract_all _
  all_goals decide

theorem field_8_3_5_16_at_24_2 (x0 : BitVec 8) (x1 : BitVec 3) (x2 : BitVec 5) (x3 : BitVec 16) :
    (x0 ++ x1 ++ x2 ++ x3).extractLsb' 24 2 = x0.extractLsb' 0 2 := by
  rw [extract_hi, extract_hi, extract_hi]
  all_goals decide

theorem field_8_3_5_16_at_26_6 (x0 : BitVec 8) (x1 : BitVec 3) (x2 : BitVec 5) (x3 : BitVec 16) :
    (x0 ++ x1 ++ x2 ++ x3).extractLsb' 26 6 = x0.extractLsb' 2 6 := by
  rw [extract_hi, extract_hi, extract_hi]
  all_goals decide

theorem field_11_5_5_2_9_at_0_6 (x0 : BitVec 11) (x1 : BitVec 5) (x2 : BitVec 5) (x3 : BitVec 2) (x4 : BitVec 9) :
    (x0 ++ x1 ++ x2 ++ x3 ++ x4).extractLsb' 0 6 = x4.extractLsb' 0 6 := by
  rw [extract_lo]
  all_goals decide

theorem field_11_5_5_2_9_at_6_3 (x0 : BitVec 11) (x1 : BitVec 5) (x2 : BitVec 5) (x3 : BitVec 2) (x4 : BitVec 9) :
    (x0 ++ x1 ++ x2 ++ x3 ++ x4).extractLsb' 6 3 = x4.extractLsb' 6 3 := by
  rw [extract_lo]
  all_goals decide

theorem field_11_5_5_2_9_at_9_2 (x0 : BitVec 11) (x1 : BitVec 5) (x2 : BitVec 5) (x3 : BitVec 2) (x4 : BitVec 9) :
    (x0 ++ x1 ++ x2 ++ x3 ++ x4).extractLsb' 9 2 = x3 := by
  rw [extract_hi, extract_lo]
  · exact extract_all _
  all_goals decide

theorem field_11_5_5_2_9_at_11_5 (x0 : BitVec 11) (x1 : BitVec 5) (x2 : BitVec 5) (x3 : BitVec 2) (x4 : BitVec 9) :
    (x0 ++ x1 ++ x2 ++ x3 ++ x4).extractLsb' 11 5 = x2 := by
  rw [extract_hi, extract_hi, extract_lo]
  · exact extract_all _
  all_goals decide

theorem field_11_5_5_2_9_at_16_5 (x0 : BitVec 11) (x1 : BitVec 5) (x2 : BitVec 5) (x3 : BitVec 2) (x4 : BitVec 9) :
    (x0 ++ x1 ++ x2 ++ x3 ++ x4).extractLsb' 16 5 = x1 := by
  rw [extract_hi, extract_hi, extract_hi, extract_lo]
  · exact extract_all _
  all_goals decide

theorem field_11_5_5_2_9_at_21_5 (x0 : BitVec 11) (x1 : BitVec 5) (x2 : BitVec 5) (x3 : BitVec 2) (x4 : BitVec 9) :
    (x0 ++ x1 ++ x2 ++ x3 ++ x4).extractLsb' 21 5 = x0.extractLsb' 0 5 := by
  rw [extract_hi, extract_hi, extract_hi, extract_hi]
  all_goals decide

theorem field_11_5_5_2_9_at_26_6 (x0 : BitVec 11) (x1 : BitVec 5) (x2 : BitVec 5) (x3 : BitVec 2) (x4 : BitVec 9) :
    (x0 ++ x1 ++ x2 ++ x3 ++ x4).extractLsb' 26 6 = x0.extractLsb' 5 6 := by
  rw [extract_hi, extract_hi, extract_hi, extract_hi]
  all_goals decide

theorem field_11_5_10_6_at_0_6 (x0 : BitVec 11) (x1 : BitVec 5) (x2 : BitVec 10) (x3 : BitVec 6) :
    (x0 ++ x1 ++ x2 ++ x3).extractLsb' 0 6 = x3 := by
  rw [extract_lo]
  · exact extract_all _
  all_goals decide

theorem field_11_5_10_6_at_6_10 (x0 : BitVec 11) (x1 : BitVec 5) (x2 : BitVec 10) (x3 : BitVec 6) :
    (x0 ++ x1 ++ x2 ++ x3).extractLsb' 6 10 = x2 := by
  rw [extract_hi, extract_lo]
  · exact extract_all _
  all_goals decide

theorem field_11_5_10_6_at_16_5 (x0 : BitVec 11) (x1 : BitVec 5) (x2 : BitVec 10) (x3 : BitVec 6) :
    (x0 ++ x1 ++ x2 ++ x3).extractLsb' 16 5 = x1 := by
  rw [extract_hi, extract_hi, extract_lo]
  · exact extract_all _
  all_goals decide

theorem field_11_5_10_6_at_21_5 (x0 : BitVec 11) (x1 : BitVec 5) (x2 : BitVec 10) (x3 : BitVec 6) :
    (x0 ++ x1 ++ x2 ++ x3).extractLsb' 21 5 = x0.extractLsb' 0 5 := by
  rw [extract_hi, extract_hi, extract_hi]
  all_goals decide

theorem field_11_5_10_6_at_26_6 (x0 : BitVec 11) (x1 : BitVec 5) (x2 : BitVec 10) (x3 : BitVec 6) :
    (x0 ++ x1 ++ x2 ++ x3).extractLsb' 26 6 = x0.extractLsb' 5 6 := by
  rw [extract_hi, extract_hi, extract_hi]
  all_goals decide

theorem field_11_5_14_2_at_0_2 (x0 : BitVec 11) (x1 : BitVec 5) (x2 : BitVec 14) (x3 : BitVec 2) :
    (x0 ++ x1 ++ x2 ++ x3).extractLsb' 0 2 = x3 := by
  rw [extract_lo]
  · exact extract_all _
  all_goals decide

theorem field_11_5_14_2_at_2_4 (x0 : BitVec 11) (x1 : BitVec 5) (x2 : BitVec 14) (x3 : BitVec 2) :
    (x0 ++ x1 ++ x2 ++ x3).extractLsb' 2 4 = x2.extractLsb' 0 4 := by
  rw [extract_hi, extract_lo]
  all_goals decide

theorem field_11_5_14_2_at_6_5 (x0 : BitVec 11) (x1 : BitVec 5) (x2 : BitVec 14) (x3 : BitVec 2) :
    (x0 ++ x1 ++ x2 ++ x3).extractLsb' 6 5 = x2.extractLsb' 4 5 := by
  rw [extract_hi, extract_lo]
  all_goals decide

theorem field_11_5_14_2_at_11_5 (x0 : BitVec 11) (x1 : BitVec 5) (x2 : BitVec 14) (x3 : BitVec 2) :
    (x0 ++ x1 ++ x2 ++ x3).extractLsb' 11 5 = x2.extractLsb' 9 5 := by
  rw [extract_hi, extract_lo]
  all_goals decide

theorem field_11_5_14_2_at_16_5 (x0 : BitVec 11) (x1 : BitVec 5) (x2 : BitVec 14) (x3 : BitVec 2) :
    (x0 ++ x1 ++ x2 ++ x3).extractLsb' 16 5 = x1 := by
  rw [extract_hi, extract_hi, extract_lo]
  · exact extract_all _
  all_goals decide

theorem field_11_5_14_2_at_21_5 (x0 : BitVec 11) (x1 : BitVec 5) (x2 : BitVec 14) (x3 : BitVec 2) :
    (x0 ++ x1 ++ x2 ++ x3).extractLsb' 21 5 = x0.extractLsb' 0 5 := by
  rw [extract_hi, extract_hi, extract_hi]
  all_goals decide

theorem field_11_5_14_2_at_26_6 (x0 : BitVec 11) (x1 : BitVec 5) (x2 : BitVec 14) (x3 : BitVec 2) :
    (x0 ++ x1 ++ x2 ++ x3).extractLsb' 26 6 = x0.extractLsb' 5 6 := by
  rw [extract_hi, extract_hi, extract_hi]
  all_goals decide

theorem field_11_5_16_at_0_6 (x0 : BitVec 11) (x1 : BitVec 5) (x2 : BitVec 16) :
    (x0 ++ x1 ++ x2).extractLsb' 0 6 = x2.extractLsb' 0 6 := by
  rw [extract_lo]
  all_goals decide

theorem field_11_5_16_at_6_10 (x0 : BitVec 11) (x1 : BitVec 5) (x2 : BitVec 16) :
    (x0 ++ x1 ++ x2).extractLsb' 6 10 = x2.extractLsb' 6 10 := by
  rw [extract_lo]
  all_goals decide

theorem field_11_5_16_at_16_5 (x0 : BitVec 11) (x1 : BitVec 5) (x2 : BitVec 16) :
    (x0 ++ x1 ++ x2).extractLsb' 16 5 = x1 := by
  rw [extract_hi, extract_lo]
  · exact extract_all _
  all_goals decide

theorem field_11_5_16_at_21_5 (x0 : BitVec 11) (x1 : BitVec 5) (x2 : BitVec 16) :
    (x0 ++ x1 ++ x2).extractLsb' 21 5 = x0.extractLsb' 0 5 := by
  rw [extract_hi, extract_hi]
  all_goals decide

theorem field_11_5_16_at_26_6 (x0 : BitVec 11) (x1 : BitVec 5) (x2 : BitVec 16) :
    (x0 ++ x1 ++ x2).extractLsb' 26 6 = x0.extractLsb' 5 6 := by
  rw [extract_hi, extract_hi]
  all_goals decide

theorem field_16_10_6_at_0_6 (x0 : BitVec 16) (x1 : BitVec 10) (x2 : BitVec 6) :
    (x0 ++ x1 ++ x2).extractLsb' 0 6 = x2 := by
  rw [extract_lo]
  · exact extract_all _
  all_goals decide

theorem field_16_10_6_at_6_10 (x0 : BitVec 16) (x1 : BitVec 10) (x2 : BitVec 6) :
    (x0 ++ x1 ++ x2).extractLsb' 6 10 = x1 := by
  rw [extract_hi, extract_lo]
  · exact extract_all _
  all_goals decide

theorem field_16_10_6_at_16_10 (x0 : BitVec 16) (x1 : BitVec 10) (x2 : BitVec 6) :
    (x0 ++ x1 ++ x2).extractLsb' 16 10 = x0.extractLsb' 0 10 := by
  rw [extract_hi, extract_hi]
  all_goals decide

theorem field_16_10_6_at_26_6 (x0 : BitVec 16) (x1 : BitVec 10) (x2 : BitVec 6) :
    (x0 ++ x1 ++ x2).extractLsb' 26 6 = x0.extractLsb' 10 6 := by
  rw [extract_hi, extract_hi]
  all_goals decide

theorem field_21_2_1_1_1_6_at_0_6 (x0 : BitVec 21) (x1 : BitVec 2) (x2 : BitVec 1) (x3 : BitVec 1) (x4 : BitVec 1) (x5 : BitVec 6) :
    (x0 ++ x1 ++ x2 ++ x3 ++ x4 ++ x5).extractLsb' 0 6 = x5 := by
  rw [extract_lo]
  · exact extract_all _
  all_goals decide

theorem field_21_2_1_1_1_6_at_6_1 (x0 : BitVec 21) (x1 : BitVec 2) (x2 : BitVec 1) (x3 : BitVec 1) (x4 : BitVec 1) (x5 : BitVec 6) :
    (x0 ++ x1 ++ x2 ++ x3 ++ x4 ++ x5).extractLsb' 6 1 = x4 := by
  rw [extract_hi, extract_lo]
  · exact extract_all _
  all_goals decide

theorem field_21_2_1_1_1_6_at_7_1 (x0 : BitVec 21) (x1 : BitVec 2) (x2 : BitVec 1) (x3 : BitVec 1) (x4 : BitVec 1) (x5 : BitVec 6) :
    (x0 ++ x1 ++ x2 ++ x3 ++ x4 ++ x5).extractLsb' 7 1 = x3 := by
  rw [extract_hi, extract_hi, extract_lo]
  · exact extract_all _
  all_goals decide

theorem field_21_2_1_1_1_6_at_8_1 (x0 : BitVec 21) (x1 : BitVec 2) (x2 : BitVec 1) (x3 : BitVec 1) (x4 : BitVec 1) (x5 : BitVec 6) :
    (x0 ++ x1 ++ x2 ++ x3 ++ x4 ++ x5).extractLsb' 8 1 = x2 := by
  rw [extract_hi, extract_hi, extract_hi, extract_lo]
  · exact extract_all _
  all_goals decide

theorem field_21_2_1_1_1_6_at_9_2 (x0 : BitVec 21) (x1 : BitVec 2) (x2 : BitVec 1) (x3 : BitVec 1) (x4 : BitVec 1) (x5 : BitVec 6) :
    (x0 ++ x1 ++ x2 ++ x3 ++ x4 ++ x5).extractLsb' 9 2 = x1 := by
  rw [extract_hi, extract_hi, extract_hi, extract_hi, extract_lo]
  · exact extract_all _
  all_goals decide

theorem field_21_2_1_1_1_6_at_11_15 (x0 : BitVec 21) (x1 : BitVec 2) (x2 : BitVec 1) (x3 : BitVec 1) (x4 : BitVec 1) (x5 : BitVec 6) :
    (x0 ++ x1 ++ x2 ++ x3 ++ x4 ++ x5).extractLsb' 11 15 = x0.extractLsb' 0 15 := by
  rw [extract_hi, extract_hi, extract_hi, extract_hi, extract_hi]
  all_goals decide

theorem field_21_2_1_1_1_6_at_26_6 (x0 : BitVec 21) (x1 : BitVec 2) (x2 : BitVec 1) (x3 : BitVec 1) (x4 : BitVec 1) (x5 : BitVec 6) :
    (x0 ++ x1 ++ x2 ++ x3 ++ x4 ++ x5).extractLsb' 26 6 = x0.extractLsb' 15 6 := by
  rw [extract_hi, extract_hi, extract_hi, extract_hi, extract_hi]
  all_goals decide

theorem field_30_2_at_0_2 (x0 : BitVec 30) (x1 : BitVec 2) :
    (x0 ++ x1).extractLsb' 0 2 = x1 := by
  rw [extract_lo]
  · exact extract_all _
  all_goals decide

theorem field_30_2_at_2_4 (x0 : BitVec 30) (x1 : BitVec 2) :
    (x0 ++ x1).extractLsb' 2 4 = x0.extractLsb' 0 4 := by
  rw [extract_hi]
  all_goals decide

theorem field_30_2_at_6_5 (x0 : BitVec 30) (x1 : BitVec 2) :
    (x0 ++ x1).extractLsb' 6 5 = x0.extractLsb' 4 5 := by
  rw [extract_hi]
  all_goals decide

theorem field_30_2_at_11_15 (x0 : BitVec 30) (x1 : BitVec 2) :
    (x0 ++ x1).extractLsb' 11 15 = x0.extractLsb' 9 15 := by
  rw [extract_hi]
  all_goals decide

theorem field_30_2_at_26_6 (x0 : BitVec 30) (x1 : BitVec 2) :
    (x0 ++ x1).extractLsb' 26 6 = x0.extractLsb' 24 6 := by
  rw [extract_hi]
  all_goals decide

end Sys2Proof.Laws
end

