-- ==== Sys2Proof/Laws/Home.lean ====
section
/-! SUPPORT. What an access at its home does when nothing stands in its way: no ring holds a line, nothing waits in a
controller's queue, and every stack serves.
-/

namespace Sys2Proof.Machine

/-- Nothing stands in the way of an access to memory. -/
structure Quiet (s : State) : Prop where
  queued : s.plat.queued = []
  asks   : s.asks = []
  dir    : s.coh.dir = []
  poison : s.plat.poison = []
  soft   : s.plat.soft = []
  loose  : ∀ x, x ∈ s.coh.llc → x.2 = false
  ready  : ∀ a, (s.stackAt a).refresh = false ∧ (s.stackAt a).training = []

theorem llcPut_loose (tick : Nat) (llc : List (Nat × Bool)) (line : Nat) (h : ∀ x, x ∈ llc → x.2 = false) :
    ∀ x, x ∈ llcPut tick false llc line → x.2 = false := by
  intro x hx
  unfold llcPut at hx
  split at hx
  · obtain ⟨y, hy, rfl⟩ := List.mem_map.1 hx
    have := h y hy
    split <;> simp [this]
  · split at hx
    · rename_i l hl
      rcases List.mem_cons.1 hx with rfl | hx
      · rfl
      · unfold llcRoom at hl
        split at hl
        · exact h x (Option.some.inj hl ▸ hx)
        · obtain ⟨v, _, rfl⟩ := Option.map_eq_some_iff.1 hl
          exact h x (List.mem_filter.1 hx).1
    · exact h x hx

theorem llcPuts_loose (tick : Nat) (lines : List Nat) :
    ∀ llc : List (Nat × Bool), (∀ x, x ∈ llc → x.2 = false) → ∀ x, x ∈ lines.foldl (llcPut tick false) llc → x.2 = false := by
  induction lines with
  | nil => exact fun _ h => h
  | cons l r ih => exact fun llc h => ih _ (llcPut_loose tick llc l h)

theorem Quiet.llcAdd {s : State} (h : Quiet s) (a n : Nat) (w : Bool) : Quiet (s.llcAdd a n w) := by
  unfold State.llcAdd
  split
  · exact h
  · have hp : (w && (s.stackAt a).refresh) = false := by
      simp [(h.ready _).1]
    exact ⟨h.queued, h.asks, h.dir, h.poison, h.soft, by simpa [hp] using llcPuts_loose _ _ _ h.loose, h.ready⟩

theorem Quiet.settle {s : State} (h : Quiet s) (l k : Nat) : s.settleHome l k = s := by
  have hc : ∀ x, s.cleanLine x = s := fun x => by simp [State.cleanLine, h.dir, chainOf]
  have hr : ∀ x, s.recall x = s := fun x => by simp [State.recall, State.dropFrom, h.dir, chainOf]
  simp [State.settleHome, hc, hr]

theorem Quiet.purge {s : State} (h : Quiet s) (l : Nat) : s.purgeLine l = s := by
  simp [State.purgeLine, State.dropFrom, h.dir, chainOf]

theorem Quiet.serves {s : State} (h : Quiet s) (a : Nat) : s.deviceStop a = none := by
  have hf : s.fillBlocked a = false := by
    have : s.coh.llc.any (fun x => x.2 && sameSlice x.1 (a / 64)) = false := by
      simp only [List.any_eq_false, Bool.and_eq_true, not_and]
      exact fun x hx hx2 => absurd hx2 (by simp [h.loose x hx])
    simp [State.fillBlocked, this]
  have hs : s.serving a = true := by simp [State.serving, (h.ready _).1, (h.ready _).2]
  have hb : ∀ n, s.behind a n = false := fun n => by simp [State.behind, h.asks, h.queued]
  unfold State.deviceStop
  simp [h.queued, hs, hb, hf]

/-- A read of this package's memory answers its bytes, and leaves nothing in the way of the next access. -/
theorem Quiet.read {s : State} (h : Quiet s) (pa a n : Nat) (hp : s.place pa = .hbm a) :
    ∃ t, s.homeRead pa n = .ok (s.held a (Memory.getBytes s.mem a n), t) ∧ Quiet t ∧ t.mem = s.mem ∧ t.plat.pkid = s.plat.pkid := by
  refine ⟨(s.corrected a).llcAdd a n false, ?_, Quiet.llcAdd ?_ _ _ _, ?_, ?_⟩
  · simp [State.homeRead, hp, State.homeReadAt, purging, h.dir, h.settle, h.serves, State.poisoned, State.lost, h.poison, h.soft]
  · unfold State.corrected
    split
    · exact h
    · exact ⟨h.queued, h.asks, h.dir, h.poison, h.soft, h.loose, h.ready⟩
  · unfold State.llcAdd State.corrected
    (repeat' split) <;> rfl
  · unfold State.llcAdd State.corrected
    (repeat' split) <;> rfl

/-- A write of this package's memory writes its bytes, and leaves nothing in the way of the next access. -/
theorem Quiet.write {s : State} (h : Quiet s) (pa a : Nat) (bs : List Byte) (hp : s.place pa = .hbm a) :
    ∃ t, s.homeWrite pa bs = .ok t ∧ Quiet t ∧ t.mem = Memory.setBytes s.mem a bs ∧ t.plat.pkid = s.plat.pkid := by
  have hq : s.partialPoison a bs.length = false := by simp [State.partialPoison, h.poison, h.soft]
  refine ⟨State.llcAdd { s with
      mem := Memory.setBytes s.mem a bs
      plat := { s.plat with poison := unpoison s.plat.poison a bs.length, soft := unpoison s.plat.soft a bs.length } } a bs.length true,
    by simp [State.homeWrite, hp, State.homeWriteAt, purging, h.dir, h.settle, h.serves, hq], Quiet.llcAdd ?_ _ _ _, ?_, ?_⟩
  · exact ⟨h.queued, h.asks, h.dir, by simp [h.poison, unpoison], by simp [h.soft, unpoison], h.loose, h.ready⟩
  · unfold State.llcAdd
    split <;> rfl
  · unfold State.llcAdd
    split <;> rfl

/-- Addresses below 2^40 lie in this package's HBM. -/
theorem place_local (s : State) (pa : Nat) (h : pa < 2 ^ 40) : s.place pa = .hbm pa := by
  have h0 : bitsOf pa 50 2 = 0 := by simp [bitsOf, Nat.shiftRight_eq_div_pow]; omega
  have h1 : bitsOf pa 40 10 = 0 := by simp [bitsOf, Nat.shiftRight_eq_div_pow]; omega
  simp [State.place, h0, h1]

theorem getBytes_length (m : List Host.Cell) (a n : Nat) : (Memory.getBytes m a n).length = n := by
  induction n generalizing a with
  | zero => rfl
  | succ n ih => simp [Memory.getBytes, ih]

theorem held_length (s : State) (a : Nat) (bs : List Byte) : (s.held a bs).length = bs.length := by
  unfold State.held
  split <;> simp

theorem Quiet.paRead (ps : List (Nat × Nat)) :
    ∀ {s : State}, Quiet s → (∀ p, p ∈ ps → p.1 < 2 ^ 40) →
      ∃ bs t, s.paRead ps = .ok (bs, t) ∧ bs.length = (ps.map (fun p => p.2)).sum ∧ Quiet t ∧ t.mem = s.mem := by
  induction ps with
  | nil => exact fun h _ => ⟨[], _, rfl, rfl, h, rfl⟩
  | cons p r ih =>
    intro s h hp
    obtain ⟨t, ht, hq, hm, _⟩ := h.read p.1 p.1 p.2 (place_local s _ (hp p (by simp)))
    obtain ⟨bs, u, hu, hl, hv, hn⟩ := ih hq (fun x hx => hp x (by simp [hx]))
    exact ⟨s.held p.1 (Memory.getBytes s.mem p.1 p.2) ++ bs, u, by rw [State.paRead, State.agentRead, ht]; simp only [hu],
      by simp [held_length, getBytes_length, hl], hv, hn.trans hm⟩

theorem Quiet.paWrite (ps : List (Nat × Nat)) :
    ∀ {s : State} (bs : List Byte), Quiet s → (∀ p, p ∈ ps → p.1 < 2 ^ 40) → ∃ t, s.paWrite bs ps = .ok t ∧ Quiet t := by
  induction ps with
  | nil => exact fun _ h _ => ⟨_, rfl, h⟩
  | cons p r ih =>
    intro s bs h hp
    obtain ⟨t, ht, hq, _, _⟩ := h.write p.1 p.1 (bs.take p.2) (place_local s _ (hp p (by simp)))
    obtain ⟨u, hu, hv⟩ := ih (bs.drop p.2) hq (fun x hx => hp x (by simp [hx]))
    exact ⟨u, by rw [State.paWrite, State.agentWrite, ht]; simp only [hq.purge, hu], hv⟩

theorem pieces_below (fuel : Nat) : ∀ pa n k, pa + n ≤ k → ∀ p, p ∈ pieces fuel pa n → p.1 < k := by
  induction fuel with
  | zero => intro _ _ _ _ p hp; exact absurd hp (by simp [pieces])
  | succ f ih =>
    intro pa n k h p hp
    unfold pieces at hp
    split at hp
    · exact absurd hp (by simp)
    · rcases List.mem_cons.1 hp with rfl | hp
      · simp only; omega
      · exact ih _ _ k (by omega) p hp

theorem pieces_sum (fuel : Nat) : ∀ pa n, ((pieces fuel pa n).map (fun p => p.2)).sum ≤ n := by
  induction fuel with
  | zero => intro _ _; simp [pieces]
  | succ f ih =>
    intro pa n
    unfold pieces
    split
    · simp
    · simp only [List.map_cons, List.sum_cons]
      have := ih (pa + min n (64 - pa % 64)) (n - min n (64 - pa % 64))
      omega

/-- Pronor's read and write of this package's memory complete. -/
theorem Quiet.pronorRead {s : State} (h : Quiet s) (asid : BitVec 12) (pa n d : Nat) (hp : pa + n ≤ 2 ^ 40) :
    ∃ bs t, s.pronorRead asid pa n d = .ok (bs, t) ∧ bs.length ≤ n ∧ Quiet t ∧ t.mem = s.mem := by
  obtain ⟨bs, t, ht, hl, hq, hm⟩ := h.paRead (pieces (n + 1) pa n) (pieces_below _ _ _ _ hp)
  exact ⟨bs, t, by simp [State.pronorRead, ht], hl ▸ pieces_sum _ _ _, hq, hm⟩

theorem Quiet.pronorWrite {s : State} (h : Quiet s) (asid : BitVec 12) (pa : Nat) (bs : List Byte) (d : Nat) (hp : pa + bs.length ≤ 2 ^ 40) :
    ∃ t, s.pronorWrite asid pa bs d = .ok t ∧ Quiet t := by
  obtain ⟨t, ht, hq⟩ := h.paWrite (pieces (bs.length + 1) pa bs.length) bs (pieces_below _ _ _ _ hp)
  exact ⟨t, by simp [State.pronorWrite, ht], hq⟩

end Sys2Proof.Machine
end

