-- ==== Sys2Proof/Laws/Issue.lean ====
section
/-! SUPPORT. What issuing an instruction can do, once: every outcome of `issue`, and what completion leaves alone. -/

namespace Sys2Proof.Machine

/-- What issuing comes to once nothing holds the instruction back: its early check, else what its body's result leaves. -/
def issued (u : Use) (s : State) : Option (Byte × Dword) → Res → State
  | some (c, i), _ => (s.noteReads u.checks).raise c i
  | none, .done t => completed u s t
  | none, .gone t => t
  | none, .trap t c i => (t.noteReads u.needs).raise c i
  | none, .wait t => t.noteReads u.needs
  | none, .memerr t pa => t.memoryError pa

/-- A held instruction that is at the head does not wait for it. -/
theorem held_go {u : Use} {s : State} (h : u.held = true → s.isHead = true) : ¬((u.held && !s.isHead) = true) := by
  intro w
  simp only [Bool.and_eq_true, Bool.not_eq_true'] at w
  simp [h w.1] at w

/-- An instruction that nothing holds back does what its early check or its body says. -/
theorem issue_clear {u : Use} {early : State → Option (Byte × Dword)} {body : State → Res} {s : State} (h : Clear u s) :
    issue u early body s = .next (issued u s (early s) (body s)) := by
  rw [issue, h.ready, if_neg Bool.false_ne_true, if_neg (held_go h.held), h.free, if_neg Bool.false_ne_true]
  cases early s with
  | some e => rfl
  | none =>
    simp only [h.stall]
    cases body s <;> simp [issued, completed, h.mask]

/-- An instruction that issues and whose body completes. -/
theorem issue_done {u : Use} {early : State → Option (Byte × Dword)} {body : State → Res} {s t : State}
    (h : Clear u s) (he : early s = none) (hb : body s = .done t) : issue u early body s = .next (completed u s t) := by
  rw [issue_clear h, he, hb, issued]

/-- An instruction that issues and after which the thread has left its ring. -/
theorem issue_gone {u : Use} {early : State → Option (Byte × Dword)} {body : State → Res} {s t : State}
    (h : Clear u s) (he : early s = none) (hb : body s = .gone t) : issue u early body s = .next t := by
  rw [issue_clear h, he, hb, issued]

/-- An instruction that issues and whose body faults. -/
theorem issue_trap {u : Use} {early : State → Option (Byte × Dword)} {body : State → Res} {s t : State} {c : Byte} {i : Dword}
    (h : Clear u s) (he : early s = none) (hb : body s = .trap t c i) : issue u early body s = .next ((t.noteReads u.needs).raise c i) := by
  rw [issue_clear h, he, hb, issued]

/-- An instruction that issues and waits. -/
theorem issue_wait {u : Use} {early : State → Option (Byte × Dword)} {body : State → Res} {s t : State}
    (h : Clear u s) (he : early s = none) (hb : body s = .wait t) : issue u early body s = .next (t.noteReads u.needs) := by
  rw [issue_clear h, he, hb, issued]

/-- An instruction that issues and fails a privilege or state check. -/
theorem issue_early {u : Use} {early : State → Option (Byte × Dword)} {body : State → Res} {s : State} {c : Byte} {i : Dword}
    (hr : s.notReady u.again = false) (hh : u.held = true → s.isHead = true) (hf : s.mustWait u = false)
    (he : early s = some (c, i)) : issue u early body s = .next ((s.noteReads u.checks).raise c i) := by
  rw [issue, hr, if_neg Bool.false_ne_true, if_neg (held_go hh), hf, if_neg Bool.false_ne_true, he]

/-- What reads nothing consumes nothing. -/
@[simp] theorem noteReads_nil (s : State) : s.noteReads [] = s := by
  unfold State.noteReads
  split
  · rfl
  · simp

/-- Everything that issuing an instruction can do: nothing yet, a STALL or a CMASK, or what its early check or its body says. -/
theorem issue_cases (u : Use) (early : State → Option (Byte × Dword)) (body : State → Res) (s : State) :
    issue u early body s = .next s
      ∨ (∃ rs c i, issue u early body s = .next ((s.noteReads rs).raise c i))
      ∨ issue u early body s = .next (issued u s (early s) (body s)) := by
  by_cases hr : s.notReady u.again = true
  · exact Or.inl (by rw [issue, if_pos hr])
  by_cases hh : (u.held && !s.isHead) = true
  · exact Or.inl (by rw [issue, if_neg hr, if_pos hh])
  by_cases hf : s.mustWait u = true
  · exact Or.inl (by rw [issue, if_neg hr, if_neg hh, if_pos hf])
  refine Or.inr ?_
  rw [issue, if_neg hr, if_neg hh, if_neg hf]
  cases he : early s with
  | some e => exact Or.inl ⟨u.checks, e.1, e.2, rfl⟩
  | none =>
    cases hs : s.stallOf u with
    | some p => exact Or.inl ⟨[], causeStall, p.pc, by simp⟩
    | none =>
      cases hm : s.cmaskOf u.writes with
      | none => exact Or.inr (by cases body s <;> rfl)
      | some r =>
        cases hb : body s with
        | done t => exact Or.inl ⟨u.needs, causeCmask, BitVec.ofNat 64 r, rfl⟩
        | gone t => exact Or.inl ⟨u.needs, causeCmask, BitVec.ofNat 64 r, rfl⟩
        | trap t c i => exact Or.inr rfl
        | wait t => exact Or.inr rfl
        | memerr t pa => exact Or.inr rfl

/-! ## What completion leaves -/

/-- What a region remembers of writes concerns four fields of the chunk. -/
theorem noteWrites_eq (s : State) (l : List RegName) :
    s.noteWrites l =
      { s with cpu := { s.cpu with
          made := (s.noteWrites l).cpu.made, sent := (s.noteWrites l).cpu.sent, wait := (s.noteWrites l).cpu.wait
          wrote := (s.noteWrites l).cpu.wrote } } := by
  unfold State.noteWrites
  cases s.thr.region <;> rfl

/-- What a speculative chunk remembers of reads concerns one field of it. -/
theorem noteReads_eq (s : State) (l : List RegName) : s.noteReads l = { s with cpu := { s.cpu with used := (s.noteReads l).cpu.used } } := by
  unfold State.noteReads
  split <;> rfl

/-- R30: the head has no predecessor whose values it could consume. -/
theorem noteReads_head {s : State} (l : List RegName) (h : s.isHead = true) : s.noteReads l = s := by
  unfold State.noteReads
  have : s.older = [] := List.isEmpty_iff.mp h
  rw [this]

/-- Completion concerns ten fields of the chunk. -/
theorem completed_eq (u : Use) (s t : State) :
    completed u s t =
      { t with cpu := { t.cpu with
          used := (completed u s t).cpu.used, made := (completed u s t).cpu.made
          sent := (completed u s t).cpu.sent, wait := (completed u s t).cpu.wait, wrote := (completed u s t).cpu.wrote
          turn := (completed u s t).cpu.turn, park := none
          flight := (completed u s t).cpu.flight, pend := (completed u s t).cpu.pend, held := [] } } := by
  unfold completed State.retire
  rw [noteWrites_eq, noteReads_eq]

@[simp] theorem completed_older (u : Use) (s t : State) : (completed u s t).older = t.older := by rw [completed_eq]
@[simp] theorem completed_younger (u : Use) (s t : State) : (completed u s t).younger = t.younger := by rw [completed_eq]
@[simp] theorem completed_thr (u : Use) (s t : State) : (completed u s t).thr = t.thr := by rw [completed_eq]
@[simp] theorem completed_live (u : Use) (s t : State) : (completed u s t).live = t.live := by rw [completed_eq]
@[simp] theorem completed_ring (u : Use) (s t : State) : (completed u s t).ring = t.ring := by rw [completed_eq]
@[simp] theorem completed_others (u : Use) (s t : State) : (completed u s t).others = t.others := by rw [completed_eq]
@[simp] theorem completed_saved (u : Use) (s t : State) : (completed u s t).saved = t.saved := by rw [completed_eq]
@[simp] theorem completed_mem (u : Use) (s t : State) : (completed u s t).mem = t.mem := by rw [completed_eq]
@[simp] theorem completed_coh (u : Use) (s t : State) : (completed u s t).coh = t.coh := by rw [completed_eq]
@[simp] theorem completed_host (u : Use) (s t : State) : (completed u s t).host = t.host := by rw [completed_eq]
@[simp] theorem completed_plat (u : Use) (s t : State) : (completed u s t).plat = t.plat := by rw [completed_eq]
@[simp] theorem completed_cyc (u : Use) (s t : State) : (completed u s t).cyc = t.cyc := by rw [completed_eq]
@[simp] theorem completed_tick (u : Use) (s t : State) : (completed u s t).tick = t.tick := by rw [completed_eq]
@[simp] theorem completed_agenda (u : Use) (s t : State) : (completed u s t).agenda = t.agenda := by rw [completed_eq]
@[simp] theorem completed_cpu_num (u : Use) (s t : State) : (completed u s t).cpu.num = t.cpu.num := by rw [completed_eq]
@[simp] theorem completed_cpu_core (u : Use) (s t : State) : (completed u s t).cpu.core = t.cpu.core := by rw [completed_eq]
@[simp] theorem completed_cpu_pc (u : Use) (s t : State) : (completed u s t).cpu.pc = t.cpu.pc := by rw [completed_eq]
@[simp] theorem completed_cpu_x (u : Use) (s t : State) : (completed u s t).cpu.x = t.cpu.x := by rw [completed_eq]
@[simp] theorem completed_cpu_v (u : Use) (s t : State) : (completed u s t).cpu.v = t.cpu.v := by rw [completed_eq]
@[simp] theorem completed_cpu_vdead (u : Use) (s t : State) : (completed u s t).cpu.vdead = t.cpu.vdead := by rw [completed_eq]
@[simp] theorem completed_cpu_k (u : Use) (s t : State) : (completed u s t).cpu.k = t.cpu.k := by rw [completed_eq]
@[simp] theorem completed_cpu_stat (u : Use) (s t : State) : (completed u s t).cpu.stat = t.cpu.stat := by rw [completed_eq]
@[simp] theorem completed_cpu_fflags (u : Use) (s t : State) : (completed u s t).cpu.fflags = t.cpu.fflags := by rw [completed_eq]
@[simp] theorem completed_cpu_vl (u : Use) (s t : State) : (completed u s t).cpu.vl = t.cpu.vl := by rw [completed_eq]
@[simp] theorem completed_cpu_vew (u : Use) (s t : State) : (completed u s t).cpu.vew = t.cpu.vew := by rw [completed_eq]
@[simp] theorem completed_cpu_vstart (u : Use) (s t : State) : (completed u s t).cpu.vstart = t.cpu.vstart := by rw [completed_eq]
@[simp] theorem completed_cpu_seed (u : Use) (s t : State) : (completed u s t).cpu.seed = t.cpu.seed := by rw [completed_eq]
@[simp] theorem completed_cpu_sbase (u : Use) (s t : State) : (completed u s t).cpu.sbase = t.cpu.sbase := by rw [completed_eq]
@[simp] theorem completed_cpu_fxs (u : Use) (s t : State) : (completed u s t).cpu.fxs = t.cpu.fxs := by rw [completed_eq]
@[simp] theorem completed_cpu_rptst (u : Use) (s t : State) : (completed u s t).cpu.rptst = t.cpu.rptst := by rw [completed_eq]
@[simp] theorem completed_cpu_ls (u : Use) (s t : State) : (completed u s t).cpu.ls = t.cpu.ls := by rw [completed_eq]
@[simp] theorem completed_cpu_lsTag (u : Use) (s t : State) : (completed u s t).cpu.lsTag = t.cpu.lsTag := by rw [completed_eq]
@[simp] theorem completed_cpu_frame (u : Use) (s t : State) : (completed u s t).cpu.frame = t.cpu.frame := by rw [completed_eq]
@[simp] theorem completed_cpu_trap (u : Use) (s t : State) : (completed u s t).cpu.trap = t.cpu.trap := by rw [completed_eq]
@[simp] theorem completed_cpu_ended (u : Use) (s t : State) : (completed u s t).cpu.ended = t.cpu.ended := by rw [completed_eq]
@[simp] theorem completed_cpu_cut (u : Use) (s t : State) : (completed u s t).cpu.cut = t.cpu.cut := by rw [completed_eq]
@[simp] theorem completed_cpu_mask (u : Use) (s t : State) : (completed u s t).cpu.mask = t.cpu.mask := by rw [completed_eq]
@[simp] theorem completed_cpu_left (u : Use) (s t : State) : (completed u s t).cpu.left = t.cpu.left := by rw [completed_eq]
@[simp] theorem completed_cpu_final (u : Use) (s t : State) : (completed u s t).cpu.final = t.cpu.final := by rw [completed_eq]
@[simp] theorem completed_cpu_pred (u : Use) (s t : State) : (completed u s t).cpu.pred = t.cpu.pred := by rw [completed_eq]
@[simp] theorem completed_cpu_outbox (u : Use) (s t : State) : (completed u s t).cpu.outbox = t.cpu.outbox := by rw [completed_eq]
@[simp] theorem completed_cpu_start (u : Use) (s t : State) : (completed u s t).cpu.start = t.cpu.start := by rw [completed_eq]
@[simp] theorem completed_cpu_ver (u : Use) (s t : State) : (completed u s t).cpu.ver = t.cpu.ver := by rw [completed_eq]
@[simp] theorem completed_cpu_stores (u : Use) (s t : State) : (completed u s t).cpu.stores = t.cpu.stores := by rw [completed_eq]
@[simp] theorem completed_cpu_loaded (u : Use) (s t : State) : (completed u s t).cpu.loaded = t.cpu.loaded := by rw [completed_eq]
@[simp] theorem completed_cpu_touches (u : Use) (s t : State) : (completed u s t).cpu.touches = t.cpu.touches := by rw [completed_eq]
@[simp] theorem completed_cpu_reads (u : Use) (s t : State) : (completed u s t).cpu.reads = t.cpu.reads := by rw [completed_eq]
@[simp] theorem completed_cpu_upds (u : Use) (s t : State) : (completed u s t).cpu.upds = t.cpu.upds := by rw [completed_eq]
@[simp] theorem completed_cpu_inbox (u : Use) (s t : State) : (completed u s t).cpu.inbox = t.cpu.inbox := by rw [completed_eq]
@[simp] theorem completed_cpu_squashed (u : Use) (s t : State) : (completed u s t).cpu.squashed = t.cpu.squashed := by rw [completed_eq]
@[simp] theorem completed_cpu_streak (u : Use) (s t : State) : (completed u s t).cpu.streak = t.cpu.streak := by rw [completed_eq]
@[simp] theorem completed_cpu_guarded (u : Use) (s t : State) : (completed u s t).cpu.guarded = t.cpu.guarded := by rw [completed_eq]
@[simp] theorem completed_cpu_capped (u : Use) (s t : State) : (completed u s t).cpu.capped = t.cpu.capped := by rw [completed_eq]
@[simp] theorem completed_cpu_bank (u : Use) (s t : State) : (completed u s t).cpu.bank = t.cpu.bank := by rw [completed_eq]
@[simp] theorem completed_cpu_loupe (u : Use) (s t : State) : (completed u s t).cpu.loupe = t.cpu.loupe := by rw [completed_eq]
@[simp] theorem completed_cpu_lcnt (u : Use) (s t : State) : (completed u s t).cpu.lcnt = t.cpu.lcnt := by rw [completed_eq]
@[simp] theorem completed_cpu_ir (u : Use) (s t : State) : (completed u s t).cpu.ir = t.cpu.ir := by rw [completed_eq]
@[simp] theorem completed_cpu_asked (u : Use) (s t : State) : (completed u s t).cpu.asked = t.cpu.asked := by rw [completed_eq]
@[simp] theorem completed_cpu_recut (u : Use) (s t : State) : (completed u s t).cpu.recut = t.cpu.recut := by rw [completed_eq]
@[simp] theorem completed_cpu_seen (u : Use) (s t : State) : (completed u s t).cpu.seen = t.cpu.seen := by rw [completed_eq]
@[simp] theorem completed_cpu_loads (u : Use) (s t : State) : (completed u s t).cpu.loads = t.cpu.loads := by rw [completed_eq]
@[simp] theorem completed_cpu_fetching (u : Use) (s t : State) : (completed u s t).cpu.fetching = t.cpu.fetching := by rw [completed_eq]
@[simp] theorem completed_cpu_entering (u : Use) (s t : State) : (completed u s t).cpu.entering = t.cpu.entering := by rw [completed_eq]
@[simp] theorem completed_cpu_held (u : Use) (s t : State) : (completed u s t).cpu.held = [] := rfl
@[simp] theorem completed_cpu_park (u : Use) (s t : State) : (completed u s t).cpu.park = none := rfl

end Sys2Proof.Machine
end

