-- ==== Sys2Proof/Laws/Memory.lean ====
section
/-! SUPPORT. Memory as a list of cells: reading after writing, and that every memory operation keeps the canonical form. -/

namespace Sys2Proof.Machine

/-- A byte just written is read back. -/
theorem Memory.get_set_same (m : List Host.Cell) (i : Nat) (v : Byte) (h : Memory.wf m = true) :
    Memory.get (Memory.set m i v) i = v := by
  have aux : ∀ (m : List Host.Cell) (lo : Nat), Memory.wfFrom lo m = true → Memory.get (Memory.set m i v) i = v := by
    intro m
    induction m with
    | nil => intro lo _; unfold Memory.set; split <;> simp_all [Memory.get]
    | cons c r ih =>
      obtain ⟨a, u⟩ := c
      intro lo h
      simp only [Memory.wfFrom, Bool.and_eq_true, decide_eq_true_eq] at h
      have tail : ∀ (r : List Host.Cell) (lo : Nat), Memory.wfFrom lo r = true → i < lo → Memory.get r i = 0 := by
        intro r
        induction r with
        | nil => intros; rfl
        | cons c r ih =>
          intro lo h hi
          simp only [Memory.wfFrom, Bool.and_eq_true, decide_eq_true_eq] at h
          rw [Memory.get, if_neg (by omega)]
          exact ih _ h.2 (by omega)
      unfold Memory.set
      by_cases h1 : i < a
      · by_cases hv : v = 0
        · rw [if_pos h1, if_pos hv, Memory.get, if_neg (by omega), hv]
          exact tail r (a + 1) h.2 (by omega)
        · rw [if_pos h1, if_neg hv, Memory.get, if_pos rfl]
      · by_cases h2 : a = i
        · by_cases hv : v = 0
          · rw [if_neg h1, if_pos h2, if_pos hv, hv]
            exact tail r (a + 1) h.2 (by omega)
          · rw [if_neg h1, if_pos h2, if_neg hv, Memory.get, if_pos rfl]
        · rw [if_neg h1, if_neg h2, Memory.get, if_neg h2]
          exact ih _ h.2
  exact aux m 0 h

/-- A write leaves every other byte alone. -/
theorem Memory.get_set_other (m : List Host.Cell) (i j : Nat) (v : Byte) (h : i ≠ j) :
    Memory.get (Memory.set m i v) j = Memory.get m j := by
  induction m with
  | nil => unfold Memory.set; split <;> simp_all [Memory.get]
  | cons c r ih =>
    obtain ⟨a, u⟩ := c
    unfold Memory.set
    by_cases h1 : i < a
    · by_cases hv : v = 0
      · rw [if_pos h1, if_pos hv]
      · rw [if_pos h1, if_neg hv, Memory.get, if_neg h]
    · by_cases h2 : a = i
      · by_cases hv : v = 0
        · rw [if_neg h1, if_pos h2, if_pos hv, Memory.get, if_neg (by omega)]
        · rw [if_neg h1, if_pos h2, if_neg hv, Memory.get, if_neg h, Memory.get, if_neg (by omega)]
      · rw [if_neg h1, if_neg h2, Memory.get, Memory.get, ih]

/-- A write at or above the first admitted address keeps the canonical form. -/
theorem Memory.set_wfFrom (m : List Host.Cell) (lo i : Nat) (v : Byte) (h : Memory.wfFrom lo m = true) (hi : lo ≤ i) :
    Memory.wfFrom lo (Memory.set m i v) = true := by
  induction m generalizing lo with
  | nil => unfold Memory.set; split <;> simp_all [Memory.wfFrom]
  | cons c r ih =>
    obtain ⟨a, u⟩ := c
    have h' := h
    simp only [Memory.wfFrom, Bool.and_eq_true, decide_eq_true_eq] at h'
    have weaken : ∀ (r : List Host.Cell) (p q : Nat), Memory.wfFrom q r = true → p ≤ q → Memory.wfFrom p r = true := by
      intro r
      cases r with
      | nil => intros; rfl
      | cons c r =>
        intro p q h hpq
        simp only [Memory.wfFrom, Bool.and_eq_true, decide_eq_true_eq] at h ⊢
        exact ⟨⟨by omega, h.1.2⟩, h.2⟩
    unfold Memory.set
    by_cases h1 : i < a
    · by_cases hv : v = 0
      · rw [if_pos h1, if_pos hv]; exact h
      · rw [if_pos h1, if_neg hv]
        simp only [Memory.wfFrom, Bool.and_eq_true, decide_eq_true_eq, bne_iff_ne, ne_eq]
        exact ⟨⟨hi, hv⟩, ⟨by omega, by simpa using h'.1.2⟩, h'.2⟩
    · by_cases h2 : a = i
      · by_cases hv : v = 0
        · rw [if_neg h1, if_pos h2, if_pos hv]; exact weaken r lo (a + 1) h'.2 (by omega)
        · rw [if_neg h1, if_pos h2, if_neg hv]
          simp only [Memory.wfFrom, Bool.and_eq_true, decide_eq_true_eq, bne_iff_ne, ne_eq]
          exact ⟨⟨hi, hv⟩, by rw [← h2]; exact h'.2⟩
      · rw [if_neg h1, if_neg h2]
        simp only [Memory.wfFrom, Bool.and_eq_true, decide_eq_true_eq]
        exact ⟨h'.1, ih (a + 1) h'.2 (by omega)⟩

/-- A byte write keeps the canonical form. -/
theorem Memory.set_wf (m : List Host.Cell) (i : Nat) (v : Byte) (h : Memory.wf m = true) : Memory.wf (Memory.set m i v) = true :=
  Memory.set_wfFrom m 0 i v h (Nat.zero_le i)

/-- A write of bytes keeps the canonical form. -/
theorem Memory.setBytes_wf (bs : List Byte) (m : List Host.Cell) (a : Nat) (h : Memory.wf m = true) :
    Memory.wf (Memory.setBytes m a bs) = true := by
  induction bs generalizing m a with
  | nil => exact h
  | cons b r ih => exact ih _ _ (Memory.set_wf m a b h)

/-- A masked write of bytes keeps the canonical form. -/
theorem Memory.setMasked_wf (bs : List Byte) (m : List Host.Cell) (a k : Nat) (h : Memory.wf m = true) :
    Memory.wf (Memory.setMasked m a k bs) = true := by
  induction bs generalizing m a k with
  | nil => exact h
  | cons b r ih =>
    unfold Memory.setMasked
    refine ih _ _ _ ?_
    split
    · exact Memory.set_wf m a b h
    · exact h

/-- A selection of the cells of a memory in canonical form is in canonical form. -/
theorem Memory.filter_wf (p : Host.Cell → Bool) (m : List Host.Cell) (h : Memory.wf m = true) : Memory.wf (m.filter p) = true := by
  have aux : ∀ (m : List Host.Cell) (lo lo' : Nat), Memory.wfFrom lo m = true → lo' ≤ lo → Memory.wfFrom lo' (m.filter p) = true := by
    intro m
    induction m with
    | nil => intros; rfl
    | cons c r ih =>
      intro lo lo' h hle
      simp only [Memory.wfFrom, Bool.and_eq_true, decide_eq_true_eq] at h
      by_cases hc : p c = true
      · rw [List.filter_cons_of_pos hc]
        simp only [Memory.wfFrom, Bool.and_eq_true, decide_eq_true_eq]
        exact ⟨⟨by omega, h.1.2⟩, ih _ _ h.2 (Nat.le_refl _)⟩
      · rw [List.filter_cons_of_neg hc]
        exact ih _ _ h.2 (by omega)
  exact aux m 0 0 h (Nat.le_refl 0)

/-- Bytes outside a written range are unchanged. -/
theorem Memory.get_setBytes_outside (bs : List Byte) (m : List Host.Cell) (a j : Nat) (h : j < a ∨ a + bs.length ≤ j) :
    Memory.get (Memory.setBytes m a bs) j = Memory.get m j := by
  induction bs generalizing m a with
  | nil => rfl
  | cons b r ih =>
    rw [Memory.setBytes, ih _ _ (by simp only [List.length_cons] at h; omega)]
    exact Memory.get_set_other m a j b (by simp only [List.length_cons] at h; omega)

/-- The bytes of a written range are read back. -/
theorem Memory.get_setBytes_inside (bs : List Byte) (m : List Host.Cell) (a k : Nat) (hk : k < bs.length) (h : Memory.wf m = true) :
    Memory.get (Memory.setBytes m a bs) (a + k) = bs.getD k 0 := by
  induction bs generalizing m a k with
  | nil => exact absurd hk (Nat.not_lt_zero k)
  | cons b r ih =>
    cases k with
    | zero =>
      rw [Memory.setBytes, Memory.get_setBytes_outside r _ _ _ (by omega)]
      exact Memory.get_set_same m a b h
    | succ k =>
      rw [Memory.setBytes, show a + (k + 1) = a + 1 + k by omega, ih _ _ k (by simpa using hk) (Memory.set_wf m a b h)]
      rfl

end Sys2Proof.Machine
end

