-- ==== Sys2Proof/Laws/PerInstr.lean ====
section
/-! SUPPORT. The family RoundTrip: an instruction's word decodes to the instruction. -/

namespace Sys2Proof.Laws.RoundTrip

/-- The word that the encoder gives a well-formed instruction decodes to it; a step without a word has nothing to say. -/
def Statement (i : Instr) : Prop := ∀ w : Word, encode i = some w → i.flaw = none → decode w = .ok i

theorem add (d : BitVec 5) (a : BitVec 5) (b : BitVec 5) : Statement (.add d a b) := by
  intro w h hf
  obtain rfl := Option.some.inj h
  refine decode_of_candidate ?_ hf
  unfold candidate
  rw [field_6_5_5_5_11_at_26_6]
  show decAlu _ = _
  rw [decAlu, field_6_5_5_5_11_at_0_6]
  show z _ 6 5 (.ok _) = _
  rw [z, if_pos ((field_6_5_5_5_11_at_6_5 ..).trans (by decide))]
  show Except.ok _ = _
  rw [field_6_5_5_5_11_at_21_5, field_6_5_5_5_11_at_16_5, field_6_5_5_5_11_at_11_5]

theorem sub (d : BitVec 5) (a : BitVec 5) (b : BitVec 5) : Statement (.sub d a b) := by
  intro w h hf
  obtain rfl := Option.some.inj h
  refine decode_of_candidate ?_ hf
  unfold candidate
  rw [field_6_5_5_5_11_at_26_6]
  show decAlu _ = _
  rw [decAlu, field_6_5_5_5_11_at_0_6]
  show z _ 6 5 (.ok _) = _
  rw [z, if_pos ((field_6_5_5_5_11_at_6_5 ..).trans (by decide))]
  show Except.ok _ = _
  rw [field_6_5_5_5_11_at_21_5, field_6_5_5_5_11_at_16_5, field_6_5_5_5_11_at_11_5]

theorem and (d : BitVec 5) (a : BitVec 5) (b : BitVec 5) : Statement (.and d a b) := by
  intro w h hf
  obtain rfl := Option.some.inj h
  refine decode_of_candidate ?_ hf
  unfold candidate
  rw [field_6_5_5_5_11_at_26_6]
  show decAlu _ = _
  rw [decAlu, field_6_5_5_5_11_at_0_6]
  show z _ 6 5 (.ok _) = _
  rw [z, if_pos ((field_6_5_5_5_11_at_6_5 ..).trans (by decide))]
  show Except.ok _ = _
  rw [field_6_5_5_5_11_at_21_5, field_6_5_5_5_11_at_16_5, field_6_5_5_5_11_at_11_5]

theorem or (d : BitVec 5) (a : BitVec 5) (b : BitVec 5) : Statement (.or d a b) := by
  intro w h hf
  obtain rfl := Option.some.inj h
  refine decode_of_candidate ?_ hf
  unfold candidate
  rw [field_6_5_5_5_11_at_26_6]
  show decAlu _ = _
  rw [decAlu, field_6_5_5_5_11_at_0_6]
  show z _ 6 5 (.ok _) = _
  rw [z, if_pos ((field_6_5_5_5_11_at_6_5 ..).trans (by decide))]
  show Except.ok _ = _
  rw [field_6_5_5_5_11_at_21_5, field_6_5_5_5_11_at_16_5, field_6_5_5_5_11_at_11_5]

theorem xor (d : BitVec 5) (a : BitVec 5) (b : BitVec 5) : Statement (.xor d a b) := by
  intro w h hf
  obtain rfl := Option.some.inj h
  refine decode_of_candidate ?_ hf
  unfold candidate
  rw [field_6_5_5_5_11_at_26_6]
  show decAlu _ = _
  rw [decAlu, field_6_5_5_5_11_at_0_6]
  show z _ 6 5 (.ok _) = _
  rw [z, if_pos ((field_6_5_5_5_11_at_6_5 ..).trans (by decide))]
  show Except.ok _ = _
  rw [field_6_5_5_5_11_at_21_5, field_6_5_5_5_11_at_16_5, field_6_5_5_5_11_at_11_5]

theorem andn (d : BitVec 5) (a : BitVec 5) (b : BitVec 5) : Statement (.andn d a b) := by
  intro w h hf
  obtain rfl := Option.some.inj h
  refine decode_of_candidate ?_ hf
  unfold candidate
  rw [field_6_5_5_5_11_at_26_6]
  show decAlu _ = _
  rw [decAlu, field_6_5_5_5_11_at_0_6]
  show z _ 6 5 (.ok _) = _
  rw [z, if_pos ((field_6_5_5_5_11_at_6_5 ..).trans (by decide))]
  show Except.ok _ = _
  rw [field_6_5_5_5_11_at_21_5, field_6_5_5_5_11_at_16_5, field_6_5_5_5_11_at_11_5]

theorem orn (d : BitVec 5) (a : BitVec 5) (b : BitVec 5) : Statement (.orn d a b) := by
  intro w h hf
  obtain rfl := Option.some.inj h
  refine decode_of_candidate ?_ hf
  unfold candidate
  rw [field_6_5_5_5_11_at_26_6]
  show decAlu _ = _
  rw [decAlu, field_6_5_5_5_11_at_0_6]
  show z _ 6 5 (.ok _) = _
  rw [z, if_pos ((field_6_5_5_5_11_at_6_5 ..).trans (by decide))]
  show Except.ok _ = _
  rw [field_6_5_5_5_11_at_21_5, field_6_5_5_5_11_at_16_5, field_6_5_5_5_11_at_11_5]

theorem sll (d : BitVec 5) (a : BitVec 5) (b : BitVec 5) : Statement (.sll d a b) := by
  intro w h hf
  obtain rfl := Option.some.inj h
  refine decode_of_candidate ?_ hf
  unfold candidate
  rw [field_6_5_5_5_11_at_26_6]
  show decAlu _ = _
  rw [decAlu, field_6_5_5_5_11_at_0_6]
  show z _ 6 5 (.ok _) = _
  rw [z, if_pos ((field_6_5_5_5_11_at_6_5 ..).trans (by decide))]
  show Except.ok _ = _
  rw [field_6_5_5_5_11_at_21_5, field_6_5_5_5_11_at_16_5, field_6_5_5_5_11_at_11_5]

theorem srl (d : BitVec 5) (a : BitVec 5) (b : BitVec 5) : Statement (.srl d a b) := by
  intro w h hf
  obtain rfl := Option.some.inj h
  refine decode_of_candidate ?_ hf
  unfold candidate
  rw [field_6_5_5_5_11_at_26_6]
  show decAlu _ = _
  rw [decAlu, field_6_5_5_5_11_at_0_6]
  show z _ 6 5 (.ok _) = _
  rw [z, if_pos ((field_6_5_5_5_11_at_6_5 ..).trans (by decide))]
  show Except.ok _ = _
  rw [field_6_5_5_5_11_at_21_5, field_6_5_5_5_11_at_16_5, field_6_5_5_5_11_at_11_5]

theorem sra (d : BitVec 5) (a : BitVec 5) (b : BitVec 5) : Statement (.sra d a b) := by
  intro w h hf
  obtain rfl := Option.some.inj h
  refine decode_of_candidate ?_ hf
  unfold candidate
  rw [field_6_5_5_5_11_at_26_6]
  show decAlu _ = _
  rw [decAlu, field_6_5_5_5_11_at_0_6]
  show z _ 6 5 (.ok _) = _
  rw [z, if_pos ((field_6_5_5_5_11_at_6_5 ..).trans (by decide))]
  show Except.ok _ = _
  rw [field_6_5_5_5_11_at_21_5, field_6_5_5_5_11_at_16_5, field_6_5_5_5_11_at_11_5]

theorem slt (d : BitVec 5) (a : BitVec 5) (b : BitVec 5) : Statement (.slt d a b) := by
  intro w h hf
  obtain rfl := Option.some.inj h
  refine decode_of_candidate ?_ hf
  unfold candidate
  rw [field_6_5_5_5_11_at_26_6]
  show decAlu _ = _
  rw [decAlu, field_6_5_5_5_11_at_0_6]
  show z _ 6 5 (.ok _) = _
  rw [z, if_pos ((field_6_5_5_5_11_at_6_5 ..).trans (by decide))]
  show Except.ok _ = _
  rw [field_6_5_5_5_11_at_21_5, field_6_5_5_5_11_at_16_5, field_6_5_5_5_11_at_11_5]

theorem sltu (d : BitVec 5) (a : BitVec 5) (b : BitVec 5) : Statement (.sltu d a b) := by
  intro w h hf
  obtain rfl := Option.some.inj h
  refine decode_of_candidate ?_ hf
  unfold candidate
  rw [field_6_5_5_5_11_at_26_6]
  show decAlu _ = _
  rw [decAlu, field_6_5_5_5_11_at_0_6]
  show z _ 6 5 (.ok _) = _
  rw [z, if_pos ((field_6_5_5_5_11_at_6_5 ..).trans (by decide))]
  show Except.ok _ = _
  rw [field_6_5_5_5_11_at_21_5, field_6_5_5_5_11_at_16_5, field_6_5_5_5_11_at_11_5]

theorem min (d : BitVec 5) (a : BitVec 5) (b : BitVec 5) : Statement (.min d a b) := by
  intro w h hf
  obtain rfl := Option.some.inj h
  refine decode_of_candidate ?_ hf
  unfold candidate
  rw [field_6_5_5_5_11_at_26_6]
  show decAlu _ = _
  rw [decAlu, field_6_5_5_5_11_at_0_6]
  show z _ 6 5 (.ok _) = _
  rw [z, if_pos ((field_6_5_5_5_11_at_6_5 ..).trans (by decide))]
  show Except.ok _ = _
  rw [field_6_5_5_5_11_at_21_5, field_6_5_5_5_11_at_16_5, field_6_5_5_5_11_at_11_5]

theorem max (d : BitVec 5) (a : BitVec 5) (b : BitVec 5) : Statement (.max d a b) := by
  intro w h hf
  obtain rfl := Option.some.inj h
  refine decode_of_candidate ?_ hf
  unfold candidate
  rw [field_6_5_5_5_11_at_26_6]
  show decAlu _ = _
  rw [decAlu, field_6_5_5_5_11_at_0_6]
  show z _ 6 5 (.ok _) = _
  rw [z, if_pos ((field_6_5_5_5_11_at_6_5 ..).trans (by decide))]
  show Except.ok _ = _
  rw [field_6_5_5_5_11_at_21_5, field_6_5_5_5_11_at_16_5, field_6_5_5_5_11_at_11_5]

theorem minu (d : BitVec 5) (a : BitVec 5) (b : BitVec 5) : Statement (.minu d a b) := by
  intro w h hf
  obtain rfl := Option.some.inj h
  refine decode_of_candidate ?_ hf
  unfold candidate
  rw [field_6_5_5_5_11_at_26_6]
  show decAlu _ = _
  rw [decAlu, field_6_5_5_5_11_at_0_6]
  show z _ 6 5 (.ok _) = _
  rw [z, if_pos ((field_6_5_5_5_11_at_6_5 ..).trans (by decide))]
  show Except.ok _ = _
  rw [field_6_5_5_5_11_at_21_5, field_6_5_5_5_11_at_16_5, field_6_5_5_5_11_at_11_5]

theorem maxu (d : BitVec 5) (a : BitVec 5) (b : BitVec 5) : Statement (.maxu d a b) := by
  intro w h hf
  obtain rfl := Option.some.inj h
  refine decode_of_candidate ?_ hf
  unfold candidate
  rw [field_6_5_5_5_11_at_26_6]
  show decAlu _ = _
  rw [decAlu, field_6_5_5_5_11_at_0_6]
  show z _ 6 5 (.ok _) = _
  rw [z, if_pos ((field_6_5_5_5_11_at_6_5 ..).trans (by decide))]
  show Except.ok _ = _
  rw [field_6_5_5_5_11_at_21_5, field_6_5_5_5_11_at_16_5, field_6_5_5_5_11_at_11_5]

theorem addw (d : BitVec 5) (a : BitVec 5) (b : BitVec 5) : Statement (.addw d a b) := by
  intro w h hf
  obtain rfl := Option.some.inj h
  refine decode_of_candidate ?_ hf
  unfold candidate
  rw [field_6_5_5_5_11_at_26_6]
  show decAlu _ = _
  rw [decAlu, field_6_5_5_5_11_at_0_6]
  show z _ 6 5 (.ok _) = _
  rw [z, if_pos ((field_6_5_5_5_11_at_6_5 ..).trans (by decide))]
  show Except.ok _ = _
  rw [field_6_5_5_5_11_at_21_5, field_6_5_5_5_11_at_16_5, field_6_5_5_5_11_at_11_5]

theorem subw (d : BitVec 5) (a : BitVec 5) (b : BitVec 5) : Statement (.subw d a b) := by
  intro w h hf
  obtain rfl := Option.some.inj h
  refine decode_of_candidate ?_ hf
  unfold candidate
  rw [field_6_5_5_5_11_at_26_6]
  show decAlu _ = _
  rw [decAlu, field_6_5_5_5_11_at_0_6]
  show z _ 6 5 (.ok _) = _
  rw [z, if_pos ((field_6_5_5_5_11_at_6_5 ..).trans (by decide))]
  show Except.ok _ = _
  rw [field_6_5_5_5_11_at_21_5, field_6_5_5_5_11_at_16_5, field_6_5_5_5_11_at_11_5]

theorem sllw (d : BitVec 5) (a : BitVec 5) (b : BitVec 5) : Statement (.sllw d a b) := by
  intro w h hf
  obtain rfl := Option.some.inj h
  refine decode_of_candidate ?_ hf
  unfold candidate
  rw [field_6_5_5_5_11_at_26_6]
  show decAlu _ = _
  rw [decAlu, field_6_5_5_5_11_at_0_6]
  show z _ 6 5 (.ok _) = _
  rw [z, if_pos ((field_6_5_5_5_11_at_6_5 ..).trans (by decide))]
  show Except.ok _ = _
  rw [field_6_5_5_5_11_at_21_5, field_6_5_5_5_11_at_16_5, field_6_5_5_5_11_at_11_5]

theorem srlw (d : BitVec 5) (a : BitVec 5) (b : BitVec 5) : Statement (.srlw d a b) := by
  intro w h hf
  obtain rfl := Option.some.inj h
  refine decode_of_candidate ?_ hf
  unfold candidate
  rw [field_6_5_5_5_11_at_26_6]
  show decAlu _ = _
  rw [decAlu, field_6_5_5_5_11_at_0_6]
  show z _ 6 5 (.ok _) = _
  rw [z, if_pos ((field_6_5_5_5_11_at_6_5 ..).trans (by decide))]
  show Except.ok _ = _
  rw [field_6_5_5_5_11_at_21_5, field_6_5_5_5_11_at_16_5, field_6_5_5_5_11_at_11_5]

theorem sraw (d : BitVec 5) (a : BitVec 5) (b : BitVec 5) : Statement (.sraw d a b) := by
  intro w h hf
  obtain rfl := Option.some.inj h
  refine decode_of_candidate ?_ hf
  unfold candidate
  rw [field_6_5_5_5_11_at_26_6]
  show decAlu _ = _
  rw [decAlu, field_6_5_5_5_11_at_0_6]
  show z _ 6 5 (.ok _) = _
  rw [z, if_pos ((field_6_5_5_5_11_at_6_5 ..).trans (by decide))]
  show Except.ok _ = _
  rw [field_6_5_5_5_11_at_21_5, field_6_5_5_5_11_at_16_5, field_6_5_5_5_11_at_11_5]

theorem addi (d : BitVec 5) (a : BitVec 5) (i : BitVec 16) : Statement (.addi d a i) := by
  intro w h hf
  obtain rfl := Option.some.inj h
  refine decode_of_candidate ?_ hf
  unfold candidate
  rw [field_6_5_5_16_at_26_6]
  show Except.ok _ = _
  rw [field_6_5_5_16_at_21_5, field_6_5_5_16_at_16_5, field_6_5_5_16_at_0_16]

theorem andi (d : BitVec 5) (a : BitVec 5) (i : BitVec 16) : Statement (.andi d a i) := by
  intro w h hf
  obtain rfl := Option.some.inj h
  refine decode_of_candidate ?_ hf
  unfold candidate
  rw [field_6_5_5_16_at_26_6]
  show Except.ok _ = _
  rw [field_6_5_5_16_at_21_5, field_6_5_5_16_at_16_5, field_6_5_5_16_at_0_16]

theorem ori (d : BitVec 5) (a : BitVec 5) (i : BitVec 16) : Statement (.ori d a i) := by
  intro w h hf
  obtain rfl := Option.some.inj h
  refine decode_of_candidate ?_ hf
  unfold candidate
  rw [field_6_5_5_16_at_26_6]
  show Except.ok _ = _
  rw [field_6_5_5_16_at_21_5, field_6_5_5_16_at_16_5, field_6_5_5_16_at_0_16]

theorem xori (d : BitVec 5) (a : BitVec 5) (i : BitVec 16) : Statement (.xori d a i) := by
  intro w h hf
  obtain rfl := Option.some.inj h
  refine decode_of_candidate ?_ hf
  unfold candidate
  rw [field_6_5_5_16_at_26_6]
  show Except.ok _ = _
  rw [field_6_5_5_16_at_21_5, field_6_5_5_16_at_16_5, field_6_5_5_16_at_0_16]

theorem slli (d : BitVec 5) (a : BitVec 5) (n : BitVec 6) : Statement (.slli d a n) := by
  intro w h hf
  obtain rfl := Option.some.inj h
  refine decode_of_candidate ?_ hf
  unfold candidate
  rw [field_6_5_5_10_6_at_26_6]
  show decShift _ = _
  rw [decShift, field_6_5_5_10_6_at_14_2]
  show z _ 6 8 (.ok _) = _
  rw [z, if_pos ((field_6_5_5_10_6_at_6_8 ..).trans (by decide))]
  show Except.ok _ = _
  rw [field_6_5_5_10_6_at_21_5, field_6_5_5_10_6_at_16_5, field_6_5_5_10_6_at_0_6]

theorem srli (d : BitVec 5) (a : BitVec 5) (n : BitVec 6) : Statement (.srli d a n) := by
  intro w h hf
  obtain rfl := Option.some.inj h
  refine decode_of_candidate ?_ hf
  unfold candidate
  rw [field_6_5_5_10_6_at_26_6]
  show decShift _ = _
  rw [decShift, field_6_5_5_10_6_at_14_2]
  show z _ 6 8 (.ok _) = _
  rw [z, if_pos ((field_6_5_5_10_6_at_6_8 ..).trans (by decide))]
  show Except.ok _ = _
  rw [field_6_5_5_10_6_at_21_5, field_6_5_5_10_6_at_16_5, field_6_5_5_10_6_at_0_6]

theorem srai (d : BitVec 5) (a : BitVec 5) (n : BitVec 6) : Statement (.srai d a n) := by
  intro w h hf
  obtain rfl := Option.some.inj h
  refine decode_of_candidate ?_ hf
  unfold candidate
  rw [field_6_5_5_10_6_at_26_6]
  show decShift _ = _
  rw [decShift, field_6_5_5_10_6_at_14_2]
  show z _ 6 8 (.ok _) = _
  rw [z, if_pos ((field_6_5_5_10_6_at_6_8 ..).trans (by decide))]
  show Except.ok _ = _
  rw [field_6_5_5_10_6_at_21_5, field_6_5_5_10_6_at_16_5, field_6_5_5_10_6_at_0_6]

theorem slti (d : BitVec 5) (a : BitVec 5) (i : BitVec 16) : Statement (.slti d a i) := by
  intro w h hf
  obtain rfl := Option.some.inj h
  refine decode_of_candidate ?_ hf
  unfold candidate
  rw [field_6_5_5_16_at_26_6]
  show Except.ok _ = _
  rw [field_6_5_5_16_at_21_5, field_6_5_5_16_at_16_5, field_6_5_5_16_at_0_16]

theorem sltiu (d : BitVec 5) (a : BitVec 5) (i : BitVec 16) : Statement (.sltiu d a i) := by
  intro w h hf
  obtain rfl := Option.some.inj h
  refine decode_of_candidate ?_ hf
  unfold candidate
  rw [field_6_5_5_16_at_26_6]
  show Except.ok _ = _
  rw [field_6_5_5_16_at_21_5, field_6_5_5_16_at_16_5, field_6_5_5_16_at_0_16]

theorem lhi (d : BitVec 5) (i : BitVec 16) : Statement (.lhi d i) := by
  intro w h hf
  obtain rfl := Option.some.inj h
  refine decode_of_candidate ?_ hf
  unfold candidate
  rw [field_6_5_5_16_at_26_6]
  show z _ 16 5 (.ok _) = _
  rw [z, if_pos ((field_6_5_5_16_at_16_5 ..).trans (by decide))]
  show Except.ok _ = _
  rw [field_6_5_5_16_at_21_5, field_6_5_5_16_at_0_16]

theorem lpc (d : BitVec 5) (i : BitVec 16) : Statement (.lpc d i) := by
  intro w h hf
  obtain rfl := Option.some.inj h
  refine decode_of_candidate ?_ hf
  unfold candidate
  rw [field_6_5_5_16_at_26_6]
  show z _ 16 5 (.ok _) = _
  rw [z, if_pos ((field_6_5_5_16_at_16_5 ..).trans (by decide))]
  show Except.ok _ = _
  rw [field_6_5_5_16_at_21_5, field_6_5_5_16_at_0_16]

theorem mul (d : BitVec 5) (a : BitVec 5) (b : BitVec 5) : Statement (.mul d a b) := by
  intro w h hf
  obtain rfl := Option.some.inj h
  refine decode_of_candidate ?_ hf
  unfold candidate
  rw [field_6_5_5_5_11_at_26_6]
  show decMul _ = _
  rw [decMul, field_6_5_5_5_11_at_0_6]
  show z _ 6 5 (.ok _) = _
  rw [z, if_pos ((field_6_5_5_5_11_at_6_5 ..).trans (by decide))]
  show Except.ok _ = _
  rw [field_6_5_5_5_11_at_21_5, field_6_5_5_5_11_at_16_5, field_6_5_5_5_11_at_11_5]

theorem mulh (d : BitVec 5) (a : BitVec 5) (b : BitVec 5) : Statement (.mulh d a b) := by
  intro w h hf
  obtain rfl := Option.some.inj h
  refine decode_of_candidate ?_ hf
  unfold candidate
  rw [field_6_5_5_5_11_at_26_6]
  show decMul _ = _
  rw [decMul, field_6_5_5_5_11_at_0_6]
  show z _ 6 5 (.ok _) = _
  rw [z, if_pos ((field_6_5_5_5_11_at_6_5 ..).trans (by decide))]
  show Except.ok _ = _
  rw [field_6_5_5_5_11_at_21_5, field_6_5_5_5_11_at_16_5, field_6_5_5_5_11_at_11_5]

theorem mulhu (d : BitVec 5) (a : BitVec 5) (b : BitVec 5) : Statement (.mulhu d a b) := by
  intro w h hf
  obtain rfl := Option.some.inj h
  refine decode_of_candidate ?_ hf
  unfold candidate
  rw [field_6_5_5_5_11_at_26_6]
  show decMul _ = _
  rw [decMul, field_6_5_5_5_11_at_0_6]
  show z _ 6 5 (.ok _) = _
  rw [z, if_pos ((field_6_5_5_5_11_at_6_5 ..).trans (by decide))]
  show Except.ok _ = _
  rw [field_6_5_5_5_11_at_21_5, field_6_5_5_5_11_at_16_5, field_6_5_5_5_11_at_11_5]

theorem mulhsu (d : BitVec 5) (a : BitVec 5) (b : BitVec 5) : Statement (.mulhsu d a b) := by
  intro w h hf
  obtain rfl := Option.some.inj h
  refine decode_of_candidate ?_ hf
  unfold candidate
  rw [field_6_5_5_5_11_at_26_6]
  show decMul _ = _
  rw [decMul, field_6_5_5_5_11_at_0_6]
  show z _ 6 5 (.ok _) = _
  rw [z, if_pos ((field_6_5_5_5_11_at_6_5 ..).trans (by decide))]
  show Except.ok _ = _
  rw [field_6_5_5_5_11_at_21_5, field_6_5_5_5_11_at_16_5, field_6_5_5_5_11_at_11_5]

theorem div (d : BitVec 5) (a : BitVec 5) (b : BitVec 5) : Statement (.div d a b) := by
  intro w h hf
  obtain rfl := Option.some.inj h
  refine decode_of_candidate ?_ hf
  unfold candidate
  rw [field_6_5_5_5_11_at_26_6]
  show decMul _ = _
  rw [decMul, field_6_5_5_5_11_at_0_6]
  show z _ 6 5 (.ok _) = _
  rw [z, if_pos ((field_6_5_5_5_11_at_6_5 ..).trans (by decide))]
  show Except.ok _ = _
  rw [field_6_5_5_5_11_at_21_5, field_6_5_5_5_11_at_16_5, field_6_5_5_5_11_at_11_5]

theorem divu (d : BitVec 5) (a : BitVec 5) (b : BitVec 5) : Statement (.divu d a b) := by
  intro w h hf
  obtain rfl := Option.some.inj h
  refine decode_of_candidate ?_ hf
  unfold candidate
  rw [field_6_5_5_5_11_at_26_6]
  show decMul _ = _
  rw [decMul, field_6_5_5_5_11_at_0_6]
  show z _ 6 5 (.ok _) = _
  rw [z, if_pos ((field_6_5_5_5_11_at_6_5 ..).trans (by decide))]
  show Except.ok _ = _
  rw [field_6_5_5_5_11_at_21_5, field_6_5_5_5_11_at_16_5, field_6_5_5_5_11_at_11_5]

theorem rem (d : BitVec 5) (a : BitVec 5) (b : BitVec 5) : Statement (.rem d a b) := by
  intro w h hf
  obtain rfl := Option.some.inj h
  refine decode_of_candidate ?_ hf
  unfold candidate
  rw [field_6_5_5_5_11_at_26_6]
  show decMul _ = _
  rw [decMul, field_6_5_5_5_11_at_0_6]
  show z _ 6 5 (.ok _) = _
  rw [z, if_pos ((field_6_5_5_5_11_at_6_5 ..).trans (by decide))]
  show Except.ok _ = _
  rw [field_6_5_5_5_11_at_21_5, field_6_5_5_5_11_at_16_5, field_6_5_5_5_11_at_11_5]

theorem remu (d : BitVec 5) (a : BitVec 5) (b : BitVec 5) : Statement (.remu d a b) := by
  intro w h hf
  obtain rfl := Option.some.inj h
  refine decode_of_candidate ?_ hf
  unfold candidate
  rw [field_6_5_5_5_11_at_26_6]
  show decMul _ = _
  rw [decMul, field_6_5_5_5_11_at_0_6]
  show z _ 6 5 (.ok _) = _
  rw [z, if_pos ((field_6_5_5_5_11_at_6_5 ..).trans (by decide))]
  show Except.ok _ = _
  rw [field_6_5_5_5_11_at_21_5, field_6_5_5_5_11_at_16_5, field_6_5_5_5_11_at_11_5]

theorem mulw (d : BitVec 5) (a : BitVec 5) (b : BitVec 5) : Statement (.mulw d a b) := by
  intro w h hf
  obtain rfl := Option.some.inj h
  refine decode_of_candidate ?_ hf
  unfold candidate
  rw [field_6_5_5_5_11_at_26_6]
  show decMul _ = _
  rw [decMul, field_6_5_5_5_11_at_0_6]
  show z _ 6 5 (.ok _) = _
  rw [z, if_pos ((field_6_5_5_5_11_at_6_5 ..).trans (by decide))]
  show Except.ok _ = _
  rw [field_6_5_5_5_11_at_21_5, field_6_5_5_5_11_at_16_5, field_6_5_5_5_11_at_11_5]

theorem divw (d : BitVec 5) (a : BitVec 5) (b : BitVec 5) : Statement (.divw d a b) := by
  intro w h hf
  obtain rfl := Option.some.inj h
  refine decode_of_candidate ?_ hf
  unfold candidate
  rw [field_6_5_5_5_11_at_26_6]
  show decMul _ = _
  rw [decMul, field_6_5_5_5_11_at_0_6]
  show z _ 6 5 (.ok _) = _
  rw [z, if_pos ((field_6_5_5_5_11_at_6_5 ..).trans (by decide))]
  show Except.ok _ = _
  rw [field_6_5_5_5_11_at_21_5, field_6_5_5_5_11_at_16_5, field_6_5_5_5_11_at_11_5]

theorem remw (d : BitVec 5) (a : BitVec 5) (b : BitVec 5) : Statement (.remw d a b) := by
  intro w h hf
  obtain rfl := Option.some.inj h
  refine decode_of_candidate ?_ hf
  unfold candidate
  rw [field_6_5_5_5_11_at_26_6]
  show decMul _ = _
  rw [decMul, field_6_5_5_5_11_at_0_6]
  show z _ 6 5 (.ok _) = _
  rw [z, if_pos ((field_6_5_5_5_11_at_6_5 ..).trans (by decide))]
  show Except.ok _ = _
  rw [field_6_5_5_5_11_at_21_5, field_6_5_5_5_11_at_16_5, field_6_5_5_5_11_at_11_5]

theorem clz (d : BitVec 5) (a : BitVec 5) : Statement (.clz d a) := by
  intro w h hf
  obtain rfl := Option.some.inj h
  refine decode_of_candidate ?_ hf
  unfold candidate
  rw [field_6_5_5_16_at_26_6]
  show decBit _ = _
  rw [decBit, field_6_5_5_16_at_0_6]
  show z _ 6 10 (.ok _) = _
  rw [z, if_pos ((field_6_5_5_16_at_6_10 ..).trans (by decide))]
  show Except.ok _ = _
  rw [field_6_5_5_16_at_21_5, field_6_5_5_16_at_16_5]

theorem ctz (d : BitVec 5) (a : BitVec 5) : Statement (.ctz d a) := by
  intro w h hf
  obtain rfl := Option.some.inj h
  refine decode_of_candidate ?_ hf
  unfold candidate
  rw [field_6_5_5_16_at_26_6]
  show decBit _ = _
  rw [decBit, field_6_5_5_16_at_0_6]
  show z _ 6 10 (.ok _) = _
  rw [z, if_pos ((field_6_5_5_16_at_6_10 ..).trans (by decide))]
  show Except.ok _ = _
  rw [field_6_5_5_16_at_21_5, field_6_5_5_16_at_16_5]

theorem popc (d : BitVec 5) (a : BitVec 5) : Statement (.popc d a) := by
  intro w h hf
  obtain rfl := Option.some.inj h
  refine decode_of_candidate ?_ hf
  unfold candidate
  rw [field_6_5_5_16_at_26_6]
  show decBit _ = _
  rw [decBit, field_6_5_5_16_at_0_6]
  show z _ 6 10 (.ok _) = _
  rw [z, if_pos ((field_6_5_5_16_at_6_10 ..).trans (by decide))]
  show Except.ok _ = _
  rw [field_6_5_5_16_at_21_5, field_6_5_5_16_at_16_5]

theorem brev (d : BitVec 5) (a : BitVec 5) : Statement (.brev d a) := by
  intro w h hf
  obtain rfl := Option.some.inj h
  refine decode_of_candidate ?_ hf
  unfold candidate
  rw [field_6_5_5_16_at_26_6]
  show decBit _ = _
  rw [decBit, field_6_5_5_16_at_0_6]
  show z _ 6 10 (.ok _) = _
  rw [z, if_pos ((field_6_5_5_16_at_6_10 ..).trans (by decide))]
  show Except.ok _ = _
  rw [field_6_5_5_16_at_21_5, field_6_5_5_16_at_16_5]

theorem bswap (d : BitVec 5) (a : BitVec 5) : Statement (.bswap d a) := by
  intro w h hf
  obtain rfl := Option.some.inj h
  refine decode_of_candidate ?_ hf
  unfold candidate
  rw [field_6_5_5_16_at_26_6]
  show decBit _ = _
  rw [decBit, field_6_5_5_16_at_0_6]
  show z _ 6 10 (.ok _) = _
  rw [z, if_pos ((field_6_5_5_16_at_6_10 ..).trans (by decide))]
  show Except.ok _ = _
  rw [field_6_5_5_16_at_21_5, field_6_5_5_16_at_16_5]

theorem sxb (d : BitVec 5) (a : BitVec 5) : Statement (.sxb d a) := by
  intro w h hf
  obtain rfl := Option.some.inj h
  refine decode_of_candidate ?_ hf
  unfold candidate
  rw [field_6_5_5_16_at_26_6]
  show decBit _ = _
  rw [decBit, field_6_5_5_16_at_0_6]
  show z _ 6 10 (.ok _) = _
  rw [z, if_pos ((field_6_5_5_16_at_6_10 ..).trans (by decide))]
  show Except.ok _ = _
  rw [field_6_5_5_16_at_21_5, field_6_5_5_16_at_16_5]

theorem sxh (d : BitVec 5) (a : BitVec 5) : Statement (.sxh d a) := by
  intro w h hf
  obtain rfl := Option.some.inj h
  refine decode_of_candidate ?_ hf
  unfold candidate
  rw [field_6_5_5_16_at_26_6]
  show decBit _ = _
  rw [decBit, field_6_5_5_16_at_0_6]
  show z _ 6 10 (.ok _) = _
  rw [z, if_pos ((field_6_5_5_16_at_6_10 ..).trans (by decide))]
  show Except.ok _ = _
  rw [field_6_5_5_16_at_21_5, field_6_5_5_16_at_16_5]

theorem sxw (d : BitVec 5) (a : BitVec 5) : Statement (.sxw d a) := by
  intro w h hf
  obtain rfl := Option.some.inj h
  refine decode_of_candidate ?_ hf
  unfold candidate
  rw [field_6_5_5_16_at_26_6]
  show decBit _ = _
  rw [decBit, field_6_5_5_16_at_0_6]
  show z _ 6 10 (.ok _) = _
  rw [z, if_pos ((field_6_5_5_16_at_6_10 ..).trans (by decide))]
  show Except.ok _ = _
  rw [field_6_5_5_16_at_21_5, field_6_5_5_16_at_16_5]

theorem zxb (d : BitVec 5) (a : BitVec 5) : Statement (.zxb d a) := by
  intro w h hf
  obtain rfl := Option.some.inj h
  refine decode_of_candidate ?_ hf
  unfold candidate
  rw [field_6_5_5_16_at_26_6]
  show decBit _ = _
  rw [decBit, field_6_5_5_16_at_0_6]
  show z _ 6 10 (.ok _) = _
  rw [z, if_pos ((field_6_5_5_16_at_6_10 ..).trans (by decide))]
  show Except.ok _ = _
  rw [field_6_5_5_16_at_21_5, field_6_5_5_16_at_16_5]

theorem zxh (d : BitVec 5) (a : BitVec 5) : Statement (.zxh d a) := by
  intro w h hf
  obtain rfl := Option.some.inj h
  refine decode_of_candidate ?_ hf
  unfold candidate
  rw [field_6_5_5_16_at_26_6]
  show decBit _ = _
  rw [decBit, field_6_5_5_16_at_0_6]
  show z _ 6 10 (.ok _) = _
  rw [z, if_pos ((field_6_5_5_16_at_6_10 ..).trans (by decide))]
  show Except.ok _ = _
  rw [field_6_5_5_16_at_21_5, field_6_5_5_16_at_16_5]

theorem zxw (d : BitVec 5) (a : BitVec 5) : Statement (.zxw d a) := by
  intro w h hf
  obtain rfl := Option.some.inj h
  refine decode_of_candidate ?_ hf
  unfold candidate
  rw [field_6_5_5_16_at_26_6]
  show decBit _ = _
  rw [decBit, field_6_5_5_16_at_0_6]
  show z _ 6 10 (.ok _) = _
  rw [z, if_pos ((field_6_5_5_16_at_6_10 ..).trans (by decide))]
  show Except.ok _ = _
  rw [field_6_5_5_16_at_21_5, field_6_5_5_16_at_16_5]

theorem rol (d : BitVec 5) (a : BitVec 5) (b : BitVec 5) : Statement (.rol d a b) := by
  intro w h hf
  obtain rfl := Option.some.inj h
  refine decode_of_candidate ?_ hf
  unfold candidate
  rw [field_6_5_5_5_11_at_26_6]
  show decBit _ = _
  rw [decBit, field_6_5_5_5_11_at_0_6]
  show z _ 6 5 (.ok _) = _
  rw [z, if_pos ((field_6_5_5_5_11_at_6_5 ..).trans (by decide))]
  show Except.ok _ = _
  rw [field_6_5_5_5_11_at_21_5, field_6_5_5_5_11_at_16_5, field_6_5_5_5_11_at_11_5]

theorem ror (d : BitVec 5) (a : BitVec 5) (b : BitVec 5) : Statement (.ror d a b) := by
  intro w h hf
  obtain rfl := Option.some.inj h
  refine decode_of_candidate ?_ hf
  unfold candidate
  rw [field_6_5_5_5_11_at_26_6]
  show decBit _ = _
  rw [decBit, field_6_5_5_5_11_at_0_6]
  show z _ 6 5 (.ok _) = _
  rw [z, if_pos ((field_6_5_5_5_11_at_6_5 ..).trans (by decide))]
  show Except.ok _ = _
  rw [field_6_5_5_5_11_at_21_5, field_6_5_5_5_11_at_16_5, field_6_5_5_5_11_at_11_5]

theorem fadd (d : BitVec 5) (a : BitVec 5) (b : BitVec 5) (r : BitVec 3) (w : BitVec 2) : Statement (.fadd d a b r w) := by
  intro w h hf
  obtain rfl := Option.some.inj h
  refine decode_of_candidate ?_ hf
  unfold candidate
  rw [field_6_5_5_5_3_2_2_4_at_26_6]
  show decFp _ = _
  rw [decFp, field_6_5_5_5_3_2_2_4_at_0_4]
  show z _ 6 2 (.ok _) = _
  rw [z, if_pos ((field_6_5_5_5_3_2_2_4_at_6_2 ..).trans (by decide))]
  show Except.ok _ = _
  rw [field_6_5_5_5_3_2_2_4_at_21_5, field_6_5_5_5_3_2_2_4_at_16_5, field_6_5_5_5_3_2_2_4_at_11_5, field_6_5_5_5_3_2_2_4_at_8_3, field_6_5_5_5_3_2_2_4_at_4_2]

theorem fsub (d : BitVec 5) (a : BitVec 5) (b : BitVec 5) (r : BitVec 3) (w : BitVec 2) : Statement (.fsub d a b r w) := by
  intro w h hf
  obtain rfl := Option.some.inj h
  refine decode_of_candidate ?_ hf
  unfold candidate
  rw [field_6_5_5_5_3_2_2_4_at_26_6]
  show decFp _ = _
  rw [decFp, field_6_5_5_5_3_2_2_4_at_0_4]
  show z _ 6 2 (.ok _) = _
  rw [z, if_pos ((field_6_5_5_5_3_2_2_4_at_6_2 ..).trans (by decide))]
  show Except.ok _ = _
  rw [field_6_5_5_5_3_2_2_4_at_21_5, field_6_5_5_5_3_2_2_4_at_16_5, field_6_5_5_5_3_2_2_4_at_11_5, field_6_5_5_5_3_2_2_4_at_8_3, field_6_5_5_5_3_2_2_4_at_4_2]

theorem fmul (d : BitVec 5) (a : BitVec 5) (b : BitVec 5) (r : BitVec 3) (w : BitVec 2) : Statement (.fmul d a b r w) := by
  intro w h hf
  obtain rfl := Option.some.inj h
  refine decode_of_candidate ?_ hf
  unfold candidate
  rw [field_6_5_5_5_3_2_2_4_at_26_6]
  show decFp _ = _
  rw [decFp, field_6_5_5_5_3_2_2_4_at_0_4]
  show z _ 6 2 (.ok _) = _
  rw [z, if_pos ((field_6_5_5_5_3_2_2_4_at_6_2 ..).trans (by decide))]
  show Except.ok _ = _
  rw [field_6_5_5_5_3_2_2_4_at_21_5, field_6_5_5_5_3_2_2_4_at_16_5, field_6_5_5_5_3_2_2_4_at_11_5, field_6_5_5_5_3_2_2_4_at_8_3, field_6_5_5_5_3_2_2_4_at_4_2]

theorem fdiv (d : BitVec 5) (a : BitVec 5) (b : BitVec 5) (r : BitVec 3) (w : BitVec 2) : Statement (.fdiv d a b r w) := by
  intro w h hf
  obtain rfl := Option.some.inj h
  refine decode_of_candidate ?_ hf
  unfold candidate
  rw [field_6_5_5_5_3_2_2_4_at_26_6]
  show decFp _ = _
  rw [decFp, field_6_5_5_5_3_2_2_4_at_0_4]
  show z _ 6 2 (.ok _) = _
  rw [z, if_pos ((field_6_5_5_5_3_2_2_4_at_6_2 ..).trans (by decide))]
  show Except.ok _ = _
  rw [field_6_5_5_5_3_2_2_4_at_21_5, field_6_5_5_5_3_2_2_4_at_16_5, field_6_5_5_5_3_2_2_4_at_11_5, field_6_5_5_5_3_2_2_4_at_8_3, field_6_5_5_5_3_2_2_4_at_4_2]

theorem fsqrt (d : BitVec 5) (a : BitVec 5) (r : BitVec 3) (w : BitVec 2) : Statement (.fsqrt d a r w) := by
  intro w h hf
  obtain rfl := Option.some.inj h
  refine decode_of_candidate ?_ hf
  unfold candidate
  rw [field_6_5_5_5_3_2_2_4_at_26_6]
  show decFp _ = _
  rw [decFp, field_6_5_5_5_3_2_2_4_at_0_4]
  show z _ 11 5 (z _ 6 2 (.ok _)) = _
  rw [z, if_pos ((field_6_5_5_5_3_2_2_4_at_11_5 ..).trans (by decide))]
  show z _ 6 2 (.ok _) = _
  rw [z, if_pos ((field_6_5_5_5_3_2_2_4_at_6_2 ..).trans (by decide))]
  show Except.ok _ = _
  rw [field_6_5_5_5_3_2_2_4_at_21_5, field_6_5_5_5_3_2_2_4_at_16_5, field_6_5_5_5_3_2_2_4_at_8_3, field_6_5_5_5_3_2_2_4_at_4_2]

theorem fmin (d : BitVec 5) (a : BitVec 5) (b : BitVec 5) (w : BitVec 2) : Statement (.fmin d a b w) := by
  intro w h hf
  obtain rfl := Option.some.inj h
  refine decode_of_candidate ?_ hf
  unfold candidate
  rw [field_6_5_5_5_5_2_4_at_26_6]
  show decFp _ = _
  rw [decFp, field_6_5_5_5_5_2_4_at_0_4]
  show z _ 6 5 (.ok _) = _
  rw [z, if_pos ((field_6_5_5_5_5_2_4_at_6_5 ..).trans (by decide))]
  show Except.ok _ = _
  rw [field_6_5_5_5_5_2_4_at_21_5, field_6_5_5_5_5_2_4_at_16_5, field_6_5_5_5_5_2_4_at_11_5, field_6_5_5_5_5_2_4_at_4_2]

theorem fmax (d : BitVec 5) (a : BitVec 5) (b : BitVec 5) (w : BitVec 2) : Statement (.fmax d a b w) := by
  intro w h hf
  obtain rfl := Option.some.inj h
  refine decode_of_candidate ?_ hf
  unfold candidate
  rw [field_6_5_5_5_5_2_4_at_26_6]
  show decFp _ = _
  rw [decFp, field_6_5_5_5_5_2_4_at_0_4]
  show z _ 6 5 (.ok _) = _
  rw [z, if_pos ((field_6_5_5_5_5_2_4_at_6_5 ..).trans (by decide))]
  show Except.ok _ = _
  rw [field_6_5_5_5_5_2_4_at_21_5, field_6_5_5_5_5_2_4_at_16_5, field_6_5_5_5_5_2_4_at_11_5, field_6_5_5_5_5_2_4_at_4_2]

theorem feq (d : BitVec 5) (a : BitVec 5) (b : BitVec 5) (w : BitVec 2) : Statement (.feq d a b w) := by
  intro w h hf
  obtain rfl := Option.some.inj h
  refine decode_of_candidate ?_ hf
  unfold candidate
  rw [field_6_5_5_5_5_2_4_at_26_6]
  show decFp _ = _
  rw [decFp, field_6_5_5_5_5_2_4_at_0_4]
  show z _ 6 5 (.ok _) = _
  rw [z, if_pos ((field_6_5_5_5_5_2_4_at_6_5 ..).trans (by decide))]
  show Except.ok _ = _
  rw [field_6_5_5_5_5_2_4_at_21_5, field_6_5_5_5_5_2_4_at_16_5, field_6_5_5_5_5_2_4_at_11_5, field_6_5_5_5_5_2_4_at_4_2]

theorem flt (d : BitVec 5) (a : BitVec 5) (b : BitVec 5) (w : BitVec 2) : Statement (.flt d a b w) := by
  intro w h hf
  obtain rfl := Option.some.inj h
  refine decode_of_candidate ?_ hf
  unfold candidate
  rw [field_6_5_5_5_5_2_4_at_26_6]
  show decFp _ = _
  rw [decFp, field_6_5_5_5_5_2_4_at_0_4]
  show z _ 6 5 (.ok _) = _
  rw [z, if_pos ((field_6_5_5_5_5_2_4_at_6_5 ..).trans (by decide))]
  show Except.ok _ = _
  rw [field_6_5_5_5_5_2_4_at_21_5, field_6_5_5_5_5_2_4_at_16_5, field_6_5_5_5_5_2_4_at_11_5, field_6_5_5_5_5_2_4_at_4_2]

theorem fle (d : BitVec 5) (a : BitVec 5) (b : BitVec 5) (w : BitVec 2) : Statement (.fle d a b w) := by
  intro w h hf
  obtain rfl := Option.some.inj h
  refine decode_of_candidate ?_ hf
  unfold candidate
  rw [field_6_5_5_5_5_2_4_at_26_6]
  show decFp _ = _
  rw [decFp, field_6_5_5_5_5_2_4_at_0_4]
  show z _ 6 5 (.ok _) = _
  rw [z, if_pos ((field_6_5_5_5_5_2_4_at_6_5 ..).trans (by decide))]
  show Except.ok _ = _
  rw [field_6_5_5_5_5_2_4_at_21_5, field_6_5_5_5_5_2_4_at_16_5, field_6_5_5_5_5_2_4_at_11_5, field_6_5_5_5_5_2_4_at_4_2]

theorem fclass (d : BitVec 5) (a : BitVec 5) (w : BitVec 2) : Statement (.fclass d a w) := by
  intro w h hf
  obtain rfl := Option.some.inj h
  refine decode_of_candidate ?_ hf
  unfold candidate
  rw [field_6_5_5_10_2_4_at_26_6]
  show decFp _ = _
  rw [decFp, field_6_5_5_10_2_4_at_0_4]
  show z _ 6 10 (.ok _) = _
  rw [z, if_pos ((field_6_5_5_10_2_4_at_6_10 ..).trans (by decide))]
  show Except.ok _ = _
  rw [field_6_5_5_10_2_4_at_21_5, field_6_5_5_10_2_4_at_16_5, field_6_5_5_10_2_4_at_4_2]

theorem fcvtI (d : BitVec 5) (a : BitVec 5) (r : BitVec 3) (k : BitVec 2) (w : BitVec 2) : Statement (.fcvtI d a r k w) := by
  intro w h hf
  obtain rfl := Option.some.inj h
  refine decode_of_candidate ?_ hf
  unfold candidate
  rw [field_6_5_5_5_3_2_2_4_at_26_6]
  show decFp _ = _
  rw [decFp, field_6_5_5_5_3_2_2_4_at_0_4]
  show z _ 11 5 (.ok _) = _
  rw [z, if_pos ((field_6_5_5_5_3_2_2_4_at_11_5 ..).trans (by decide))]
  show Except.ok _ = _
  rw [field_6_5_5_5_3_2_2_4_at_21_5, field_6_5_5_5_3_2_2_4_at_16_5, field_6_5_5_5_3_2_2_4_at_8_3, field_6_5_5_5_3_2_2_4_at_6_2, field_6_5_5_5_3_2_2_4_at_4_2]

theorem fcvtF (d : BitVec 5) (a : BitVec 5) (r : BitVec 3) (k : BitVec 2) (w : BitVec 2) : Statement (.fcvtF d a r k w) := by
  intro w h hf
  obtain rfl := Option.some.inj h
  refine decode_of_candidate ?_ hf
  unfold candidate
  rw [field_6_5_5_5_3_2_2_4_at_26_6]
  show decFp _ = _
  rw [decFp, field_6_5_5_5_3_2_2_4_at_0_4]
  show z _ 11 5 (.ok _) = _
  rw [z, if_pos ((field_6_5_5_5_3_2_2_4_at_11_5 ..).trans (by decide))]
  show Except.ok _ = _
  rw [field_6_5_5_5_3_2_2_4_at_21_5, field_6_5_5_5_3_2_2_4_at_16_5, field_6_5_5_5_3_2_2_4_at_8_3, field_6_5_5_5_3_2_2_4_at_6_2, field_6_5_5_5_3_2_2_4_at_4_2]

theorem fcvtW (d : BitVec 5) (a : BitVec 5) (r : BitVec 3) (s : BitVec 2) (w : BitVec 2) : Statement (.fcvtW d a r s w) := by
  intro w h hf
  obtain rfl := Option.some.inj h
  refine decode_of_candidate ?_ hf
  unfold candidate
  rw [field_6_5_5_5_3_2_2_4_at_26_6]
  show decFp _ = _
  rw [decFp, field_6_5_5_5_3_2_2_4_at_0_4]
  show z _ 11 5 (.ok _) = _
  rw [z, if_pos ((field_6_5_5_5_3_2_2_4_at_11_5 ..).trans (by decide))]
  show Except.ok _ = _
  rw [field_6_5_5_5_3_2_2_4_at_21_5, field_6_5_5_5_3_2_2_4_at_16_5, field_6_5_5_5_3_2_2_4_at_8_3, field_6_5_5_5_3_2_2_4_at_6_2, field_6_5_5_5_3_2_2_4_at_4_2]

theorem fma (d : BitVec 5) (a : BitVec 5) (b : BitVec 5) (c : BitVec 5) (w : BitVec 2) : Statement (.fma d a b c w) := by
  intro w h hf
  obtain rfl := Option.some.inj h
  refine decode_of_candidate ?_ hf
  unfold candidate
  rw [field_6_5_5_5_5_2_4_at_26_6]
  show decFused _ = _
  rw [decFused, field_6_5_5_5_5_2_4_at_0_4]
  show Except.ok _ = _
  rw [field_6_5_5_5_5_2_4_at_21_5, field_6_5_5_5_5_2_4_at_16_5, field_6_5_5_5_5_2_4_at_11_5, field_6_5_5_5_5_2_4_at_6_5, field_6_5_5_5_5_2_4_at_4_2]

theorem fms (d : BitVec 5) (a : BitVec 5) (b : BitVec 5) (c : BitVec 5) (w : BitVec 2) : Statement (.fms d a b c w) := by
  intro w h hf
  obtain rfl := Option.some.inj h
  refine decode_of_candidate ?_ hf
  unfold candidate
  rw [field_6_5_5_5_5_2_4_at_26_6]
  show decFused _ = _
  rw [decFused, field_6_5_5_5_5_2_4_at_0_4]
  show Except.ok _ = _
  rw [field_6_5_5_5_5_2_4_at_21_5, field_6_5_5_5_5_2_4_at_16_5, field_6_5_5_5_5_2_4_at_11_5, field_6_5_5_5_5_2_4_at_6_5, field_6_5_5_5_5_2_4_at_4_2]

theorem fnma (d : BitVec 5) (a : BitVec 5) (b : BitVec 5) (c : BitVec 5) (w : BitVec 2) : Statement (.fnma d a b c w) := by
  intro w h hf
  obtain rfl := Option.some.inj h
  refine decode_of_candidate ?_ hf
  unfold candidate
  rw [field_6_5_5_5_5_2_4_at_26_6]
  show decFused _ = _
  rw [decFused, field_6_5_5_5_5_2_4_at_0_4]
  show Except.ok _ = _
  rw [field_6_5_5_5_5_2_4_at_21_5, field_6_5_5_5_5_2_4_at_16_5, field_6_5_5_5_5_2_4_at_11_5, field_6_5_5_5_5_2_4_at_6_5, field_6_5_5_5_5_2_4_at_4_2]

theorem fnms (d : BitVec 5) (a : BitVec 5) (b : BitVec 5) (c : BitVec 5) (w : BitVec 2) : Statement (.fnms d a b c w) := by
  intro w h hf
  obtain rfl := Option.some.inj h
  refine decode_of_candidate ?_ hf
  unfold candidate
  rw [field_6_5_5_5_5_2_4_at_26_6]
  show decFused _ = _
  rw [decFused, field_6_5_5_5_5_2_4_at_0_4]
  show Except.ok _ = _
  rw [field_6_5_5_5_5_2_4_at_21_5, field_6_5_5_5_5_2_4_at_16_5, field_6_5_5_5_5_2_4_at_11_5, field_6_5_5_5_5_2_4_at_6_5, field_6_5_5_5_5_2_4_at_4_2]

theorem lb (d : BitVec 5) (a : BitVec 5) (i : BitVec 16) : Statement (.lb d a i) := by
  intro w h hf
  obtain rfl := Option.some.inj h
  refine decode_of_candidate ?_ hf
  unfold candidate
  rw [field_6_5_5_16_at_26_6]
  show Except.ok _ = _
  rw [field_6_5_5_16_at_21_5, field_6_5_5_16_at_16_5, field_6_5_5_16_at_0_16]

theorem lbu (d : BitVec 5) (a : BitVec 5) (i : BitVec 16) : Statement (.lbu d a i) := by
  intro w h hf
  obtain rfl := Option.some.inj h
  refine decode_of_candidate ?_ hf
  unfold candidate
  rw [field_6_5_5_16_at_26_6]
  show Except.ok _ = _
  rw [field_6_5_5_16_at_21_5, field_6_5_5_16_at_16_5, field_6_5_5_16_at_0_16]

theorem lh (d : BitVec 5) (a : BitVec 5) (i : BitVec 16) : Statement (.lh d a i) := by
  intro w h hf
  obtain rfl := Option.some.inj h
  refine decode_of_candidate ?_ hf
  unfold candidate
  rw [field_6_5_5_16_at_26_6]
  show Except.ok _ = _
  rw [field_6_5_5_16_at_21_5, field_6_5_5_16_at_16_5, field_6_5_5_16_at_0_16]

theorem lhu (d : BitVec 5) (a : BitVec 5) (i : BitVec 16) : Statement (.lhu d a i) := by
  intro w h hf
  obtain rfl := Option.some.inj h
  refine decode_of_candidate ?_ hf
  unfold candidate
  rw [field_6_5_5_16_at_26_6]
  show Except.ok _ = _
  rw [field_6_5_5_16_at_21_5, field_6_5_5_16_at_16_5, field_6_5_5_16_at_0_16]

theorem lw (d : BitVec 5) (a : BitVec 5) (i : BitVec 16) : Statement (.lw d a i) := by
  intro w h hf
  obtain rfl := Option.some.inj h
  refine decode_of_candidate ?_ hf
  unfold candidate
  rw [field_6_5_5_16_at_26_6]
  show Except.ok _ = _
  rw [field_6_5_5_16_at_21_5, field_6_5_5_16_at_16_5, field_6_5_5_16_at_0_16]

theorem lwu (d : BitVec 5) (a : BitVec 5) (i : BitVec 16) : Statement (.lwu d a i) := by
  intro w h hf
  obtain rfl := Option.some.inj h
  refine decode_of_candidate ?_ hf
  unfold candidate
  rw [field_6_5_5_16_at_26_6]
  show Except.ok _ = _
  rw [field_6_5_5_16_at_21_5, field_6_5_5_16_at_16_5, field_6_5_5_16_at_0_16]

theorem ld (d : BitVec 5) (a : BitVec 5) (i : BitVec 16) : Statement (.ld d a i) := by
  intro w h hf
  obtain rfl := Option.some.inj h
  refine decode_of_candidate ?_ hf
  unfold candidate
  rw [field_6_5_5_16_at_26_6]
  show Except.ok _ = _
  rw [field_6_5_5_16_at_21_5, field_6_5_5_16_at_16_5, field_6_5_5_16_at_0_16]

theorem sb (s : BitVec 5) (a : BitVec 5) (i : BitVec 16) : Statement (.sb s a i) := by
  intro w h hf
  obtain rfl := Option.some.inj h
  refine decode_of_candidate ?_ hf
  unfold candidate
  rw [field_6_5_5_16_at_26_6]
  show Except.ok _ = _
  rw [field_6_5_5_16_at_21_5, field_6_5_5_16_at_16_5, field_6_5_5_16_at_0_16]

theorem sh (s : BitVec 5) (a : BitVec 5) (i : BitVec 16) : Statement (.sh s a i) := by
  intro w h hf
  obtain rfl := Option.some.inj h
  refine decode_of_candidate ?_ hf
  unfold candidate
  rw [field_6_5_5_16_at_26_6]
  show Except.ok _ = _
  rw [field_6_5_5_16_at_21_5, field_6_5_5_16_at_16_5, field_6_5_5_16_at_0_16]

theorem sw (s : BitVec 5) (a : BitVec 5) (i : BitVec 16) : Statement (.sw s a i) := by
  intro w h hf
  obtain rfl := Option.some.inj h
  refine decode_of_candidate ?_ hf
  unfold candidate
  rw [field_6_5_5_16_at_26_6]
  show Except.ok _ = _
  rw [field_6_5_5_16_at_21_5, field_6_5_5_16_at_16_5, field_6_5_5_16_at_0_16]

theorem sd (s : BitVec 5) (a : BitVec 5) (i : BitVec 16) : Statement (.sd s a i) := by
  intro w h hf
  obtain rfl := Option.some.inj h
  refine decode_of_candidate ?_ hf
  unfold candidate
  rw [field_6_5_5_16_at_26_6]
  show Except.ok _ = _
  rw [field_6_5_5_16_at_21_5, field_6_5_5_16_at_16_5, field_6_5_5_16_at_0_16]

theorem ldAcqW (d : BitVec 5) (a : BitVec 5) (s : BitVec 2) : Statement (.ldAcqW d a s) := by
  intro w h hf
  obtain rfl := Option.some.inj h
  refine decode_of_candidate ?_ hf
  unfold candidate
  rw [field_6_5_5_5_2_9_at_26_6]
  show decSync _ = _
  rw [decSync, field_6_5_5_5_2_9_at_0_6]
  show z _ 11 5 (z _ 6 3 (.ok _)) = _
  rw [z, if_pos ((field_6_5_5_5_2_9_at_11_5 ..).trans (by decide))]
  show z _ 6 3 (.ok _) = _
  rw [z, if_pos ((field_6_5_5_5_2_9_at_6_3 ..).trans (by decide))]
  show Except.ok _ = _
  rw [field_6_5_5_5_2_9_at_21_5, field_6_5_5_5_2_9_at_16_5, field_6_5_5_5_2_9_at_9_2]

theorem ldAcqD (d : BitVec 5) (a : BitVec 5) (s : BitVec 2) : Statement (.ldAcqD d a s) := by
  intro w h hf
  obtain rfl := Option.some.inj h
  refine decode_of_candidate ?_ hf
  unfold candidate
  rw [field_6_5_5_5_2_9_at_26_6]
  show decSync _ = _
  rw [decSync, field_6_5_5_5_2_9_at_0_6]
  show z _ 11 5 (z _ 6 3 (.ok _)) = _
  rw [z, if_pos ((field_6_5_5_5_2_9_at_11_5 ..).trans (by decide))]
  show z _ 6 3 (.ok _) = _
  rw [z, if_pos ((field_6_5_5_5_2_9_at_6_3 ..).trans (by decide))]
  show Except.ok _ = _
  rw [field_6_5_5_5_2_9_at_21_5, field_6_5_5_5_2_9_at_16_5, field_6_5_5_5_2_9_at_9_2]

theorem stRelW (a : BitVec 5) (b : BitVec 5) (s : BitVec 2) : Statement (.stRelW a b s) := by
  intro w h hf
  obtain rfl := Option.some.inj h
  refine decode_of_candidate ?_ hf
  unfold candidate
  rw [field_11_5_5_2_9_at_26_6]
  show decSync _ = _
  rw [decSync, field_11_5_5_2_9_at_0_6]
  show z _ 21 5 (z _ 6 3 (.ok _)) = _
  rw [z, if_pos ((field_11_5_5_2_9_at_21_5 ..).trans (by decide))]
  show z _ 6 3 (.ok _) = _
  rw [z, if_pos ((field_11_5_5_2_9_at_6_3 ..).trans (by decide))]
  show Except.ok _ = _
  rw [field_11_5_5_2_9_at_16_5, field_11_5_5_2_9_at_11_5, field_11_5_5_2_9_at_9_2]

theorem stRelD (a : BitVec 5) (b : BitVec 5) (s : BitVec 2) : Statement (.stRelD a b s) := by
  intro w h hf
  obtain rfl := Option.some.inj h
  refine decode_of_candidate ?_ hf
  unfold candidate
  rw [field_11_5_5_2_9_at_26_6]
  show decSync _ = _
  rw [decSync, field_11_5_5_2_9_at_0_6]
  show z _ 21 5 (z _ 6 3 (.ok _)) = _
  rw [z, if_pos ((field_11_5_5_2_9_at_21_5 ..).trans (by decide))]
  show z _ 6 3 (.ok _) = _
  rw [z, if_pos ((field_11_5_5_2_9_at_6_3 ..).trans (by decide))]
  show Except.ok _ = _
  rw [field_11_5_5_2_9_at_16_5, field_11_5_5_2_9_at_11_5, field_11_5_5_2_9_at_9_2]

theorem amoSwap (d : BitVec 5) (a : BitVec 5) (b : BitVec 5) (s : BitVec 2) (o : BitVec 2) (z : BitVec 1) : Statement (.amoSwap d a b s o z) := by
  intro w h hf
  obtain rfl := Option.some.inj h
  refine decode_of_candidate ?_ hf
  unfold candidate
  rw [field_6_5_5_5_2_2_1_6_at_26_6]
  show decAmo _ = _
  rw [decAmo, field_6_5_5_5_2_2_1_6_at_0_6]
  show Except.ok _ = _
  rw [field_6_5_5_5_2_2_1_6_at_21_5, field_6_5_5_5_2_2_1_6_at_16_5, field_6_5_5_5_2_2_1_6_at_11_5, field_6_5_5_5_2_2_1_6_at_9_2, field_6_5_5_5_2_2_1_6_at_7_2, field_6_5_5_5_2_2_1_6_at_6_1]

theorem amoAdd (d : BitVec 5) (a : BitVec 5) (b : BitVec 5) (s : BitVec 2) (o : BitVec 2) (z : BitVec 1) : Statement (.amoAdd d a b s o z) := by
  intro w h hf
  obtain rfl := Option.some.inj h
  refine decode_of_candidate ?_ hf
  unfold candidate
  rw [field_6_5_5_5_2_2_1_6_at_26_6]
  show decAmo _ = _
  rw [decAmo, field_6_5_5_5_2_2_1_6_at_0_6]
  show Except.ok _ = _
  rw [field_6_5_5_5_2_2_1_6_at_21_5, field_6_5_5_5_2_2_1_6_at_16_5, field_6_5_5_5_2_2_1_6_at_11_5, field_6_5_5_5_2_2_1_6_at_9_2, field_6_5_5_5_2_2_1_6_at_7_2, field_6_5_5_5_2_2_1_6_at_6_1]

theorem amoAnd (d : BitVec 5) (a : BitVec 5) (b : BitVec 5) (s : BitVec 2) (o : BitVec 2) (z : BitVec 1) : Statement (.amoAnd d a b s o z) := by
  intro w h hf
  obtain rfl := Option.some.inj h
  refine decode_of_candidate ?_ hf
  unfold candidate
  rw [field_6_5_5_5_2_2_1_6_at_26_6]
  show decAmo _ = _
  rw [decAmo, field_6_5_5_5_2_2_1_6_at_0_6]
  show Except.ok _ = _
  rw [field_6_5_5_5_2_2_1_6_at_21_5, field_6_5_5_5_2_2_1_6_at_16_5, field_6_5_5_5_2_2_1_6_at_11_5, field_6_5_5_5_2_2_1_6_at_9_2, field_6_5_5_5_2_2_1_6_at_7_2, field_6_5_5_5_2_2_1_6_at_6_1]

theorem amoOr (d : BitVec 5) (a : BitVec 5) (b : BitVec 5) (s : BitVec 2) (o : BitVec 2) (z : BitVec 1) : Statement (.amoOr d a b s o z) := by
  intro w h hf
  obtain rfl := Option.some.inj h
  refine decode_of_candidate ?_ hf
  unfold candidate
  rw [field_6_5_5_5_2_2_1_6_at_26_6]
  show decAmo _ = _
  rw [decAmo, field_6_5_5_5_2_2_1_6_at_0_6]
  show Except.ok _ = _
  rw [field_6_5_5_5_2_2_1_6_at_21_5, field_6_5_5_5_2_2_1_6_at_16_5, field_6_5_5_5_2_2_1_6_at_11_5, field_6_5_5_5_2_2_1_6_at_9_2, field_6_5_5_5_2_2_1_6_at_7_2, field_6_5_5_5_2_2_1_6_at_6_1]

theorem amoXor (d : BitVec 5) (a : BitVec 5) (b : BitVec 5) (s : BitVec 2) (o : BitVec 2) (z : BitVec 1) : Statement (.amoXor d a b s o z) := by
  intro w h hf
  obtain rfl := Option.some.inj h
  refine decode_of_candidate ?_ hf
  unfold candidate
  rw [field_6_5_5_5_2_2_1_6_at_26_6]
  show decAmo _ = _
  rw [decAmo, field_6_5_5_5_2_2_1_6_at_0_6]
  show Except.ok _ = _
  rw [field_6_5_5_5_2_2_1_6_at_21_5, field_6_5_5_5_2_2_1_6_at_16_5, field_6_5_5_5_2_2_1_6_at_11_5, field_6_5_5_5_2_2_1_6_at_9_2, field_6_5_5_5_2_2_1_6_at_7_2, field_6_5_5_5_2_2_1_6_at_6_1]

theorem amoMin (d : BitVec 5) (a : BitVec 5) (b : BitVec 5) (s : BitVec 2) (o : BitVec 2) (z : BitVec 1) : Statement (.amoMin d a b s o z) := by
  intro w h hf
  obtain rfl := Option.some.inj h
  refine decode_of_candidate ?_ hf
  unfold candidate
  rw [field_6_5_5_5_2_2_1_6_at_26_6]
  show decAmo _ = _
  rw [decAmo, field_6_5_5_5_2_2_1_6_at_0_6]
  show Except.ok _ = _
  rw [field_6_5_5_5_2_2_1_6_at_21_5, field_6_5_5_5_2_2_1_6_at_16_5, field_6_5_5_5_2_2_1_6_at_11_5, field_6_5_5_5_2_2_1_6_at_9_2, field_6_5_5_5_2_2_1_6_at_7_2, field_6_5_5_5_2_2_1_6_at_6_1]

theorem amoMax (d : BitVec 5) (a : BitVec 5) (b : BitVec 5) (s : BitVec 2) (o : BitVec 2) (z : BitVec 1) : Statement (.amoMax d a b s o z) := by
  intro w h hf
  obtain rfl := Option.some.inj h
  refine decode_of_candidate ?_ hf
  unfold candidate
  rw [field_6_5_5_5_2_2_1_6_at_26_6]
  show decAmo _ = _
  rw [decAmo, field_6_5_5_5_2_2_1_6_at_0_6]
  show Except.ok _ = _
  rw [field_6_5_5_5_2_2_1_6_at_21_5, field_6_5_5_5_2_2_1_6_at_16_5, field_6_5_5_5_2_2_1_6_at_11_5, field_6_5_5_5_2_2_1_6_at_9_2, field_6_5_5_5_2_2_1_6_at_7_2, field_6_5_5_5_2_2_1_6_at_6_1]

theorem amoMinu (d : BitVec 5) (a : BitVec 5) (b : BitVec 5) (s : BitVec 2) (o : BitVec 2) (z : BitVec 1) : Statement (.amoMinu d a b s o z) := by
  intro w h hf
  obtain rfl := Option.some.inj h
  refine decode_of_candidate ?_ hf
  unfold candidate
  rw [field_6_5_5_5_2_2_1_6_at_26_6]
  show decAmo _ = _
  rw [decAmo, field_6_5_5_5_2_2_1_6_at_0_6]
  show Except.ok _ = _
  rw [field_6_5_5_5_2_2_1_6_at_21_5, field_6_5_5_5_2_2_1_6_at_16_5, field_6_5_5_5_2_2_1_6_at_11_5, field_6_5_5_5_2_2_1_6_at_9_2, field_6_5_5_5_2_2_1_6_at_7_2, field_6_5_5_5_2_2_1_6_at_6_1]

theorem amoMaxu (d : BitVec 5) (a : BitVec 5) (b : BitVec 5) (s : BitVec 2) (o : BitVec 2) (z : BitVec 1) : Statement (.amoMaxu d a b s o z) := by
  intro w h hf
  obtain rfl := Option.some.inj h
  refine decode_of_candidate ?_ hf
  unfold candidate
  rw [field_6_5_5_5_2_2_1_6_at_26_6]
  show decAmo _ = _
  rw [decAmo, field_6_5_5_5_2_2_1_6_at_0_6]
  show Except.ok _ = _
  rw [field_6_5_5_5_2_2_1_6_at_21_5, field_6_5_5_5_2_2_1_6_at_16_5, field_6_5_5_5_2_2_1_6_at_11_5, field_6_5_5_5_2_2_1_6_at_9_2, field_6_5_5_5_2_2_1_6_at_7_2, field_6_5_5_5_2_2_1_6_at_6_1]

theorem cas (d : BitVec 5) (a : BitVec 5) (b : BitVec 5) (s : BitVec 2) (o : BitVec 2) (z : BitVec 1) : Statement (.cas d a b s o z) := by
  intro w h hf
  obtain rfl := Option.some.inj h
  refine decode_of_candidate ?_ hf
  unfold candidate
  rw [field_6_5_5_5_2_2_1_6_at_26_6]
  show decCas _ = _
  rw [decCas, field_6_5_5_5_2_2_1_6_at_0_6]
  show Except.ok _ = _
  rw [field_6_5_5_5_2_2_1_6_at_21_5, field_6_5_5_5_2_2_1_6_at_16_5, field_6_5_5_5_2_2_1_6_at_11_5, field_6_5_5_5_2_2_1_6_at_9_2, field_6_5_5_5_2_2_1_6_at_7_2, field_6_5_5_5_2_2_1_6_at_6_1]

theorem beq (a : BitVec 5) (b : BitVec 5) (o : BitVec 13) : Statement (.beq a b o) := by
  intro w h hf
  obtain rfl := Option.some.inj h
  refine decode_of_candidate ?_ hf
  unfold candidate
  rw [field_6_5_5_3_13_at_26_6]
  show decBranch _ = _
  rw [decBranch, field_6_5_5_3_13_at_13_3]
  show Except.ok _ = _
  rw [field_6_5_5_3_13_at_21_5, field_6_5_5_3_13_at_16_5, field_6_5_5_3_13_at_0_13]

theorem bne (a : BitVec 5) (b : BitVec 5) (o : BitVec 13) : Statement (.bne a b o) := by
  intro w h hf
  obtain rfl := Option.some.inj h
  refine decode_of_candidate ?_ hf
  unfold candidate
  rw [field_6_5_5_3_13_at_26_6]
  show decBranch _ = _
  rw [decBranch, field_6_5_5_3_13_at_13_3]
  show Except.ok _ = _
  rw [field_6_5_5_3_13_at_21_5, field_6_5_5_3_13_at_16_5, field_6_5_5_3_13_at_0_13]

theorem blt (a : BitVec 5) (b : BitVec 5) (o : BitVec 13) : Statement (.blt a b o) := by
  intro w h hf
  obtain rfl := Option.some.inj h
  refine decode_of_candidate ?_ hf
  unfold candidate
  rw [field_6_5_5_3_13_at_26_6]
  show decBranch _ = _
  rw [decBranch, field_6_5_5_3_13_at_13_3]
  show Except.ok _ = _
  rw [field_6_5_5_3_13_at_21_5, field_6_5_5_3_13_at_16_5, field_6_5_5_3_13_at_0_13]

theorem bge (a : BitVec 5) (b : BitVec 5) (o : BitVec 13) : Statement (.bge a b o) := by
  intro w h hf
  obtain rfl := Option.some.inj h
  refine decode_of_candidate ?_ hf
  unfold candidate
  rw [field_6_5_5_3_13_at_26_6]
  show decBranch _ = _
  rw [decBranch, field_6_5_5_3_13_at_13_3]
  show Except.ok _ = _
  rw [field_6_5_5_3_13_at_21_5, field_6_5_5_3_13_at_16_5, field_6_5_5_3_13_at_0_13]

theorem bltu (a : BitVec 5) (b : BitVec 5) (o : BitVec 13) : Statement (.bltu a b o) := by
  intro w h hf
  obtain rfl := Option.some.inj h
  refine decode_of_candidate ?_ hf
  unfold candidate
  rw [field_6_5_5_3_13_at_26_6]
  show decBranch _ = _
  rw [decBranch, field_6_5_5_3_13_at_13_3]
  show Except.ok _ = _
  rw [field_6_5_5_3_13_at_21_5, field_6_5_5_3_13_at_16_5, field_6_5_5_3_13_at_0_13]

theorem bgeu (a : BitVec 5) (b : BitVec 5) (o : BitVec 13) : Statement (.bgeu a b o) := by
  intro w h hf
  obtain rfl := Option.some.inj h
  refine decode_of_candidate ?_ hf
  unfold candidate
  rw [field_6_5_5_3_13_at_26_6]
  show decBranch _ = _
  rw [decBranch, field_6_5_5_3_13_at_13_3]
  show Except.ok _ = _
  rw [field_6_5_5_3_13_at_21_5, field_6_5_5_3_13_at_16_5, field_6_5_5_3_13_at_0_13]

theorem jal (d : BitVec 5) (o : BitVec 21) : Statement (.jal d o) := by
  intro w h hf
  obtain rfl := Option.some.inj h
  refine decode_of_candidate ?_ hf
  unfold candidate
  rw [field_6_5_21_at_26_6]
  show Except.ok _ = _
  rw [field_6_5_21_at_21_5, field_6_5_21_at_0_21]

theorem jalr (d : BitVec 5) (a : BitVec 5) (i : BitVec 16) : Statement (.jalr d a i) := by
  intro w h hf
  obtain rfl := Option.some.inj h
  refine decode_of_candidate ?_ hf
  unfold candidate
  rw [field_6_5_5_16_at_26_6]
  show Except.ok _ = _
  rw [field_6_5_5_16_at_21_5, field_6_5_5_16_at_16_5, field_6_5_5_16_at_0_16]

theorem jt (d : BitVec 5) (a : BitVec 5) (b : BitVec 5) : Statement (.jt d a b) := by
  intro w h hf
  obtain rfl := Option.some.inj h
  refine decode_of_candidate ?_ hf
  unfold candidate
  rw [field_6_5_5_5_11_at_26_6]
  show decTable _ = _
  rw [decTable, field_6_5_5_5_11_at_0_6]
  show z _ 6 5 (.ok _) = _
  rw [z, if_pos ((field_6_5_5_5_11_at_6_5 ..).trans (by decide))]
  show Except.ok _ = _
  rw [field_6_5_5_5_11_at_21_5, field_6_5_5_5_11_at_16_5, field_6_5_5_5_11_at_11_5]

theorem vloop (a : BitVec 5) (k : BitVec 3) (e : BitVec 2) (o : BitVec 13) : Statement (.vloop a k e o) := by
  intro w h hf
  obtain rfl := Option.some.inj h
  refine decode_of_candidate ?_ hf
  unfold candidate
  rw [field_6_5_2_3_1_2_13_at_26_6]
  show z _ 19 2 (z _ 15 1 (.ok _)) = _
  rw [z, if_pos ((field_6_5_2_3_1_2_13_at_19_2 ..).trans (by decide))]
  show z _ 15 1 (.ok _) = _
  rw [z, if_pos ((field_6_5_2_3_1_2_13_at_15_1 ..).trans (by decide))]
  show Except.ok _ = _
  rw [field_6_5_2_3_1_2_13_at_21_5, field_6_5_2_3_1_2_13_at_16_3, field_6_5_2_3_1_2_13_at_13_2, field_6_5_2_3_1_2_13_at_0_13]

theorem rpt (d : BitVec 2) (a : BitVec 2) (b : BitVec 2) (c : BitVec 8) (n : BitVec 4) : Statement (.rpt d a b c n) := by
  intro w h hf
  obtain rfl := Option.some.inj h
  refine decode_of_candidate ?_ hf
  unfold candidate
  rw [field_6_2_2_2_8_4_8_at_26_6]
  show z _ 0 8 (.ok _) = _
  rw [z, if_pos ((field_6_2_2_2_8_4_8_at_0_8 ..).trans (by decide))]
  show Except.ok _ = _
  rw [field_6_2_2_2_8_4_8_at_24_2, field_6_2_2_2_8_4_8_at_22_2, field_6_2_2_2_8_4_8_at_20_2, field_6_2_2_2_8_4_8_at_12_8, field_6_2_2_2_8_4_8_at_8_4]

theorem fork (a : BitVec 5) (b : BitVec 5) (o : BitVec 13) : Statement (.fork a b o) := by
  intro w h hf
  obtain rfl := Option.some.inj h
  refine decode_of_candidate ?_ hf
  unfold candidate
  rw [field_6_5_5_3_13_at_26_6]
  show z _ 13 3 (.ok _) = _
  rw [z, if_pos ((field_6_5_5_3_13_at_13_3 ..).trans (by decide))]
  show Except.ok _ = _
  rw [field_6_5_5_3_13_at_21_5, field_6_5_5_3_13_at_16_5, field_6_5_5_3_13_at_0_13]

theorem fcut (d : BitVec 5) (o : BitVec 21) : Statement (.fcut d o) := by
  intro w h hf
  obtain rfl := Option.some.inj h
  refine decode_of_candidate ?_ hf
  unfold candidate
  rw [field_6_5_21_at_26_6]
  show Except.ok _ = _
  rw [field_6_5_21_at_21_5, field_6_5_21_at_0_21]

theorem fence (s : BitVec 2) (l : BitVec 1) (m : BitVec 1) (e : BitVec 1) : Statement (.fence s l m e) := by
  intro w h hf
  obtain rfl := Option.some.inj h
  refine decode_of_candidate ?_ hf
  unfold candidate
  rw [field_21_2_1_1_1_6_at_26_6]
  show decWait _ = _
  rw [decWait, field_21_2_1_1_1_6_at_0_6]
  show z _ 11 15 (.ok _) = _
  rw [z, if_pos ((field_21_2_1_1_1_6_at_11_15 ..).trans (by decide))]
  show Except.ok _ = _
  rw [field_21_2_1_1_1_6_at_9_2, field_21_2_1_1_1_6_at_8_1, field_21_2_1_1_1_6_at_7_1, field_21_2_1_1_1_6_at_6_1]

theorem waitw (d : BitVec 5) (a : BitVec 5) (b : BitVec 5) (c : BitVec 2) (z : BitVec 1) : Statement (.waitw d a b c z) := by
  intro w h hf
  obtain rfl := Option.some.inj h
  refine decode_of_candidate ?_ hf
  unfold candidate
  rw [field_6_5_5_5_2_1_8_at_26_6]
  show decWait _ = _
  rw [decWait, field_6_5_5_5_2_1_8_at_0_6]
  show Sys2Proof.z _ 6 2 (.ok _) = _
  rw [Sys2Proof.z, if_pos ((field_6_5_5_5_2_1_8_at_6_2 ..).trans (by decide))]
  show Except.ok _ = _
  rw [field_6_5_5_5_2_1_8_at_21_5, field_6_5_5_5_2_1_8_at_16_5, field_6_5_5_5_2_1_8_at_11_5, field_6_5_5_5_2_1_8_at_9_2, field_6_5_5_5_2_1_8_at_8_1]

theorem gjoin (d : BitVec 5) (a : BitVec 5) : Statement (.gjoin d a) := by
  intro w h hf
  obtain rfl := Option.some.inj h
  refine decode_of_candidate ?_ hf
  unfold candidate
  rw [field_6_5_5_16_at_26_6]
  show decWait _ = _
  rw [decWait, field_6_5_5_16_at_0_6]
  show z _ 6 10 (.ok _) = _
  rw [z, if_pos ((field_6_5_5_16_at_6_10 ..).trans (by decide))]
  show Except.ok _ = _
  rw [field_6_5_5_16_at_21_5, field_6_5_5_16_at_16_5]

theorem gleave (d : BitVec 5) (a : BitVec 5) : Statement (.gleave d a) := by
  intro w h hf
  obtain rfl := Option.some.inj h
  refine decode_of_candidate ?_ hf
  unfold candidate
  rw [field_6_5_5_16_at_26_6]
  show decWait _ = _
  rw [decWait, field_6_5_5_16_at_0_6]
  show z _ 6 10 (.ok _) = _
  rw [z, if_pos ((field_6_5_5_16_at_6_10 ..).trans (by decide))]
  show Except.ok _ = _
  rw [field_6_5_5_16_at_21_5, field_6_5_5_16_at_16_5]

theorem gbar (d : BitVec 5) (a : BitVec 5) (b : BitVec 5) : Statement (.gbar d a b) := by
  intro w h hf
  obtain rfl := Option.some.inj h
  refine decode_of_candidate ?_ hf
  unfold candidate
  rw [field_6_5_5_5_11_at_26_6]
  show decWait _ = _
  rw [decWait, field_6_5_5_5_11_at_0_6]
  show z _ 6 5 (.ok _) = _
  rw [z, if_pos ((field_6_5_5_5_11_at_6_5 ..).trans (by decide))]
  show Except.ok _ = _
  rw [field_6_5_5_5_11_at_21_5, field_6_5_5_5_11_at_16_5, field_6_5_5_5_11_at_11_5]

theorem msend (d : BitVec 5) (a : BitVec 5) : Statement (.msend d a) := by
  intro w h hf
  obtain rfl := Option.some.inj h
  refine decode_of_candidate ?_ hf
  unfold candidate
  rw [field_6_5_5_16_at_26_6]
  show decMessage _ = _
  rw [decMessage, field_6_5_5_16_at_0_6]
  show z _ 6 10 (.ok _) = _
  rw [z, if_pos ((field_6_5_5_16_at_6_10 ..).trans (by decide))]
  show Except.ok _ = _
  rw [field_6_5_5_16_at_21_5, field_6_5_5_16_at_16_5]

theorem mrecv (d : BitVec 5) (a : BitVec 5) (b : BitVec 5) : Statement (.mrecv d a b) := by
  intro w h hf
  obtain rfl := Option.some.inj h
  refine decode_of_candidate ?_ hf
  unfold candidate
  rw [field_6_5_5_5_11_at_26_6]
  show decMessage _ = _
  rw [decMessage, field_6_5_5_5_11_at_0_6]
  show z _ 6 5 (.ok _) = _
  rw [z, if_pos ((field_6_5_5_5_11_at_6_5 ..).trans (by decide))]
  show Except.ok _ = _
  rw [field_6_5_5_5_11_at_21_5, field_6_5_5_5_11_at_16_5, field_6_5_5_5_11_at_11_5]

theorem mcount (d : BitVec 5) (a : BitVec 5) : Statement (.mcount d a) := by
  intro w h hf
  obtain rfl := Option.some.inj h
  refine decode_of_candidate ?_ hf
  unfold candidate
  rw [field_6_5_5_16_at_26_6]
  show decMessage _ = _
  rw [decMessage, field_6_5_5_16_at_0_6]
  show z _ 6 10 (.ok _) = _
  rw [z, if_pos ((field_6_5_5_16_at_6_10 ..).trans (by decide))]
  show Except.ok _ = _
  rw [field_6_5_5_16_at_21_5, field_6_5_5_16_at_16_5]

theorem spawn (d : BitVec 5) (a : BitVec 5) : Statement (.spawn d a) := by
  intro w h hf
  obtain rfl := Option.some.inj h
  refine decode_of_candidate ?_ hf
  unfold candidate
  rw [field_6_5_5_16_at_26_6]
  show decThread _ = _
  rw [decThread, field_6_5_5_16_at_0_6]
  show z _ 6 10 (.ok _) = _
  rw [z, if_pos ((field_6_5_5_16_at_6_10 ..).trans (by decide))]
  show Except.ok _ = _
  rw [field_6_5_5_16_at_21_5, field_6_5_5_16_at_16_5]

theorem rexit (a : BitVec 5) : Statement (.rexit a) := by
  intro w h hf
  obtain rfl := Option.some.inj h
  refine decode_of_candidate ?_ hf
  unfold candidate
  rw [field_11_5_16_at_26_6]
  show decThread _ = _
  rw [decThread, field_11_5_16_at_0_6]
  show z _ 21 5 (z _ 6 10 (.ok _)) = _
  rw [z, if_pos ((field_11_5_16_at_21_5 ..).trans (by decide))]
  show z _ 6 10 (.ok _) = _
  rw [z, if_pos ((field_11_5_16_at_6_10 ..).trans (by decide))]
  show Except.ok _ = _
  rw [field_11_5_16_at_16_5]

theorem yield (d : BitVec 5) : Statement (.yield d) := by
  intro w h hf
  obtain rfl := Option.some.inj h
  refine decode_of_candidate ?_ hf
  unfold candidate
  rw [field_6_5_21_at_26_6]
  show decThread _ = _
  rw [decThread, field_6_5_21_at_0_6]
  show z _ 6 15 (.ok _) = _
  rw [z, if_pos ((field_6_5_21_at_6_15 ..).trans (by decide))]
  show Except.ok _ = _
  rw [field_6_5_21_at_21_5]

theorem fwd (a : BitVec 5) : Statement (.fwd a) := by
  intro w h hf
  obtain rfl := Option.some.inj h
  refine decode_of_candidate ?_ hf
  unfold candidate
  rw [field_11_5_16_at_26_6]
  show decRegion _ = _
  rw [decRegion, field_11_5_16_at_0_6]
  show z _ 21 5 (z _ 6 10 (.ok _)) = _
  rw [z, if_pos ((field_11_5_16_at_21_5 ..).trans (by decide))]
  show z _ 6 10 (.ok _) = _
  rw [z, if_pos ((field_11_5_16_at_6_10 ..).trans (by decide))]
  show Except.ok _ = _
  rw [field_11_5_16_at_16_5]

theorem fserial : Statement .fserial := by
  intro w h hf
  obtain rfl := Option.some.inj h
  exact decode_of_candidate rfl hf

theorem vadd (e : BitVec 2) (d : BitVec 5) (a : BitVec 5) (b : BitVec 5) (f : BitVec 2) (k : BitVec 2) (t : BitVec 2) : Statement (.vadd e d a b f k t) := by
  intro w h hf
  obtain rfl := Option.some.inj h
  refine decode_of_candidate ?_ hf
  obtain rfl | rfl | rfl | rfl := two_bits e
  all_goals
    unfold candidate
    rw [field_4_2_5_5_5_2_5_2_2_at_26_6]
    show decVecInt _ = _
    rw [decVecInt, field_4_2_5_5_5_2_5_2_2_at_4_5]
    show Except.ok _ = _
    rw [field_4_2_5_5_5_2_5_2_2_at_26_2, field_4_2_5_5_5_2_5_2_2_at_21_5, field_4_2_5_5_5_2_5_2_2_at_16_5, field_4_2_5_5_5_2_5_2_2_at_11_5, field_4_2_5_5_5_2_5_2_2_at_9_2, field_4_2_5_5_5_2_5_2_2_at_2_2, field_4_2_5_5_5_2_5_2_2_at_0_2]

theorem vsub (e : BitVec 2) (d : BitVec 5) (a : BitVec 5) (b : BitVec 5) (f : BitVec 2) (k : BitVec 2) (t : BitVec 2) : Statement (.vsub e d a b f k t) := by
  intro w h hf
  obtain rfl := Option.some.inj h
  refine decode_of_candidate ?_ hf
  obtain rfl | rfl | rfl | rfl := two_bits e
  all_goals
    unfold candidate
    rw [field_4_2_5_5_5_2_5_2_2_at_26_6]
    show decVecInt _ = _
    rw [decVecInt, field_4_2_5_5_5_2_5_2_2_at_4_5]
    show Except.ok _ = _
    rw [field_4_2_5_5_5_2_5_2_2_at_26_2, field_4_2_5_5_5_2_5_2_2_at_21_5, field_4_2_5_5_5_2_5_2_2_at_16_5, field_4_2_5_5_5_2_5_2_2_at_11_5, field_4_2_5_5_5_2_5_2_2_at_9_2, field_4_2_5_5_5_2_5_2_2_at_2_2, field_4_2_5_5_5_2_5_2_2_at_0_2]

theorem vrsub (e : BitVec 2) (d : BitVec 5) (a : BitVec 5) (b : BitVec 5) (f : BitVec 2) (k : BitVec 2) (t : BitVec 2) : Statement (.vrsub e d a b f k t) := by
  intro w h hf
  obtain rfl := Option.some.inj h
  refine decode_of_candidate ?_ hf
  obtain rfl | rfl | rfl | rfl := two_bits e
  all_goals
    unfold candidate
    rw [field_4_2_5_5_5_2_5_2_2_at_26_6]
    show decVecInt _ = _
    rw [decVecInt, field_4_2_5_5_5_2_5_2_2_at_4_5]
    show Except.ok _ = _
    rw [field_4_2_5_5_5_2_5_2_2_at_26_2, field_4_2_5_5_5_2_5_2_2_at_21_5, field_4_2_5_5_5_2_5_2_2_at_16_5, field_4_2_5_5_5_2_5_2_2_at_11_5, field_4_2_5_5_5_2_5_2_2_at_9_2, field_4_2_5_5_5_2_5_2_2_at_2_2, field_4_2_5_5_5_2_5_2_2_at_0_2]

theorem vmul (e : BitVec 2) (d : BitVec 5) (a : BitVec 5) (b : BitVec 5) (f : BitVec 2) (k : BitVec 2) (t : BitVec 2) : Statement (.vmul e d a b f k t) := by
  intro w h hf
  obtain rfl := Option.some.inj h
  refine decode_of_candidate ?_ hf
  obtain rfl | rfl | rfl | rfl := two_bits e
  all_goals
    unfold candidate
    rw [field_4_2_5_5_5_2_5_2_2_at_26_6]
    show decVecInt _ = _
    rw [decVecInt, field_4_2_5_5_5_2_5_2_2_at_4_5]
    show Except.ok _ = _
    rw [field_4_2_5_5_5_2_5_2_2_at_26_2, field_4_2_5_5_5_2_5_2_2_at_21_5, field_4_2_5_5_5_2_5_2_2_at_16_5, field_4_2_5_5_5_2_5_2_2_at_11_5, field_4_2_5_5_5_2_5_2_2_at_9_2, field_4_2_5_5_5_2_5_2_2_at_2_2, field_4_2_5_5_5_2_5_2_2_at_0_2]

theorem vmulh (e : BitVec 2) (d : BitVec 5) (a : BitVec 5) (b : BitVec 5) (f : BitVec 2) (k : BitVec 2) (t : BitVec 2) : Statement (.vmulh e d a b f k t) := by
  intro w h hf
  obtain rfl := Option.some.inj h
  refine decode_of_candidate ?_ hf
  obtain rfl | rfl | rfl | rfl := two_bits e
  all_goals
    unfold candidate
    rw [field_4_2_5_5_5_2_5_2_2_at_26_6]
    show decVecInt _ = _
    rw [decVecInt, field_4_2_5_5_5_2_5_2_2_at_4_5]
    show Except.ok _ = _
    rw [field_4_2_5_5_5_2_5_2_2_at_26_2, field_4_2_5_5_5_2_5_2_2_at_21_5, field_4_2_5_5_5_2_5_2_2_at_16_5, field_4_2_5_5_5_2_5_2_2_at_11_5, field_4_2_5_5_5_2_5_2_2_at_9_2, field_4_2_5_5_5_2_5_2_2_at_2_2, field_4_2_5_5_5_2_5_2_2_at_0_2]

theorem vmulhu (e : BitVec 2) (d : BitVec 5) (a : BitVec 5) (b : BitVec 5) (f : BitVec 2) (k : BitVec 2) (t : BitVec 2) : Statement (.vmulhu e d a b f k t) := by
  intro w h hf
  obtain rfl := Option.some.inj h
  refine decode_of_candidate ?_ hf
  obtain rfl | rfl | rfl | rfl := two_bits e
  all_goals
    unfold candidate
    rw [field_4_2_5_5_5_2_5_2_2_at_26_6]
    show decVecInt _ = _
    rw [decVecInt, field_4_2_5_5_5_2_5_2_2_at_4_5]
    show Except.ok _ = _
    rw [field_4_2_5_5_5_2_5_2_2_at_26_2, field_4_2_5_5_5_2_5_2_2_at_21_5, field_4_2_5_5_5_2_5_2_2_at_16_5, field_4_2_5_5_5_2_5_2_2_at_11_5, field_4_2_5_5_5_2_5_2_2_at_9_2, field_4_2_5_5_5_2_5_2_2_at_2_2, field_4_2_5_5_5_2_5_2_2_at_0_2]

theorem vmacc (e : BitVec 2) (d : BitVec 5) (a : BitVec 5) (b : BitVec 5) (f : BitVec 2) (k : BitVec 2) (t : BitVec 2) : Statement (.vmacc e d a b f k t) := by
  intro w h hf
  obtain rfl := Option.some.inj h
  refine decode_of_candidate ?_ hf
  obtain rfl | rfl | rfl | rfl := two_bits e
  all_goals
    unfold candidate
    rw [field_4_2_5_5_5_2_5_2_2_at_26_6]
    show decVecInt _ = _
    rw [decVecInt, field_4_2_5_5_5_2_5_2_2_at_4_5]
    show Except.ok _ = _
    rw [field_4_2_5_5_5_2_5_2_2_at_26_2, field_4_2_5_5_5_2_5_2_2_at_21_5, field_4_2_5_5_5_2_5_2_2_at_16_5, field_4_2_5_5_5_2_5_2_2_at_11_5, field_4_2_5_5_5_2_5_2_2_at_9_2, field_4_2_5_5_5_2_5_2_2_at_2_2, field_4_2_5_5_5_2_5_2_2_at_0_2]

theorem vand (e : BitVec 2) (d : BitVec 5) (a : BitVec 5) (b : BitVec 5) (f : BitVec 2) (k : BitVec 2) (t : BitVec 2) : Statement (.vand e d a b f k t) := by
  intro w h hf
  obtain rfl := Option.some.inj h
  refine decode_of_candidate ?_ hf
  obtain rfl | rfl | rfl | rfl := two_bits e
  all_goals
    unfold candidate
    rw [field_4_2_5_5_5_2_5_2_2_at_26_6]
    show decVecInt _ = _
    rw [decVecInt, field_4_2_5_5_5_2_5_2_2_at_4_5]
    show Except.ok _ = _
    rw [field_4_2_5_5_5_2_5_2_2_at_26_2, field_4_2_5_5_5_2_5_2_2_at_21_5, field_4_2_5_5_5_2_5_2_2_at_16_5, field_4_2_5_5_5_2_5_2_2_at_11_5, field_4_2_5_5_5_2_5_2_2_at_9_2, field_4_2_5_5_5_2_5_2_2_at_2_2, field_4_2_5_5_5_2_5_2_2_at_0_2]

theorem vor (e : BitVec 2) (d : BitVec 5) (a : BitVec 5) (b : BitVec 5) (f : BitVec 2) (k : BitVec 2) (t : BitVec 2) : Statement (.vor e d a b f k t) := by
  intro w h hf
  obtain rfl := Option.some.inj h
  refine decode_of_candidate ?_ hf
  obtain rfl | rfl | rfl | rfl := two_bits e
  all_goals
    unfold candidate
    rw [field_4_2_5_5_5_2_5_2_2_at_26_6]
    show decVecInt _ = _
    rw [decVecInt, field_4_2_5_5_5_2_5_2_2_at_4_5]
    show Except.ok _ = _
    rw [field_4_2_5_5_5_2_5_2_2_at_26_2, field_4_2_5_5_5_2_5_2_2_at_21_5, field_4_2_5_5_5_2_5_2_2_at_16_5, field_4_2_5_5_5_2_5_2_2_at_11_5, field_4_2_5_5_5_2_5_2_2_at_9_2, field_4_2_5_5_5_2_5_2_2_at_2_2, field_4_2_5_5_5_2_5_2_2_at_0_2]

theorem vxor (e : BitVec 2) (d : BitVec 5) (a : BitVec 5) (b : BitVec 5) (f : BitVec 2) (k : BitVec 2) (t : BitVec 2) : Statement (.vxor e d a b f k t) := by
  intro w h hf
  obtain rfl := Option.some.inj h
  refine decode_of_candidate ?_ hf
  obtain rfl | rfl | rfl | rfl := two_bits e
  all_goals
    unfold candidate
    rw [field_4_2_5_5_5_2_5_2_2_at_26_6]
    show decVecInt _ = _
    rw [decVecInt, field_4_2_5_5_5_2_5_2_2_at_4_5]
    show Except.ok _ = _
    rw [field_4_2_5_5_5_2_5_2_2_at_26_2, field_4_2_5_5_5_2_5_2_2_at_21_5, field_4_2_5_5_5_2_5_2_2_at_16_5, field_4_2_5_5_5_2_5_2_2_at_11_5, field_4_2_5_5_5_2_5_2_2_at_9_2, field_4_2_5_5_5_2_5_2_2_at_2_2, field_4_2_5_5_5_2_5_2_2_at_0_2]

theorem vsll (e : BitVec 2) (d : BitVec 5) (a : BitVec 5) (b : BitVec 5) (f : BitVec 2) (k : BitVec 2) (t : BitVec 2) : Statement (.vsll e d a b f k t) := by
  intro w h hf
  obtain rfl := Option.some.inj h
  refine decode_of_candidate ?_ hf
  obtain rfl | rfl | rfl | rfl := two_bits e
  all_goals
    unfold candidate
    rw [field_4_2_5_5_5_2_5_2_2_at_26_6]
    show decVecInt _ = _
    rw [decVecInt, field_4_2_5_5_5_2_5_2_2_at_4_5]
    show Except.ok _ = _
    rw [field_4_2_5_5_5_2_5_2_2_at_26_2, field_4_2_5_5_5_2_5_2_2_at_21_5, field_4_2_5_5_5_2_5_2_2_at_16_5, field_4_2_5_5_5_2_5_2_2_at_11_5, field_4_2_5_5_5_2_5_2_2_at_9_2, field_4_2_5_5_5_2_5_2_2_at_2_2, field_4_2_5_5_5_2_5_2_2_at_0_2]

theorem vsrl (e : BitVec 2) (d : BitVec 5) (a : BitVec 5) (b : BitVec 5) (f : BitVec 2) (k : BitVec 2) (t : BitVec 2) : Statement (.vsrl e d a b f k t) := by
  intro w h hf
  obtain rfl := Option.some.inj h
  refine decode_of_candidate ?_ hf
  obtain rfl | rfl | rfl | rfl := two_bits e
  all_goals
    unfold candidate
    rw [field_4_2_5_5_5_2_5_2_2_at_26_6]
    show decVecInt _ = _
    rw [decVecInt, field_4_2_5_5_5_2_5_2_2_at_4_5]
    show Except.ok _ = _
    rw [field_4_2_5_5_5_2_5_2_2_at_26_2, field_4_2_5_5_5_2_5_2_2_at_21_5, field_4_2_5_5_5_2_5_2_2_at_16_5, field_4_2_5_5_5_2_5_2_2_at_11_5, field_4_2_5_5_5_2_5_2_2_at_9_2, field_4_2_5_5_5_2_5_2_2_at_2_2, field_4_2_5_5_5_2_5_2_2_at_0_2]

theorem vsra (e : BitVec 2) (d : BitVec 5) (a : BitVec 5) (b : BitVec 5) (f : BitVec 2) (k : BitVec 2) (t : BitVec 2) : Statement (.vsra e d a b f k t) := by
  intro w h hf
  obtain rfl := Option.some.inj h
  refine decode_of_candidate ?_ hf
  obtain rfl | rfl | rfl | rfl := two_bits e
  all_goals
    unfold candidate
    rw [field_4_2_5_5_5_2_5_2_2_at_26_6]
    show decVecInt _ = _
    rw [decVecInt, field_4_2_5_5_5_2_5_2_2_at_4_5]
    show Except.ok _ = _
    rw [field_4_2_5_5_5_2_5_2_2_at_26_2, field_4_2_5_5_5_2_5_2_2_at_21_5, field_4_2_5_5_5_2_5_2_2_at_16_5, field_4_2_5_5_5_2_5_2_2_at_11_5, field_4_2_5_5_5_2_5_2_2_at_9_2, field_4_2_5_5_5_2_5_2_2_at_2_2, field_4_2_5_5_5_2_5_2_2_at_0_2]

theorem vmin (e : BitVec 2) (d : BitVec 5) (a : BitVec 5) (b : BitVec 5) (f : BitVec 2) (k : BitVec 2) (t : BitVec 2) : Statement (.vmin e d a b f k t) := by
  intro w h hf
  obtain rfl := Option.some.inj h
  refine decode_of_candidate ?_ hf
  obtain rfl | rfl | rfl | rfl := two_bits e
  all_goals
    unfold candidate
    rw [field_4_2_5_5_5_2_5_2_2_at_26_6]
    show decVecInt _ = _
    rw [decVecInt, field_4_2_5_5_5_2_5_2_2_at_4_5]
    show Except.ok _ = _
    rw [field_4_2_5_5_5_2_5_2_2_at_26_2, field_4_2_5_5_5_2_5_2_2_at_21_5, field_4_2_5_5_5_2_5_2_2_at_16_5, field_4_2_5_5_5_2_5_2_2_at_11_5, field_4_2_5_5_5_2_5_2_2_at_9_2, field_4_2_5_5_5_2_5_2_2_at_2_2, field_4_2_5_5_5_2_5_2_2_at_0_2]

theorem vmax (e : BitVec 2) (d : BitVec 5) (a : BitVec 5) (b : BitVec 5) (f : BitVec 2) (k : BitVec 2) (t : BitVec 2) : Statement (.vmax e d a b f k t) := by
  intro w h hf
  obtain rfl := Option.some.inj h
  refine decode_of_candidate ?_ hf
  obtain rfl | rfl | rfl | rfl := two_bits e
  all_goals
    unfold candidate
    rw [field_4_2_5_5_5_2_5_2_2_at_26_6]
    show decVecInt _ = _
    rw [decVecInt, field_4_2_5_5_5_2_5_2_2_at_4_5]
    show Except.ok _ = _
    rw [field_4_2_5_5_5_2_5_2_2_at_26_2, field_4_2_5_5_5_2_5_2_2_at_21_5, field_4_2_5_5_5_2_5_2_2_at_16_5, field_4_2_5_5_5_2_5_2_2_at_11_5, field_4_2_5_5_5_2_5_2_2_at_9_2, field_4_2_5_5_5_2_5_2_2_at_2_2, field_4_2_5_5_5_2_5_2_2_at_0_2]

theorem vminu (e : BitVec 2) (d : BitVec 5) (a : BitVec 5) (b : BitVec 5) (f : BitVec 2) (k : BitVec 2) (t : BitVec 2) : Statement (.vminu e d a b f k t) := by
  intro w h hf
  obtain rfl := Option.some.inj h
  refine decode_of_candidate ?_ hf
  obtain rfl | rfl | rfl | rfl := two_bits e
  all_goals
    unfold candidate
    rw [field_4_2_5_5_5_2_5_2_2_at_26_6]
    show decVecInt _ = _
    rw [decVecInt, field_4_2_5_5_5_2_5_2_2_at_4_5]
    show Except.ok _ = _
    rw [field_4_2_5_5_5_2_5_2_2_at_26_2, field_4_2_5_5_5_2_5_2_2_at_21_5, field_4_2_5_5_5_2_5_2_2_at_16_5, field_4_2_5_5_5_2_5_2_2_at_11_5, field_4_2_5_5_5_2_5_2_2_at_9_2, field_4_2_5_5_5_2_5_2_2_at_2_2, field_4_2_5_5_5_2_5_2_2_at_0_2]

theorem vmaxu (e : BitVec 2) (d : BitVec 5) (a : BitVec 5) (b : BitVec 5) (f : BitVec 2) (k : BitVec 2) (t : BitVec 2) : Statement (.vmaxu e d a b f k t) := by
  intro w h hf
  obtain rfl := Option.some.inj h
  refine decode_of_candidate ?_ hf
  obtain rfl | rfl | rfl | rfl := two_bits e
  all_goals
    unfold candidate
    rw [field_4_2_5_5_5_2_5_2_2_at_26_6]
    show decVecInt _ = _
    rw [decVecInt, field_4_2_5_5_5_2_5_2_2_at_4_5]
    show Except.ok _ = _
    rw [field_4_2_5_5_5_2_5_2_2_at_26_2, field_4_2_5_5_5_2_5_2_2_at_21_5, field_4_2_5_5_5_2_5_2_2_at_16_5, field_4_2_5_5_5_2_5_2_2_at_11_5, field_4_2_5_5_5_2_5_2_2_at_9_2, field_4_2_5_5_5_2_5_2_2_at_2_2, field_4_2_5_5_5_2_5_2_2_at_0_2]

theorem vsadd (e : BitVec 2) (d : BitVec 5) (a : BitVec 5) (b : BitVec 5) (f : BitVec 2) (k : BitVec 2) (t : BitVec 2) : Statement (.vsadd e d a b f k t) := by
  intro w h hf
  obtain rfl := Option.some.inj h
  refine decode_of_candidate ?_ hf
  obtain rfl | rfl | rfl | rfl := two_bits e
  all_goals
    unfold candidate
    rw [field_4_2_5_5_5_2_5_2_2_at_26_6]
    show decVecInt _ = _
    rw [decVecInt, field_4_2_5_5_5_2_5_2_2_at_4_5]
    show Except.ok _ = _
    rw [field_4_2_5_5_5_2_5_2_2_at_26_2, field_4_2_5_5_5_2_5_2_2_at_21_5, field_4_2_5_5_5_2_5_2_2_at_16_5, field_4_2_5_5_5_2_5_2_2_at_11_5, field_4_2_5_5_5_2_5_2_2_at_9_2, field_4_2_5_5_5_2_5_2_2_at_2_2, field_4_2_5_5_5_2_5_2_2_at_0_2]

theorem vsaddu (e : BitVec 2) (d : BitVec 5) (a : BitVec 5) (b : BitVec 5) (f : BitVec 2) (k : BitVec 2) (t : BitVec 2) : Statement (.vsaddu e d a b f k t) := by
  intro w h hf
  obtain rfl := Option.some.inj h
  refine decode_of_candidate ?_ hf
  obtain rfl | rfl | rfl | rfl := two_bits e
  all_goals
    unfold candidate
    rw [field_4_2_5_5_5_2_5_2_2_at_26_6]
    show decVecInt _ = _
    rw [decVecInt, field_4_2_5_5_5_2_5_2_2_at_4_5]
    show Except.ok _ = _
    rw [field_4_2_5_5_5_2_5_2_2_at_26_2, field_4_2_5_5_5_2_5_2_2_at_21_5, field_4_2_5_5_5_2_5_2_2_at_16_5, field_4_2_5_5_5_2_5_2_2_at_11_5, field_4_2_5_5_5_2_5_2_2_at_9_2, field_4_2_5_5_5_2_5_2_2_at_2_2, field_4_2_5_5_5_2_5_2_2_at_0_2]

theorem vssub (e : BitVec 2) (d : BitVec 5) (a : BitVec 5) (b : BitVec 5) (f : BitVec 2) (k : BitVec 2) (t : BitVec 2) : Statement (.vssub e d a b f k t) := by
  intro w h hf
  obtain rfl := Option.some.inj h
  refine decode_of_candidate ?_ hf
  obtain rfl | rfl | rfl | rfl := two_bits e
  all_goals
    unfold candidate
    rw [field_4_2_5_5_5_2_5_2_2_at_26_6]
    show decVecInt _ = _
    rw [decVecInt, field_4_2_5_5_5_2_5_2_2_at_4_5]
    show Except.ok _ = _
    rw [field_4_2_5_5_5_2_5_2_2_at_26_2, field_4_2_5_5_5_2_5_2_2_at_21_5, field_4_2_5_5_5_2_5_2_2_at_16_5, field_4_2_5_5_5_2_5_2_2_at_11_5, field_4_2_5_5_5_2_5_2_2_at_9_2, field_4_2_5_5_5_2_5_2_2_at_2_2, field_4_2_5_5_5_2_5_2_2_at_0_2]

theorem vssubu (e : BitVec 2) (d : BitVec 5) (a : BitVec 5) (b : BitVec 5) (f : BitVec 2) (k : BitVec 2) (t : BitVec 2) : Statement (.vssubu e d a b f k t) := by
  intro w h hf
  obtain rfl := Option.some.inj h
  refine decode_of_candidate ?_ hf
  obtain rfl | rfl | rfl | rfl := two_bits e
  all_goals
    unfold candidate
    rw [field_4_2_5_5_5_2_5_2_2_at_26_6]
    show decVecInt _ = _
    rw [decVecInt, field_4_2_5_5_5_2_5_2_2_at_4_5]
    show Except.ok _ = _
    rw [field_4_2_5_5_5_2_5_2_2_at_26_2, field_4_2_5_5_5_2_5_2_2_at_21_5, field_4_2_5_5_5_2_5_2_2_at_16_5, field_4_2_5_5_5_2_5_2_2_at_11_5, field_4_2_5_5_5_2_5_2_2_at_9_2, field_4_2_5_5_5_2_5_2_2_at_2_2, field_4_2_5_5_5_2_5_2_2_at_0_2]

theorem vabs (e : BitVec 2) (d : BitVec 5) (a : BitVec 5) (k : BitVec 2) (t : BitVec 2) : Statement (.vabs e d a k t) := by
  intro w h hf
  obtain rfl := Option.some.inj h
  refine decode_of_candidate ?_ hf
  obtain rfl | rfl | rfl | rfl := two_bits e
  all_goals
    unfold candidate
    rw [field_4_2_5_5_12_2_2_at_26_6]
    show decVecInt _ = _
    rw [decVecInt, field_4_2_5_5_12_2_2_at_4_5]
    show z _ 9 7 (.ok _) = _
    rw [z, if_pos ((field_4_2_5_5_12_2_2_at_9_7 ..).trans (by decide))]
    show Except.ok _ = _
    rw [field_4_2_5_5_12_2_2_at_26_2, field_4_2_5_5_12_2_2_at_21_5, field_4_2_5_5_12_2_2_at_16_5, field_4_2_5_5_12_2_2_at_2_2, field_4_2_5_5_12_2_2_at_0_2]

theorem vceq (e : BitVec 2) (d : BitVec 3) (a : BitVec 5) (b : BitVec 5) (f : BitVec 2) (k : BitVec 2) (t : BitVec 2) : Statement (.vceq e d a b f k t) := by
  intro w h hf
  obtain rfl := Option.some.inj h
  refine decode_of_candidate ?_ hf
  obtain rfl | rfl | rfl | rfl := two_bits e
  all_goals
    unfold candidate
    rw [field_4_2_2_3_5_5_2_5_2_2_at_26_6]
    show decVecInt _ = _
    rw [decVecInt, field_4_2_2_3_5_5_2_5_2_2_at_4_5]
    show z _ 24 2 (.ok _) = _
    rw [z, if_pos ((field_4_2_2_3_5_5_2_5_2_2_at_24_2 ..).trans (by decide))]
    show Except.ok _ = _
    rw [field_4_2_2_3_5_5_2_5_2_2_at_26_2, field_4_2_2_3_5_5_2_5_2_2_at_21_3, field_4_2_2_3_5_5_2_5_2_2_at_16_5, field_4_2_2_3_5_5_2_5_2_2_at_11_5, field_4_2_2_3_5_5_2_5_2_2_at_9_2, field_4_2_2_3_5_5_2_5_2_2_at_2_2, field_4_2_2_3_5_5_2_5_2_2_at_0_2]

theorem vcne (e : BitVec 2) (d : BitVec 3) (a : BitVec 5) (b : BitVec 5) (f : BitVec 2) (k : BitVec 2) (t : BitVec 2) : Statement (.vcne e d a b f k t) := by
  intro w h hf
  obtain rfl := Option.some.inj h
  refine decode_of_candidate ?_ hf
  obtain rfl | rfl | rfl | rfl := two_bits e
  all_goals
    unfold candidate
    rw [field_4_2_2_3_5_5_2_5_2_2_at_26_6]
    show decVecInt _ = _
    rw [decVecInt, field_4_2_2_3_5_5_2_5_2_2_at_4_5]
    show z _ 24 2 (.ok _) = _
    rw [z, if_pos ((field_4_2_2_3_5_5_2_5_2_2_at_24_2 ..).trans (by decide))]
    show Except.ok _ = _
    rw [field_4_2_2_3_5_5_2_5_2_2_at_26_2, field_4_2_2_3_5_5_2_5_2_2_at_21_3, field_4_2_2_3_5_5_2_5_2_2_at_16_5, field_4_2_2_3_5_5_2_5_2_2_at_11_5, field_4_2_2_3_5_5_2_5_2_2_at_9_2, field_4_2_2_3_5_5_2_5_2_2_at_2_2, field_4_2_2_3_5_5_2_5_2_2_at_0_2]

theorem vclt (e : BitVec 2) (d : BitVec 3) (a : BitVec 5) (b : BitVec 5) (f : BitVec 2) (k : BitVec 2) (t : BitVec 2) : Statement (.vclt e d a b f k t) := by
  intro w h hf
  obtain rfl := Option.some.inj h
  refine decode_of_candidate ?_ hf
  obtain rfl | rfl | rfl | rfl := two_bits e
  all_goals
    unfold candidate
    rw [field_4_2_2_3_5_5_2_5_2_2_at_26_6]
    show decVecInt _ = _
    rw [decVecInt, field_4_2_2_3_5_5_2_5_2_2_at_4_5]
    show z _ 24 2 (.ok _) = _
    rw [z, if_pos ((field_4_2_2_3_5_5_2_5_2_2_at_24_2 ..).trans (by decide))]
    show Except.ok _ = _
    rw [field_4_2_2_3_5_5_2_5_2_2_at_26_2, field_4_2_2_3_5_5_2_5_2_2_at_21_3, field_4_2_2_3_5_5_2_5_2_2_at_16_5, field_4_2_2_3_5_5_2_5_2_2_at_11_5, field_4_2_2_3_5_5_2_5_2_2_at_9_2, field_4_2_2_3_5_5_2_5_2_2_at_2_2, field_4_2_2_3_5_5_2_5_2_2_at_0_2]

theorem vcle (e : BitVec 2) (d : BitVec 3) (a : BitVec 5) (b : BitVec 5) (f : BitVec 2) (k : BitVec 2) (t : BitVec 2) : Statement (.vcle e d a b f k t) := by
  intro w h hf
  obtain rfl := Option.some.inj h
  refine decode_of_candidate ?_ hf
  obtain rfl | rfl | rfl | rfl := two_bits e
  all_goals
    unfold candidate
    rw [field_4_2_2_3_5_5_2_5_2_2_at_26_6]
    show decVecInt _ = _
    rw [decVecInt, field_4_2_2_3_5_5_2_5_2_2_at_4_5]
    show z _ 24 2 (.ok _) = _
    rw [z, if_pos ((field_4_2_2_3_5_5_2_5_2_2_at_24_2 ..).trans (by decide))]
    show Except.ok _ = _
    rw [field_4_2_2_3_5_5_2_5_2_2_at_26_2, field_4_2_2_3_5_5_2_5_2_2_at_21_3, field_4_2_2_3_5_5_2_5_2_2_at_16_5, field_4_2_2_3_5_5_2_5_2_2_at_11_5, field_4_2_2_3_5_5_2_5_2_2_at_9_2, field_4_2_2_3_5_5_2_5_2_2_at_2_2, field_4_2_2_3_5_5_2_5_2_2_at_0_2]

theorem vcltu (e : BitVec 2) (d : BitVec 3) (a : BitVec 5) (b : BitVec 5) (f : BitVec 2) (k : BitVec 2) (t : BitVec 2) : Statement (.vcltu e d a b f k t) := by
  intro w h hf
  obtain rfl := Option.some.inj h
  refine decode_of_candidate ?_ hf
  obtain rfl | rfl | rfl | rfl := two_bits e
  all_goals
    unfold candidate
    rw [field_4_2_2_3_5_5_2_5_2_2_at_26_6]
    show decVecInt _ = _
    rw [decVecInt, field_4_2_2_3_5_5_2_5_2_2_at_4_5]
    show z _ 24 2 (.ok _) = _
    rw [z, if_pos ((field_4_2_2_3_5_5_2_5_2_2_at_24_2 ..).trans (by decide))]
    show Except.ok _ = _
    rw [field_4_2_2_3_5_5_2_5_2_2_at_26_2, field_4_2_2_3_5_5_2_5_2_2_at_21_3, field_4_2_2_3_5_5_2_5_2_2_at_16_5, field_4_2_2_3_5_5_2_5_2_2_at_11_5, field_4_2_2_3_5_5_2_5_2_2_at_9_2, field_4_2_2_3_5_5_2_5_2_2_at_2_2, field_4_2_2_3_5_5_2_5_2_2_at_0_2]

theorem vcleu (e : BitVec 2) (d : BitVec 3) (a : BitVec 5) (b : BitVec 5) (f : BitVec 2) (k : BitVec 2) (t : BitVec 2) : Statement (.vcleu e d a b f k t) := by
  intro w h hf
  obtain rfl := Option.some.inj h
  refine decode_of_candidate ?_ hf
  obtain rfl | rfl | rfl | rfl := two_bits e
  all_goals
    unfold candidate
    rw [field_4_2_2_3_5_5_2_5_2_2_at_26_6]
    show decVecInt _ = _
    rw [decVecInt, field_4_2_2_3_5_5_2_5_2_2_at_4_5]
    show z _ 24 2 (.ok _) = _
    rw [z, if_pos ((field_4_2_2_3_5_5_2_5_2_2_at_24_2 ..).trans (by decide))]
    show Except.ok _ = _
    rw [field_4_2_2_3_5_5_2_5_2_2_at_26_2, field_4_2_2_3_5_5_2_5_2_2_at_21_3, field_4_2_2_3_5_5_2_5_2_2_at_16_5, field_4_2_2_3_5_5_2_5_2_2_at_11_5, field_4_2_2_3_5_5_2_5_2_2_at_9_2, field_4_2_2_3_5_5_2_5_2_2_at_2_2, field_4_2_2_3_5_5_2_5_2_2_at_0_2]

theorem vmv (e : BitVec 2) (d : BitVec 5) (b : BitVec 5) (f : BitVec 2) (k : BitVec 2) (t : BitVec 2) : Statement (.vmv e d b f k t) := by
  intro w h hf
  obtain rfl := Option.some.inj h
  refine decode_of_candidate ?_ hf
  obtain rfl | rfl | rfl | rfl := two_bits e
  all_goals
    unfold candidate
    rw [field_4_2_5_5_5_2_5_2_2_at_26_6]
    show decVecInt _ = _
    rw [decVecInt, field_4_2_5_5_5_2_5_2_2_at_4_5]
    show z _ 16 5 (.ok _) = _
    rw [z, if_pos ((field_4_2_5_5_5_2_5_2_2_at_16_5 ..).trans (by decide))]
    show Except.ok _ = _
    rw [field_4_2_5_5_5_2_5_2_2_at_26_2, field_4_2_5_5_5_2_5_2_2_at_21_5, field_4_2_5_5_5_2_5_2_2_at_11_5, field_4_2_5_5_5_2_5_2_2_at_9_2, field_4_2_5_5_5_2_5_2_2_at_2_2, field_4_2_5_5_5_2_5_2_2_at_0_2]

theorem vnarrow (e : BitVec 2) (d : BitVec 5) (a : BitVec 5) (b : BitVec 5) (f : BitVec 2) (k : BitVec 2) (t : BitVec 2) : Statement (.vnarrow e d a b f k t) := by
  intro w h hf
  obtain rfl := Option.some.inj h
  refine decode_of_candidate ?_ hf
  obtain rfl | rfl | rfl | rfl := two_bits e
  all_goals
    unfold candidate
    rw [field_4_2_5_5_5_2_5_2_2_at_26_6]
    show decVecInt _ = _
    rw [decVecInt, field_4_2_5_5_5_2_5_2_2_at_4_5]
    show Except.ok _ = _
    rw [field_4_2_5_5_5_2_5_2_2_at_26_2, field_4_2_5_5_5_2_5_2_2_at_21_5, field_4_2_5_5_5_2_5_2_2_at_16_5, field_4_2_5_5_5_2_5_2_2_at_11_5, field_4_2_5_5_5_2_5_2_2_at_9_2, field_4_2_5_5_5_2_5_2_2_at_2_2, field_4_2_5_5_5_2_5_2_2_at_0_2]

theorem vwiden (e : BitVec 2) (d : BitVec 5) (a : BitVec 5) (k : BitVec 2) (t : BitVec 2) : Statement (.vwiden e d a k t) := by
  intro w h hf
  obtain rfl := Option.some.inj h
  refine decode_of_candidate ?_ hf
  obtain rfl | rfl | rfl | rfl := two_bits e
  all_goals
    unfold candidate
    rw [field_4_2_5_5_12_2_2_at_26_6]
    show decVecInt _ = _
    rw [decVecInt, field_4_2_5_5_12_2_2_at_4_5]
    show z _ 9 7 (.ok _) = _
    rw [z, if_pos ((field_4_2_5_5_12_2_2_at_9_7 ..).trans (by decide))]
    show Except.ok _ = _
    rw [field_4_2_5_5_12_2_2_at_26_2, field_4_2_5_5_12_2_2_at_21_5, field_4_2_5_5_12_2_2_at_16_5, field_4_2_5_5_12_2_2_at_2_2, field_4_2_5_5_12_2_2_at_0_2]

theorem vfadd (e : BitVec 2) (d : BitVec 5) (a : BitVec 5) (b : BitVec 5) (f : BitVec 2) (k : BitVec 2) (t : BitVec 2) : Statement (.vfadd e d a b f k t) := by
  intro w h hf
  obtain rfl := Option.some.inj h
  refine decode_of_candidate ?_ hf
  obtain rfl | rfl | rfl | rfl := two_bits e
  rotate_right
  · exact absurd hf (by simp [Instr.flaw])
  all_goals
    unfold candidate
    rw [field_4_2_5_5_5_2_5_2_2_at_26_6]
    show decVecFp _ = _
    rw [decVecFp, field_4_2_5_5_5_2_5_2_2_at_4_5]
    show Except.ok _ = _
    rw [field_4_2_5_5_5_2_5_2_2_at_26_2, field_4_2_5_5_5_2_5_2_2_at_21_5, field_4_2_5_5_5_2_5_2_2_at_16_5, field_4_2_5_5_5_2_5_2_2_at_11_5, field_4_2_5_5_5_2_5_2_2_at_9_2, field_4_2_5_5_5_2_5_2_2_at_2_2, field_4_2_5_5_5_2_5_2_2_at_0_2]

theorem vfsub (e : BitVec 2) (d : BitVec 5) (a : BitVec 5) (b : BitVec 5) (f : BitVec 2) (k : BitVec 2) (t : BitVec 2) : Statement (.vfsub e d a b f k t) := by
  intro w h hf
  obtain rfl := Option.some.inj h
  refine decode_of_candidate ?_ hf
  obtain rfl | rfl | rfl | rfl := two_bits e
  rotate_right
  · exact absurd hf (by simp [Instr.flaw])
  all_goals
    unfold candidate
    rw [field_4_2_5_5_5_2_5_2_2_at_26_6]
    show decVecFp _ = _
    rw [decVecFp, field_4_2_5_5_5_2_5_2_2_at_4_5]
    show Except.ok _ = _
    rw [field_4_2_5_5_5_2_5_2_2_at_26_2, field_4_2_5_5_5_2_5_2_2_at_21_5, field_4_2_5_5_5_2_5_2_2_at_16_5, field_4_2_5_5_5_2_5_2_2_at_11_5, field_4_2_5_5_5_2_5_2_2_at_9_2, field_4_2_5_5_5_2_5_2_2_at_2_2, field_4_2_5_5_5_2_5_2_2_at_0_2]

theorem vfmul (e : BitVec 2) (d : BitVec 5) (a : BitVec 5) (b : BitVec 5) (f : BitVec 2) (k : BitVec 2) (t : BitVec 2) : Statement (.vfmul e d a b f k t) := by
  intro w h hf
  obtain rfl := Option.some.inj h
  refine decode_of_candidate ?_ hf
  obtain rfl | rfl | rfl | rfl := two_bits e
  rotate_right
  · exact absurd hf (by simp [Instr.flaw])
  all_goals
    unfold candidate
    rw [field_4_2_5_5_5_2_5_2_2_at_26_6]
    show decVecFp _ = _
    rw [decVecFp, field_4_2_5_5_5_2_5_2_2_at_4_5]
    show Except.ok _ = _
    rw [field_4_2_5_5_5_2_5_2_2_at_26_2, field_4_2_5_5_5_2_5_2_2_at_21_5, field_4_2_5_5_5_2_5_2_2_at_16_5, field_4_2_5_5_5_2_5_2_2_at_11_5, field_4_2_5_5_5_2_5_2_2_at_9_2, field_4_2_5_5_5_2_5_2_2_at_2_2, field_4_2_5_5_5_2_5_2_2_at_0_2]

theorem vfdiv (e : BitVec 2) (d : BitVec 5) (a : BitVec 5) (b : BitVec 5) (f : BitVec 2) (k : BitVec 2) (t : BitVec 2) : Statement (.vfdiv e d a b f k t) := by
  intro w h hf
  obtain rfl := Option.some.inj h
  refine decode_of_candidate ?_ hf
  obtain rfl | rfl | rfl | rfl := two_bits e
  rotate_right
  · exact absurd hf (by simp [Instr.flaw])
  all_goals
    unfold candidate
    rw [field_4_2_5_5_5_2_5_2_2_at_26_6]
    show decVecFp _ = _
    rw [decVecFp, field_4_2_5_5_5_2_5_2_2_at_4_5]
    show Except.ok _ = _
    rw [field_4_2_5_5_5_2_5_2_2_at_26_2, field_4_2_5_5_5_2_5_2_2_at_21_5, field_4_2_5_5_5_2_5_2_2_at_16_5, field_4_2_5_5_5_2_5_2_2_at_11_5, field_4_2_5_5_5_2_5_2_2_at_9_2, field_4_2_5_5_5_2_5_2_2_at_2_2, field_4_2_5_5_5_2_5_2_2_at_0_2]

theorem vfsqrt (e : BitVec 2) (d : BitVec 5) (a : BitVec 5) (k : BitVec 2) (t : BitVec 2) : Statement (.vfsqrt e d a k t) := by
  intro w h hf
  obtain rfl := Option.some.inj h
  refine decode_of_candidate ?_ hf
  obtain rfl | rfl | rfl | rfl := two_bits e
  rotate_right
  · exact absurd hf (by simp [Instr.flaw])
  all_goals
    unfold candidate
    rw [field_4_2_5_5_12_2_2_at_26_6]
    show decVecFp _ = _
    rw [decVecFp, field_4_2_5_5_12_2_2_at_4_5]
    show z _ 9 7 (.ok _) = _
    rw [z, if_pos ((field_4_2_5_5_12_2_2_at_9_7 ..).trans (by decide))]
    show Except.ok _ = _
    rw [field_4_2_5_5_12_2_2_at_26_2, field_4_2_5_5_12_2_2_at_21_5, field_4_2_5_5_12_2_2_at_16_5, field_4_2_5_5_12_2_2_at_2_2, field_4_2_5_5_12_2_2_at_0_2]

theorem vfma (e : BitVec 2) (d : BitVec 5) (a : BitVec 5) (b : BitVec 5) (f : BitVec 2) (k : BitVec 2) (t : BitVec 2) : Statement (.vfma e d a b f k t) := by
  intro w h hf
  obtain rfl := Option.some.inj h
  refine decode_of_candidate ?_ hf
  obtain rfl | rfl | rfl | rfl := two_bits e
  rotate_right
  · exact absurd hf (by simp [Instr.flaw])
  all_goals
    unfold candidate
    rw [field_4_2_5_5_5_2_5_2_2_at_26_6]
    show decVecFp _ = _
    rw [decVecFp, field_4_2_5_5_5_2_5_2_2_at_4_5]
    show Except.ok _ = _
    rw [field_4_2_5_5_5_2_5_2_2_at_26_2, field_4_2_5_5_5_2_5_2_2_at_21_5, field_4_2_5_5_5_2_5_2_2_at_16_5, field_4_2_5_5_5_2_5_2_2_at_11_5, field_4_2_5_5_5_2_5_2_2_at_9_2, field_4_2_5_5_5_2_5_2_2_at_2_2, field_4_2_5_5_5_2_5_2_2_at_0_2]

theorem vfms (e : BitVec 2) (d : BitVec 5) (a : BitVec 5) (b : BitVec 5) (f : BitVec 2) (k : BitVec 2) (t : BitVec 2) : Statement (.vfms e d a b f k t) := by
  intro w h hf
  obtain rfl := Option.some.inj h
  refine decode_of_candidate ?_ hf
  obtain rfl | rfl | rfl | rfl := two_bits e
  rotate_right
  · exact absurd hf (by simp [Instr.flaw])
  all_goals
    unfold candidate
    rw [field_4_2_5_5_5_2_5_2_2_at_26_6]
    show decVecFp _ = _
    rw [decVecFp, field_4_2_5_5_5_2_5_2_2_at_4_5]
    show Except.ok _ = _
    rw [field_4_2_5_5_5_2_5_2_2_at_26_2, field_4_2_5_5_5_2_5_2_2_at_21_5, field_4_2_5_5_5_2_5_2_2_at_16_5, field_4_2_5_5_5_2_5_2_2_at_11_5, field_4_2_5_5_5_2_5_2_2_at_9_2, field_4_2_5_5_5_2_5_2_2_at_2_2, field_4_2_5_5_5_2_5_2_2_at_0_2]

theorem vfnma (e : BitVec 2) (d : BitVec 5) (a : BitVec 5) (b : BitVec 5) (f : BitVec 2) (k : BitVec 2) (t : BitVec 2) : Statement (.vfnma e d a b f k t) := by
  intro w h hf
  obtain rfl := Option.some.inj h
  refine decode_of_candidate ?_ hf
  obtain rfl | rfl | rfl | rfl := two_bits e
  rotate_right
  · exact absurd hf (by simp [Instr.flaw])
  all_goals
    unfold candidate
    rw [field_4_2_5_5_5_2_5_2_2_at_26_6]
    show decVecFp _ = _
    rw [decVecFp, field_4_2_5_5_5_2_5_2_2_at_4_5]
    show Except.ok _ = _
    rw [field_4_2_5_5_5_2_5_2_2_at_26_2, field_4_2_5_5_5_2_5_2_2_at_21_5, field_4_2_5_5_5_2_5_2_2_at_16_5, field_4_2_5_5_5_2_5_2_2_at_11_5, field_4_2_5_5_5_2_5_2_2_at_9_2, field_4_2_5_5_5_2_5_2_2_at_2_2, field_4_2_5_5_5_2_5_2_2_at_0_2]

theorem vfmin (e : BitVec 2) (d : BitVec 5) (a : BitVec 5) (b : BitVec 5) (f : BitVec 2) (k : BitVec 2) (t : BitVec 2) : Statement (.vfmin e d a b f k t) := by
  intro w h hf
  obtain rfl := Option.some.inj h
  refine decode_of_candidate ?_ hf
  obtain rfl | rfl | rfl | rfl := two_bits e
  rotate_right
  · exact absurd hf (by simp [Instr.flaw])
  all_goals
    unfold candidate
    rw [field_4_2_5_5_5_2_5_2_2_at_26_6]
    show decVecFp _ = _
    rw [decVecFp, field_4_2_5_5_5_2_5_2_2_at_4_5]
    show Except.ok _ = _
    rw [field_4_2_5_5_5_2_5_2_2_at_26_2, field_4_2_5_5_5_2_5_2_2_at_21_5, field_4_2_5_5_5_2_5_2_2_at_16_5, field_4_2_5_5_5_2_5_2_2_at_11_5, field_4_2_5_5_5_2_5_2_2_at_9_2, field_4_2_5_5_5_2_5_2_2_at_2_2, field_4_2_5_5_5_2_5_2_2_at_0_2]

theorem vfmax (e : BitVec 2) (d : BitVec 5) (a : BitVec 5) (b : BitVec 5) (f : BitVec 2) (k : BitVec 2) (t : BitVec 2) : Statement (.vfmax e d a b f k t) := by
  intro w h hf
  obtain rfl := Option.some.inj h
  refine decode_of_candidate ?_ hf
  obtain rfl | rfl | rfl | rfl := two_bits e
  rotate_right
  · exact absurd hf (by simp [Instr.flaw])
  all_goals
    unfold candidate
    rw [field_4_2_5_5_5_2_5_2_2_at_26_6]
    show decVecFp _ = _
    rw [decVecFp, field_4_2_5_5_5_2_5_2_2_at_4_5]
    show Except.ok _ = _
    rw [field_4_2_5_5_5_2_5_2_2_at_26_2, field_4_2_5_5_5_2_5_2_2_at_21_5, field_4_2_5_5_5_2_5_2_2_at_16_5, field_4_2_5_5_5_2_5_2_2_at_11_5, field_4_2_5_5_5_2_5_2_2_at_9_2, field_4_2_5_5_5_2_5_2_2_at_2_2, field_4_2_5_5_5_2_5_2_2_at_0_2]

theorem vfceq (e : BitVec 2) (d : BitVec 3) (a : BitVec 5) (b : BitVec 5) (f : BitVec 2) (k : BitVec 2) (t : BitVec 2) : Statement (.vfceq e d a b f k t) := by
  intro w h hf
  obtain rfl := Option.some.inj h
  refine decode_of_candidate ?_ hf
  obtain rfl | rfl | rfl | rfl := two_bits e
  rotate_right
  · exact absurd hf (by simp [Instr.flaw])
  all_goals
    unfold candidate
    rw [field_4_2_2_3_5_5_2_5_2_2_at_26_6]
    show decVecFp _ = _
    rw [decVecFp, field_4_2_2_3_5_5_2_5_2_2_at_4_5]
    show z _ 24 2 (.ok _) = _
    rw [z, if_pos ((field_4_2_2_3_5_5_2_5_2_2_at_24_2 ..).trans (by decide))]
    show Except.ok _ = _
    rw [field_4_2_2_3_5_5_2_5_2_2_at_26_2, field_4_2_2_3_5_5_2_5_2_2_at_21_3, field_4_2_2_3_5_5_2_5_2_2_at_16_5, field_4_2_2_3_5_5_2_5_2_2_at_11_5, field_4_2_2_3_5_5_2_5_2_2_at_9_2, field_4_2_2_3_5_5_2_5_2_2_at_2_2, field_4_2_2_3_5_5_2_5_2_2_at_0_2]

theorem vfclt (e : BitVec 2) (d : BitVec 3) (a : BitVec 5) (b : BitVec 5) (f : BitVec 2) (k : BitVec 2) (t : BitVec 2) : Statement (.vfclt e d a b f k t) := by
  intro w h hf
  obtain rfl := Option.some.inj h
  refine decode_of_candidate ?_ hf
  obtain rfl | rfl | rfl | rfl := two_bits e
  rotate_right
  · exact absurd hf (by simp [Instr.flaw])
  all_goals
    unfold candidate
    rw [field_4_2_2_3_5_5_2_5_2_2_at_26_6]
    show decVecFp _ = _
    rw [decVecFp, field_4_2_2_3_5_5_2_5_2_2_at_4_5]
    show z _ 24 2 (.ok _) = _
    rw [z, if_pos ((field_4_2_2_3_5_5_2_5_2_2_at_24_2 ..).trans (by decide))]
    show Except.ok _ = _
    rw [field_4_2_2_3_5_5_2_5_2_2_at_26_2, field_4_2_2_3_5_5_2_5_2_2_at_21_3, field_4_2_2_3_5_5_2_5_2_2_at_16_5, field_4_2_2_3_5_5_2_5_2_2_at_11_5, field_4_2_2_3_5_5_2_5_2_2_at_9_2, field_4_2_2_3_5_5_2_5_2_2_at_2_2, field_4_2_2_3_5_5_2_5_2_2_at_0_2]

theorem vfcle (e : BitVec 2) (d : BitVec 3) (a : BitVec 5) (b : BitVec 5) (f : BitVec 2) (k : BitVec 2) (t : BitVec 2) : Statement (.vfcle e d a b f k t) := by
  intro w h hf
  obtain rfl := Option.some.inj h
  refine decode_of_candidate ?_ hf
  obtain rfl | rfl | rfl | rfl := two_bits e
  rotate_right
  · exact absurd hf (by simp [Instr.flaw])
  all_goals
    unfold candidate
    rw [field_4_2_2_3_5_5_2_5_2_2_at_26_6]
    show decVecFp _ = _
    rw [decVecFp, field_4_2_2_3_5_5_2_5_2_2_at_4_5]
    show z _ 24 2 (.ok _) = _
    rw [z, if_pos ((field_4_2_2_3_5_5_2_5_2_2_at_24_2 ..).trans (by decide))]
    show Except.ok _ = _
    rw [field_4_2_2_3_5_5_2_5_2_2_at_26_2, field_4_2_2_3_5_5_2_5_2_2_at_21_3, field_4_2_2_3_5_5_2_5_2_2_at_16_5, field_4_2_2_3_5_5_2_5_2_2_at_11_5, field_4_2_2_3_5_5_2_5_2_2_at_9_2, field_4_2_2_3_5_5_2_5_2_2_at_2_2, field_4_2_2_3_5_5_2_5_2_2_at_0_2]

theorem vfabs (e : BitVec 2) (d : BitVec 5) (a : BitVec 5) (k : BitVec 2) (t : BitVec 2) : Statement (.vfabs e d a k t) := by
  intro w h hf
  obtain rfl := Option.some.inj h
  refine decode_of_candidate ?_ hf
  obtain rfl | rfl | rfl | rfl := two_bits e
  rotate_right
  · exact absurd hf (by simp [Instr.flaw])
  all_goals
    unfold candidate
    rw [field_4_2_5_5_12_2_2_at_26_6]
    show decVecFp _ = _
    rw [decVecFp, field_4_2_5_5_12_2_2_at_4_5]
    show z _ 9 7 (.ok _) = _
    rw [z, if_pos ((field_4_2_5_5_12_2_2_at_9_7 ..).trans (by decide))]
    show Except.ok _ = _
    rw [field_4_2_5_5_12_2_2_at_26_2, field_4_2_5_5_12_2_2_at_21_5, field_4_2_5_5_12_2_2_at_16_5, field_4_2_5_5_12_2_2_at_2_2, field_4_2_5_5_12_2_2_at_0_2]

theorem vfneg (e : BitVec 2) (d : BitVec 5) (a : BitVec 5) (k : BitVec 2) (t : BitVec 2) : Statement (.vfneg e d a k t) := by
  intro w h hf
  obtain rfl := Option.some.inj h
  refine decode_of_candidate ?_ hf
  obtain rfl | rfl | rfl | rfl := two_bits e
  rotate_right
  · exact absurd hf (by simp [Instr.flaw])
  all_goals
    unfold candidate
    rw [field_4_2_5_5_12_2_2_at_26_6]
    show decVecFp _ = _
    rw [decVecFp, field_4_2_5_5_12_2_2_at_4_5]
    show z _ 9 7 (.ok _) = _
    rw [z, if_pos ((field_4_2_5_5_12_2_2_at_9_7 ..).trans (by decide))]
    show Except.ok _ = _
    rw [field_4_2_5_5_12_2_2_at_26_2, field_4_2_5_5_12_2_2_at_21_5, field_4_2_5_5_12_2_2_at_16_5, field_4_2_5_5_12_2_2_at_2_2, field_4_2_5_5_12_2_2_at_0_2]

theorem vfclass (e : BitVec 2) (d : BitVec 5) (a : BitVec 5) (k : BitVec 2) (t : BitVec 2) : Statement (.vfclass e d a k t) := by
  intro w h hf
  obtain rfl := Option.some.inj h
  refine decode_of_candidate ?_ hf
  obtain rfl | rfl | rfl | rfl := two_bits e
  rotate_right
  · exact absurd hf (by simp [Instr.flaw])
  all_goals
    unfold candidate
    rw [field_4_2_5_5_12_2_2_at_26_6]
    show decVecFp _ = _
    rw [decVecFp, field_4_2_5_5_12_2_2_at_4_5]
    show z _ 9 7 (.ok _) = _
    rw [z, if_pos ((field_4_2_5_5_12_2_2_at_9_7 ..).trans (by decide))]
    show Except.ok _ = _
    rw [field_4_2_5_5_12_2_2_at_26_2, field_4_2_5_5_12_2_2_at_21_5, field_4_2_5_5_12_2_2_at_16_5, field_4_2_5_5_12_2_2_at_2_2, field_4_2_5_5_12_2_2_at_0_2]

theorem vfexp2 (e : BitVec 2) (d : BitVec 5) (a : BitVec 5) (k : BitVec 2) (t : BitVec 2) : Statement (.vfexp2 e d a k t) := by
  intro w h hf
  obtain rfl := Option.some.inj h
  refine decode_of_candidate ?_ hf
  obtain rfl | rfl | rfl | rfl := two_bits e
  rotate_right
  · exact absurd hf (by simp [Instr.flaw])
  all_goals
    unfold candidate
    rw [field_4_2_5_5_12_2_2_at_26_6]
    show decVecFp _ = _
    rw [decVecFp, field_4_2_5_5_12_2_2_at_4_5]
    show z _ 9 7 (.ok _) = _
    rw [z, if_pos ((field_4_2_5_5_12_2_2_at_9_7 ..).trans (by decide))]
    show Except.ok _ = _
    rw [field_4_2_5_5_12_2_2_at_26_2, field_4_2_5_5_12_2_2_at_21_5, field_4_2_5_5_12_2_2_at_16_5, field_4_2_5_5_12_2_2_at_2_2, field_4_2_5_5_12_2_2_at_0_2]

theorem vfrcp (e : BitVec 2) (d : BitVec 5) (a : BitVec 5) (k : BitVec 2) (t : BitVec 2) : Statement (.vfrcp e d a k t) := by
  intro w h hf
  obtain rfl := Option.some.inj h
  refine decode_of_candidate ?_ hf
  obtain rfl | rfl | rfl | rfl := two_bits e
  rotate_right
  · exact absurd hf (by simp [Instr.flaw])
  all_goals
    unfold candidate
    rw [field_4_2_5_5_12_2_2_at_26_6]
    show decVecFp _ = _
    rw [decVecFp, field_4_2_5_5_12_2_2_at_4_5]
    show z _ 9 7 (.ok _) = _
    rw [z, if_pos ((field_4_2_5_5_12_2_2_at_9_7 ..).trans (by decide))]
    show Except.ok _ = _
    rw [field_4_2_5_5_12_2_2_at_26_2, field_4_2_5_5_12_2_2_at_21_5, field_4_2_5_5_12_2_2_at_16_5, field_4_2_5_5_12_2_2_at_2_2, field_4_2_5_5_12_2_2_at_0_2]

theorem vfrsq (e : BitVec 2) (d : BitVec 5) (a : BitVec 5) (k : BitVec 2) (t : BitVec 2) : Statement (.vfrsq e d a k t) := by
  intro w h hf
  obtain rfl := Option.some.inj h
  refine decode_of_candidate ?_ hf
  obtain rfl | rfl | rfl | rfl := two_bits e
  rotate_right
  · exact absurd hf (by simp [Instr.flaw])
  all_goals
    unfold candidate
    rw [field_4_2_5_5_12_2_2_at_26_6]
    show decVecFp _ = _
    rw [decVecFp, field_4_2_5_5_12_2_2_at_4_5]
    show z _ 9 7 (.ok _) = _
    rw [z, if_pos ((field_4_2_5_5_12_2_2_at_9_7 ..).trans (by decide))]
    show Except.ok _ = _
    rw [field_4_2_5_5_12_2_2_at_26_2, field_4_2_5_5_12_2_2_at_21_5, field_4_2_5_5_12_2_2_at_16_5, field_4_2_5_5_12_2_2_at_2_2, field_4_2_5_5_12_2_2_at_0_2]

theorem vfmv (e : BitVec 2) (d : BitVec 5) (b : BitVec 5) (f : BitVec 2) (k : BitVec 2) (t : BitVec 2) : Statement (.vfmv e d b f k t) := by
  intro w h hf
  obtain rfl := Option.some.inj h
  refine decode_of_candidate ?_ hf
  obtain rfl | rfl | rfl | rfl := two_bits e
  rotate_right
  · exact absurd hf (by simp [Instr.flaw])
  all_goals
    unfold candidate
    rw [field_4_2_5_5_5_2_5_2_2_at_26_6]
    show decVecFp _ = _
    rw [decVecFp, field_4_2_5_5_5_2_5_2_2_at_4_5]
    show z _ 16 5 (.ok _) = _
    rw [z, if_pos ((field_4_2_5_5_5_2_5_2_2_at_16_5 ..).trans (by decide))]
    show Except.ok _ = _
    rw [field_4_2_5_5_5_2_5_2_2_at_26_2, field_4_2_5_5_5_2_5_2_2_at_21_5, field_4_2_5_5_5_2_5_2_2_at_11_5, field_4_2_5_5_5_2_5_2_2_at_9_2, field_4_2_5_5_5_2_5_2_2_at_2_2, field_4_2_5_5_5_2_5_2_2_at_0_2]

theorem vconvSfBf (d : BitVec 5) (a : BitVec 5) (k : BitVec 2) (t : BitVec 2) : Statement (.vconvSfBf d a k t) := by
  intro w h hf
  obtain rfl := Option.some.inj h
  refine decode_of_candidate ?_ hf
  unfold candidate
  rw [field_6_5_5_12_2_2_at_26_6]
  show decVecConv _ = _
  rw [decVecConv, field_6_5_5_12_2_2_at_4_5]
  show z _ 9 7 (.ok _) = _
  rw [z, if_pos ((field_6_5_5_12_2_2_at_9_7 ..).trans (by decide))]
  show Except.ok _ = _
  rw [field_6_5_5_12_2_2_at_21_5, field_6_5_5_12_2_2_at_16_5, field_6_5_5_12_2_2_at_2_2, field_6_5_5_12_2_2_at_0_2]

theorem vconvBfSf (d : BitVec 5) (a : BitVec 5) (k : BitVec 2) (t : BitVec 2) : Statement (.vconvBfSf d a k t) := by
  intro w h hf
  obtain rfl := Option.some.inj h
  refine decode_of_candidate ?_ hf
  unfold candidate
  rw [field_6_5_5_12_2_2_at_26_6]
  show decVecConv _ = _
  rw [decVecConv, field_6_5_5_12_2_2_at_4_5]
  show z _ 9 7 (.ok _) = _
  rw [z, if_pos ((field_6_5_5_12_2_2_at_9_7 ..).trans (by decide))]
  show Except.ok _ = _
  rw [field_6_5_5_12_2_2_at_21_5, field_6_5_5_12_2_2_at_16_5, field_6_5_5_12_2_2_at_2_2, field_6_5_5_12_2_2_at_0_2]

theorem vconvSfHf (d : BitVec 5) (a : BitVec 5) (k : BitVec 2) (t : BitVec 2) : Statement (.vconvSfHf d a k t) := by
  intro w h hf
  obtain rfl := Option.some.inj h
  refine decode_of_candidate ?_ hf
  unfold candidate
  rw [field_6_5_5_12_2_2_at_26_6]
  show decVecConv _ = _
  rw [decVecConv, field_6_5_5_12_2_2_at_4_5]
  show z _ 9 7 (.ok _) = _
  rw [z, if_pos ((field_6_5_5_12_2_2_at_9_7 ..).trans (by decide))]
  show Except.ok _ = _
  rw [field_6_5_5_12_2_2_at_21_5, field_6_5_5_12_2_2_at_16_5, field_6_5_5_12_2_2_at_2_2, field_6_5_5_12_2_2_at_0_2]

theorem vconvHfSf (d : BitVec 5) (a : BitVec 5) (k : BitVec 2) (t : BitVec 2) : Statement (.vconvHfSf d a k t) := by
  intro w h hf
  obtain rfl := Option.some.inj h
  refine decode_of_candidate ?_ hf
  unfold candidate
  rw [field_6_5_5_12_2_2_at_26_6]
  show decVecConv _ = _
  rw [decVecConv, field_6_5_5_12_2_2_at_4_5]
  show z _ 9 7 (.ok _) = _
  rw [z, if_pos ((field_6_5_5_12_2_2_at_9_7 ..).trans (by decide))]
  show Except.ok _ = _
  rw [field_6_5_5_12_2_2_at_21_5, field_6_5_5_12_2_2_at_16_5, field_6_5_5_12_2_2_at_2_2, field_6_5_5_12_2_2_at_0_2]

theorem vconvSfE4 (d : BitVec 5) (a : BitVec 5) (k : BitVec 2) (t : BitVec 2) : Statement (.vconvSfE4 d a k t) := by
  intro w h hf
  obtain rfl := Option.some.inj h
  refine decode_of_candidate ?_ hf
  unfold candidate
  rw [field_6_5_5_12_2_2_at_26_6]
  show decVecConv _ = _
  rw [decVecConv, field_6_5_5_12_2_2_at_4_5]
  show z _ 9 7 (.ok _) = _
  rw [z, if_pos ((field_6_5_5_12_2_2_at_9_7 ..).trans (by decide))]
  show Except.ok _ = _
  rw [field_6_5_5_12_2_2_at_21_5, field_6_5_5_12_2_2_at_16_5, field_6_5_5_12_2_2_at_2_2, field_6_5_5_12_2_2_at_0_2]

theorem vconvE4Sf (d : BitVec 5) (a : BitVec 5) (k : BitVec 2) (t : BitVec 2) : Statement (.vconvE4Sf d a k t) := by
  intro w h hf
  obtain rfl := Option.some.inj h
  refine decode_of_candidate ?_ hf
  unfold candidate
  rw [field_6_5_5_12_2_2_at_26_6]
  show decVecConv _ = _
  rw [decVecConv, field_6_5_5_12_2_2_at_4_5]
  show z _ 9 7 (.ok _) = _
  rw [z, if_pos ((field_6_5_5_12_2_2_at_9_7 ..).trans (by decide))]
  show Except.ok _ = _
  rw [field_6_5_5_12_2_2_at_21_5, field_6_5_5_12_2_2_at_16_5, field_6_5_5_12_2_2_at_2_2, field_6_5_5_12_2_2_at_0_2]

theorem vconvSfE5 (d : BitVec 5) (a : BitVec 5) (k : BitVec 2) (t : BitVec 2) : Statement (.vconvSfE5 d a k t) := by
  intro w h hf
  obtain rfl := Option.some.inj h
  refine decode_of_candidate ?_ hf
  unfold candidate
  rw [field_6_5_5_12_2_2_at_26_6]
  show decVecConv _ = _
  rw [decVecConv, field_6_5_5_12_2_2_at_4_5]
  show z _ 9 7 (.ok _) = _
  rw [z, if_pos ((field_6_5_5_12_2_2_at_9_7 ..).trans (by decide))]
  show Except.ok _ = _
  rw [field_6_5_5_12_2_2_at_21_5, field_6_5_5_12_2_2_at_16_5, field_6_5_5_12_2_2_at_2_2, field_6_5_5_12_2_2_at_0_2]

theorem vconvE5Sf (d : BitVec 5) (a : BitVec 5) (k : BitVec 2) (t : BitVec 2) : Statement (.vconvE5Sf d a k t) := by
  intro w h hf
  obtain rfl := Option.some.inj h
  refine decode_of_candidate ?_ hf
  unfold candidate
  rw [field_6_5_5_12_2_2_at_26_6]
  show decVecConv _ = _
  rw [decVecConv, field_6_5_5_12_2_2_at_4_5]
  show z _ 9 7 (.ok _) = _
  rw [z, if_pos ((field_6_5_5_12_2_2_at_9_7 ..).trans (by decide))]
  show Except.ok _ = _
  rw [field_6_5_5_12_2_2_at_21_5, field_6_5_5_12_2_2_at_16_5, field_6_5_5_12_2_2_at_2_2, field_6_5_5_12_2_2_at_0_2]

theorem vconvDfSf (d : BitVec 5) (a : BitVec 5) (k : BitVec 2) (t : BitVec 2) : Statement (.vconvDfSf d a k t) := by
  intro w h hf
  obtain rfl := Option.some.inj h
  refine decode_of_candidate ?_ hf
  unfold candidate
  rw [field_6_5_5_12_2_2_at_26_6]
  show decVecConv _ = _
  rw [decVecConv, field_6_5_5_12_2_2_at_4_5]
  show z _ 9 7 (.ok _) = _
  rw [z, if_pos ((field_6_5_5_12_2_2_at_9_7 ..).trans (by decide))]
  show Except.ok _ = _
  rw [field_6_5_5_12_2_2_at_21_5, field_6_5_5_12_2_2_at_16_5, field_6_5_5_12_2_2_at_2_2, field_6_5_5_12_2_2_at_0_2]

theorem vconvSfDf (d : BitVec 5) (a : BitVec 5) (k : BitVec 2) (t : BitVec 2) : Statement (.vconvSfDf d a k t) := by
  intro w h hf
  obtain rfl := Option.some.inj h
  refine decode_of_candidate ?_ hf
  unfold candidate
  rw [field_6_5_5_12_2_2_at_26_6]
  show decVecConv _ = _
  rw [decVecConv, field_6_5_5_12_2_2_at_4_5]
  show z _ 9 7 (.ok _) = _
  rw [z, if_pos ((field_6_5_5_12_2_2_at_9_7 ..).trans (by decide))]
  show Except.ok _ = _
  rw [field_6_5_5_12_2_2_at_21_5, field_6_5_5_12_2_2_at_16_5, field_6_5_5_12_2_2_at_2_2, field_6_5_5_12_2_2_at_0_2]

theorem vconvSfW (d : BitVec 5) (a : BitVec 5) (k : BitVec 2) (t : BitVec 2) : Statement (.vconvSfW d a k t) := by
  intro w h hf
  obtain rfl := Option.some.inj h
  refine decode_of_candidate ?_ hf
  unfold candidate
  rw [field_6_5_5_12_2_2_at_26_6]
  show decVecConv _ = _
  rw [decVecConv, field_6_5_5_12_2_2_at_4_5]
  show z _ 9 7 (.ok _) = _
  rw [z, if_pos ((field_6_5_5_12_2_2_at_9_7 ..).trans (by decide))]
  show Except.ok _ = _
  rw [field_6_5_5_12_2_2_at_21_5, field_6_5_5_12_2_2_at_16_5, field_6_5_5_12_2_2_at_2_2, field_6_5_5_12_2_2_at_0_2]

theorem vconvWSf (d : BitVec 5) (a : BitVec 5) (k : BitVec 2) (t : BitVec 2) : Statement (.vconvWSf d a k t) := by
  intro w h hf
  obtain rfl := Option.some.inj h
  refine decode_of_candidate ?_ hf
  unfold candidate
  rw [field_6_5_5_12_2_2_at_26_6]
  show decVecConv _ = _
  rw [decVecConv, field_6_5_5_12_2_2_at_4_5]
  show z _ 9 7 (.ok _) = _
  rw [z, if_pos ((field_6_5_5_12_2_2_at_9_7 ..).trans (by decide))]
  show Except.ok _ = _
  rw [field_6_5_5_12_2_2_at_21_5, field_6_5_5_12_2_2_at_16_5, field_6_5_5_12_2_2_at_2_2, field_6_5_5_12_2_2_at_0_2]

theorem kq8 (d : BitVec 5) (a : BitVec 5) (b : BitVec 5) (t : BitVec 2) : Statement (.kq8 d a b t) := by
  intro w h hf
  obtain rfl := Option.some.inj h
  refine decode_of_candidate ?_ hf
  unfold candidate
  rw [field_6_5_5_5_9_2_at_26_6]
  show decVecConv _ = _
  rw [decVecConv, field_6_5_5_5_9_2_at_4_5]
  show z _ 9 2 (z _ 2 2 (.ok _)) = _
  rw [z, if_pos ((field_6_5_5_5_9_2_at_9_2 ..).trans (by decide))]
  show z _ 2 2 (.ok _) = _
  rw [z, if_pos ((field_6_5_5_5_9_2_at_2_2 ..).trans (by decide))]
  show Except.ok _ = _
  rw [field_6_5_5_5_9_2_at_21_5, field_6_5_5_5_9_2_at_16_5, field_6_5_5_5_9_2_at_11_5, field_6_5_5_5_9_2_at_0_2]

theorem kdq8 (d : BitVec 5) (a : BitVec 5) (b : BitVec 5) (k : BitVec 2) (t : BitVec 2) : Statement (.kdq8 d a b k t) := by
  intro w h hf
  obtain rfl := Option.some.inj h
  refine decode_of_candidate ?_ hf
  unfold candidate
  rw [field_6_5_5_5_7_2_2_at_26_6]
  show decVecConv _ = _
  rw [decVecConv, field_6_5_5_5_7_2_2_at_4_5]
  show z _ 9 2 (.ok _) = _
  rw [z, if_pos ((field_6_5_5_5_7_2_2_at_9_2 ..).trans (by decide))]
  show Except.ok _ = _
  rw [field_6_5_5_5_7_2_2_at_21_5, field_6_5_5_5_7_2_2_at_16_5, field_6_5_5_5_7_2_2_at_11_5, field_6_5_5_5_7_2_2_at_2_2, field_6_5_5_5_7_2_2_at_0_2]

theorem t2pack (d : BitVec 5) (a : BitVec 5) (e : BitVec 2) (t : BitVec 2) : Statement (.t2pack d a e t) := by
  intro w h hf
  obtain rfl := Option.some.inj h
  refine decode_of_candidate ?_ hf
  unfold candidate
  rw [field_6_5_5_5_2_7_2_at_26_6]
  show decVecConv _ = _
  rw [decVecConv, field_6_5_5_5_2_7_2_at_4_5]
  show z _ 11 5 (z _ 2 2 (.ok _)) = _
  rw [z, if_pos ((field_6_5_5_5_2_7_2_at_11_5 ..).trans (by decide))]
  show z _ 2 2 (.ok _) = _
  rw [z, if_pos ((field_6_5_5_5_2_7_2_at_2_2 ..).trans (by decide))]
  show Except.ok _ = _
  rw [field_6_5_5_5_2_7_2_at_21_5, field_6_5_5_5_2_7_2_at_16_5, field_6_5_5_5_2_7_2_at_9_2, field_6_5_5_5_2_7_2_at_0_2]

theorem t2unpack (d : BitVec 5) (a : BitVec 5) (e : BitVec 2) (k : BitVec 2) (t : BitVec 2) : Statement (.t2unpack d a e k t) := by
  intro w h hf
  obtain rfl := Option.some.inj h
  refine decode_of_candidate ?_ hf
  unfold candidate
  rw [field_6_5_5_5_2_5_2_2_at_26_6]
  show decVecConv _ = _
  rw [decVecConv, field_6_5_5_5_2_5_2_2_at_4_5]
  show z _ 11 5 (.ok _) = _
  rw [z, if_pos ((field_6_5_5_5_2_5_2_2_at_11_5 ..).trans (by decide))]
  show Except.ok _ = _
  rw [field_6_5_5_5_2_5_2_2_at_21_5, field_6_5_5_5_2_5_2_2_at_16_5, field_6_5_5_5_2_5_2_2_at_9_2, field_6_5_5_5_2_5_2_2_at_2_2, field_6_5_5_5_2_5_2_2_at_0_2]

theorem q4pack (d : BitVec 5) (a : BitVec 5) (e : BitVec 2) (t : BitVec 2) : Statement (.q4pack d a e t) := by
  intro w h hf
  obtain rfl := Option.some.inj h
  refine decode_of_candidate ?_ hf
  unfold candidate
  rw [field_6_5_5_5_2_7_2_at_26_6]
  show decVecConv _ = _
  rw [decVecConv, field_6_5_5_5_2_7_2_at_4_5]
  show z _ 11 5 (z _ 2 2 (.ok _)) = _
  rw [z, if_pos ((field_6_5_5_5_2_7_2_at_11_5 ..).trans (by decide))]
  show z _ 2 2 (.ok _) = _
  rw [z, if_pos ((field_6_5_5_5_2_7_2_at_2_2 ..).trans (by decide))]
  show Except.ok _ = _
  rw [field_6_5_5_5_2_7_2_at_21_5, field_6_5_5_5_2_7_2_at_16_5, field_6_5_5_5_2_7_2_at_9_2, field_6_5_5_5_2_7_2_at_0_2]

theorem q4unpack (d : BitVec 5) (a : BitVec 5) (e : BitVec 2) (k : BitVec 2) (t : BitVec 2) : Statement (.q4unpack d a e k t) := by
  intro w h hf
  obtain rfl := Option.some.inj h
  refine decode_of_candidate ?_ hf
  unfold candidate
  rw [field_6_5_5_5_2_5_2_2_at_26_6]
  show decVecConv _ = _
  rw [decVecConv, field_6_5_5_5_2_5_2_2_at_4_5]
  show z _ 11 5 (.ok _) = _
  rw [z, if_pos ((field_6_5_5_5_2_5_2_2_at_11_5 ..).trans (by decide))]
  show Except.ok _ = _
  rw [field_6_5_5_5_2_5_2_2_at_21_5, field_6_5_5_5_2_5_2_2_at_16_5, field_6_5_5_5_2_5_2_2_at_9_2, field_6_5_5_5_2_5_2_2_at_2_2, field_6_5_5_5_2_5_2_2_at_0_2]

theorem kand (d : BitVec 3) (a : BitVec 3) (b : BitVec 3) : Statement (.kand d a b) := by
  intro w h hf
  obtain rfl := Option.some.inj h
  refine decode_of_candidate ?_ hf
  unfold candidate
  rw [field_8_3_2_3_2_3_11_at_26_6]
  show decMask _ = _
  rw [decMask, field_8_3_2_3_2_3_11_at_0_6]
  show z _ 24 2 (z _ 19 2 (z _ 14 2 (z _ 6 5 (.ok _)))) = _
  rw [z, if_pos ((field_8_3_2_3_2_3_11_at_24_2 ..).trans (by decide))]
  show z _ 19 2 (z _ 14 2 (z _ 6 5 (.ok _))) = _
  rw [z, if_pos ((field_8_3_2_3_2_3_11_at_19_2 ..).trans (by decide))]
  show z _ 14 2 (z _ 6 5 (.ok _)) = _
  rw [z, if_pos ((field_8_3_2_3_2_3_11_at_14_2 ..).trans (by decide))]
  show z _ 6 5 (.ok _) = _
  rw [z, if_pos ((field_8_3_2_3_2_3_11_at_6_5 ..).trans (by decide))]
  show Except.ok _ = _
  rw [field_8_3_2_3_2_3_11_at_21_3, field_8_3_2_3_2_3_11_at_16_3, field_8_3_2_3_2_3_11_at_11_3]

theorem kor (d : BitVec 3) (a : BitVec 3) (b : BitVec 3) : Statement (.kor d a b) := by
  intro w h hf
  obtain rfl := Option.some.inj h
  refine decode_of_candidate ?_ hf
  unfold candidate
  rw [field_8_3_2_3_2_3_11_at_26_6]
  show decMask _ = _
  rw [decMask, field_8_3_2_3_2_3_11_at_0_6]
  show z _ 24 2 (z _ 19 2 (z _ 14 2 (z _ 6 5 (.ok _)))) = _
  rw [z, if_pos ((field_8_3_2_3_2_3_11_at_24_2 ..).trans (by decide))]
  show z _ 19 2 (z _ 14 2 (z _ 6 5 (.ok _))) = _
  rw [z, if_pos ((field_8_3_2_3_2_3_11_at_19_2 ..).trans (by decide))]
  show z _ 14 2 (z _ 6 5 (.ok _)) = _
  rw [z, if_pos ((field_8_3_2_3_2_3_11_at_14_2 ..).trans (by decide))]
  show z _ 6 5 (.ok _) = _
  rw [z, if_pos ((field_8_3_2_3_2_3_11_at_6_5 ..).trans (by decide))]
  show Except.ok _ = _
  rw [field_8_3_2_3_2_3_11_at_21_3, field_8_3_2_3_2_3_11_at_16_3, field_8_3_2_3_2_3_11_at_11_3]

theorem kxor (d : BitVec 3) (a : BitVec 3) (b : BitVec 3) : Statement (.kxor d a b) := by
  intro w h hf
  obtain rfl := Option.some.inj h
  refine decode_of_candidate ?_ hf
  unfold candidate
  rw [field_8_3_2_3_2_3_11_at_26_6]
  show decMask _ = _
  rw [decMask, field_8_3_2_3_2_3_11_at_0_6]
  show z _ 24 2 (z _ 19 2 (z _ 14 2 (z _ 6 5 (.ok _)))) = _
  rw [z, if_pos ((field_8_3_2_3_2_3_11_at_24_2 ..).trans (by decide))]
  show z _ 19 2 (z _ 14 2 (z _ 6 5 (.ok _))) = _
  rw [z, if_pos ((field_8_3_2_3_2_3_11_at_19_2 ..).trans (by decide))]
  show z _ 14 2 (z _ 6 5 (.ok _)) = _
  rw [z, if_pos ((field_8_3_2_3_2_3_11_at_14_2 ..).trans (by decide))]
  show z _ 6 5 (.ok _) = _
  rw [z, if_pos ((field_8_3_2_3_2_3_11_at_6_5 ..).trans (by decide))]
  show Except.ok _ = _
  rw [field_8_3_2_3_2_3_11_at_21_3, field_8_3_2_3_2_3_11_at_16_3, field_8_3_2_3_2_3_11_at_11_3]

theorem knot (d : BitVec 3) (a : BitVec 3) : Statement (.knot d a) := by
  intro w h hf
  obtain rfl := Option.some.inj h
  refine decode_of_candidate ?_ hf
  unfold candidate
  rw [field_8_3_2_3_16_at_26_6]
  show decMask _ = _
  rw [decMask, field_8_3_2_3_16_at_0_6]
  show z _ 24 2 (z _ 19 2 (z _ 6 10 (.ok _))) = _
  rw [z, if_pos ((field_8_3_2_3_16_at_24_2 ..).trans (by decide))]
  show z _ 19 2 (z _ 6 10 (.ok _)) = _
  rw [z, if_pos ((field_8_3_2_3_16_at_19_2 ..).trans (by decide))]
  show z _ 6 10 (.ok _) = _
  rw [z, if_pos ((field_8_3_2_3_16_at_6_10 ..).trans (by decide))]
  show Except.ok _ = _
  rw [field_8_3_2_3_16_at_21_3, field_8_3_2_3_16_at_16_3]

theorem kmov (d : BitVec 3) (a : BitVec 3) : Statement (.kmov d a) := by
  intro w h hf
  obtain rfl := Option.some.inj h
  refine decode_of_candidate ?_ hf
  unfold candidate
  rw [field_8_3_2_3_16_at_26_6]
  show decMask _ = _
  rw [decMask, field_8_3_2_3_16_at_0_6]
  show z _ 24 2 (z _ 19 2 (z _ 6 10 (.ok _))) = _
  rw [z, if_pos ((field_8_3_2_3_16_at_24_2 ..).trans (by decide))]
  show z _ 19 2 (z _ 6 10 (.ok _)) = _
  rw [z, if_pos ((field_8_3_2_3_16_at_19_2 ..).trans (by decide))]
  show z _ 6 10 (.ok _) = _
  rw [z, if_pos ((field_8_3_2_3_16_at_6_10 ..).trans (by decide))]
  show Except.ok _ = _
  rw [field_8_3_2_3_16_at_21_3, field_8_3_2_3_16_at_16_3]

theorem kpop (d : BitVec 5) (a : BitVec 3) : Statement (.kpop d a) := by
  intro w h hf
  obtain rfl := Option.some.inj h
  refine decode_of_candidate ?_ hf
  unfold candidate
  rw [field_6_5_2_3_16_at_26_6]
  show decMask _ = _
  rw [decMask, field_6_5_2_3_16_at_0_6]
  show z _ 19 2 (z _ 6 10 (.ok _)) = _
  rw [z, if_pos ((field_6_5_2_3_16_at_19_2 ..).trans (by decide))]
  show z _ 6 10 (.ok _) = _
  rw [z, if_pos ((field_6_5_2_3_16_at_6_10 ..).trans (by decide))]
  show Except.ok _ = _
  rw [field_6_5_2_3_16_at_21_5, field_6_5_2_3_16_at_16_3]

theorem kfirst (d : BitVec 5) (a : BitVec 3) : Statement (.kfirst d a) := by
  intro w h hf
  obtain rfl := Option.some.inj h
  refine decode_of_candidate ?_ hf
  unfold candidate
  rw [field_6_5_2_3_16_at_26_6]
  show decMask _ = _
  rw [decMask, field_6_5_2_3_16_at_0_6]
  show z _ 19 2 (z _ 6 10 (.ok _)) = _
  rw [z, if_pos ((field_6_5_2_3_16_at_19_2 ..).trans (by decide))]
  show z _ 6 10 (.ok _) = _
  rw [z, if_pos ((field_6_5_2_3_16_at_6_10 ..).trans (by decide))]
  show Except.ok _ = _
  rw [field_6_5_2_3_16_at_21_5, field_6_5_2_3_16_at_16_3]

theorem kset (d : BitVec 3) (a : BitVec 5) (b : BitVec 5) : Statement (.kset d a b) := by
  intro w h hf
  obtain rfl := Option.some.inj h
  refine decode_of_candidate ?_ hf
  unfold candidate
  rw [field_8_3_5_5_11_at_26_6]
  show decMask _ = _
  rw [decMask, field_8_3_5_5_11_at_0_6]
  show z _ 24 2 (z _ 6 5 (.ok _)) = _
  rw [z, if_pos ((field_8_3_5_5_11_at_24_2 ..).trans (by decide))]
  show z _ 6 5 (.ok _) = _
  rw [z, if_pos ((field_8_3_5_5_11_at_6_5 ..).trans (by decide))]
  show Except.ok _ = _
  rw [field_8_3_5_5_11_at_21_3, field_8_3_5_5_11_at_16_5, field_8_3_5_5_11_at_11_5]

theorem kget (d : BitVec 5) (a : BitVec 3) (b : BitVec 5) : Statement (.kget d a b) := by
  intro w h hf
  obtain rfl := Option.some.inj h
  refine decode_of_candidate ?_ hf
  unfold candidate
  rw [field_6_5_2_3_5_11_at_26_6]
  show decMask _ = _
  rw [decMask, field_6_5_2_3_5_11_at_0_6]
  show z _ 19 2 (z _ 6 5 (.ok _)) = _
  rw [z, if_pos ((field_6_5_2_3_5_11_at_19_2 ..).trans (by decide))]
  show z _ 6 5 (.ok _) = _
  rw [z, if_pos ((field_6_5_2_3_5_11_at_6_5 ..).trans (by decide))]
  show Except.ok _ = _
  rw [field_6_5_2_3_5_11_at_21_5, field_6_5_2_3_5_11_at_16_3, field_6_5_2_3_5_11_at_11_5]

theorem setvl (d : BitVec 5) (a : BitVec 5) (b : BitVec 5) : Statement (.setvl d a b) := by
  intro w h hf
  obtain rfl := Option.some.inj h
  refine decode_of_candidate ?_ hf
  unfold candidate
  rw [field_6_5_5_5_11_at_26_6]
  show decMask _ = _
  rw [decMask, field_6_5_5_5_11_at_0_6]
  show z _ 6 5 (.ok _) = _
  rw [z, if_pos ((field_6_5_5_5_11_at_6_5 ..).trans (by decide))]
  show Except.ok _ = _
  rw [field_6_5_5_5_11_at_21_5, field_6_5_5_5_11_at_16_5, field_6_5_5_5_11_at_11_5]

theorem vdead : Statement .vdead := by
  intro w h hf
  obtain rfl := Option.some.inj h
  exact decode_of_candidate rfl hf

theorem vld (d : BitVec 5) (a : BitVec 5) (e : BitVec 2) (k : BitVec 2) (t : BitVec 2) : Statement (.vld d a e k t) := by
  intro w h hf
  obtain rfl := Option.some.inj h
  refine decode_of_candidate ?_ hf
  unfold candidate
  rw [field_6_5_5_5_2_5_2_2_at_26_6]
  show decVecMem _ = _
  rw [decVecMem, field_6_5_5_5_2_5_2_2_at_4_5]
  show z _ 11 5 (.ok _) = _
  rw [z, if_pos ((field_6_5_5_5_2_5_2_2_at_11_5 ..).trans (by decide))]
  show Except.ok _ = _
  rw [field_6_5_5_5_2_5_2_2_at_21_5, field_6_5_5_5_2_5_2_2_at_16_5, field_6_5_5_5_2_5_2_2_at_9_2, field_6_5_5_5_2_5_2_2_at_2_2, field_6_5_5_5_2_5_2_2_at_0_2]

theorem vlds (d : BitVec 5) (a : BitVec 5) (b : BitVec 5) (e : BitVec 2) (k : BitVec 2) (t : BitVec 2) : Statement (.vlds d a b e k t) := by
  intro w h hf
  obtain rfl := Option.some.inj h
  refine decode_of_candidate ?_ hf
  unfold candidate
  rw [field_6_5_5_5_2_5_2_2_at_26_6]
  show decVecMem _ = _
  rw [decVecMem, field_6_5_5_5_2_5_2_2_at_4_5]
  show Except.ok _ = _
  rw [field_6_5_5_5_2_5_2_2_at_21_5, field_6_5_5_5_2_5_2_2_at_16_5, field_6_5_5_5_2_5_2_2_at_11_5, field_6_5_5_5_2_5_2_2_at_9_2, field_6_5_5_5_2_5_2_2_at_2_2, field_6_5_5_5_2_5_2_2_at_0_2]

theorem vldxO (d : BitVec 5) (a : BitVec 5) (b : BitVec 5) (e : BitVec 2) (k : BitVec 2) (t : BitVec 2) : Statement (.vldxO d a b e k t) := by
  intro w h hf
  obtain rfl := Option.some.inj h
  refine decode_of_candidate ?_ hf
  unfold candidate
  rw [field_6_5_5_5_2_5_2_2_at_26_6]
  show decVecMem _ = _
  rw [decVecMem, field_6_5_5_5_2_5_2_2_at_4_5]
  show Except.ok _ = _
  rw [field_6_5_5_5_2_5_2_2_at_21_5, field_6_5_5_5_2_5_2_2_at_16_5, field_6_5_5_5_2_5_2_2_at_11_5, field_6_5_5_5_2_5_2_2_at_9_2, field_6_5_5_5_2_5_2_2_at_2_2, field_6_5_5_5_2_5_2_2_at_0_2]

theorem vldxU (d : BitVec 5) (a : BitVec 5) (b : BitVec 5) (e : BitVec 2) (k : BitVec 2) (t : BitVec 2) : Statement (.vldxU d a b e k t) := by
  intro w h hf
  obtain rfl := Option.some.inj h
  refine decode_of_candidate ?_ hf
  unfold candidate
  rw [field_6_5_5_5_2_5_2_2_at_26_6]
  show decVecMem _ = _
  rw [decVecMem, field_6_5_5_5_2_5_2_2_at_4_5]
  show Except.ok _ = _
  rw [field_6_5_5_5_2_5_2_2_at_21_5, field_6_5_5_5_2_5_2_2_at_16_5, field_6_5_5_5_2_5_2_2_at_11_5, field_6_5_5_5_2_5_2_2_at_9_2, field_6_5_5_5_2_5_2_2_at_2_2, field_6_5_5_5_2_5_2_2_at_0_2]

theorem vst (s : BitVec 5) (a : BitVec 5) (e : BitVec 2) (k : BitVec 2) (t : BitVec 2) : Statement (.vst s a e k t) := by
  intro w h hf
  obtain rfl := Option.some.inj h
  refine decode_of_candidate ?_ hf
  unfold candidate
  rw [field_6_5_5_5_2_5_2_2_at_26_6]
  show decVecMem _ = _
  rw [decVecMem, field_6_5_5_5_2_5_2_2_at_4_5]
  show z _ 11 5 (.ok _) = _
  rw [z, if_pos ((field_6_5_5_5_2_5_2_2_at_11_5 ..).trans (by decide))]
  show Except.ok _ = _
  rw [field_6_5_5_5_2_5_2_2_at_21_5, field_6_5_5_5_2_5_2_2_at_16_5, field_6_5_5_5_2_5_2_2_at_9_2, field_6_5_5_5_2_5_2_2_at_2_2, field_6_5_5_5_2_5_2_2_at_0_2]

theorem vsts (s : BitVec 5) (a : BitVec 5) (b : BitVec 5) (e : BitVec 2) (k : BitVec 2) (t : BitVec 2) : Statement (.vsts s a b e k t) := by
  intro w h hf
  obtain rfl := Option.some.inj h
  refine decode_of_candidate ?_ hf
  unfold candidate
  rw [field_6_5_5_5_2_5_2_2_at_26_6]
  show decVecMem _ = _
  rw [decVecMem, field_6_5_5_5_2_5_2_2_at_4_5]
  show Except.ok _ = _
  rw [field_6_5_5_5_2_5_2_2_at_21_5, field_6_5_5_5_2_5_2_2_at_16_5, field_6_5_5_5_2_5_2_2_at_11_5, field_6_5_5_5_2_5_2_2_at_9_2, field_6_5_5_5_2_5_2_2_at_2_2, field_6_5_5_5_2_5_2_2_at_0_2]

theorem vstxO (s : BitVec 5) (a : BitVec 5) (b : BitVec 5) (e : BitVec 2) (k : BitVec 2) (t : BitVec 2) : Statement (.vstxO s a b e k t) := by
  intro w h hf
  obtain rfl := Option.some.inj h
  refine decode_of_candidate ?_ hf
  unfold candidate
  rw [field_6_5_5_5_2_5_2_2_at_26_6]
  show decVecMem _ = _
  rw [decVecMem, field_6_5_5_5_2_5_2_2_at_4_5]
  show Except.ok _ = _
  rw [field_6_5_5_5_2_5_2_2_at_21_5, field_6_5_5_5_2_5_2_2_at_16_5, field_6_5_5_5_2_5_2_2_at_11_5, field_6_5_5_5_2_5_2_2_at_9_2, field_6_5_5_5_2_5_2_2_at_2_2, field_6_5_5_5_2_5_2_2_at_0_2]

theorem vstxU (s : BitVec 5) (a : BitVec 5) (b : BitVec 5) (e : BitVec 2) (k : BitVec 2) (t : BitVec 2) : Statement (.vstxU s a b e k t) := by
  intro w h hf
  obtain rfl := Option.some.inj h
  refine decode_of_candidate ?_ hf
  unfold candidate
  rw [field_6_5_5_5_2_5_2_2_at_26_6]
  show decVecMem _ = _
  rw [decVecMem, field_6_5_5_5_2_5_2_2_at_4_5]
  show Except.ok _ = _
  rw [field_6_5_5_5_2_5_2_2_at_21_5, field_6_5_5_5_2_5_2_2_at_16_5, field_6_5_5_5_2_5_2_2_at_11_5, field_6_5_5_5_2_5_2_2_at_9_2, field_6_5_5_5_2_5_2_2_at_2_2, field_6_5_5_5_2_5_2_2_at_0_2]

theorem vscaddI (s : BitVec 5) (a : BitVec 5) (b : BitVec 5) (e : BitVec 2) (k : BitVec 2) (t : BitVec 2) : Statement (.vscaddI s a b e k t) := by
  intro w h hf
  obtain rfl := Option.some.inj h
  refine decode_of_candidate ?_ hf
  unfold candidate
  rw [field_6_5_5_5_2_5_2_2_at_26_6]
  show decVecMem _ = _
  rw [decVecMem, field_6_5_5_5_2_5_2_2_at_4_5]
  show Except.ok _ = _
  rw [field_6_5_5_5_2_5_2_2_at_21_5, field_6_5_5_5_2_5_2_2_at_16_5, field_6_5_5_5_2_5_2_2_at_11_5, field_6_5_5_5_2_5_2_2_at_9_2, field_6_5_5_5_2_5_2_2_at_2_2, field_6_5_5_5_2_5_2_2_at_0_2]

theorem vscaddX (s : BitVec 5) (a : BitVec 5) (b : BitVec 5) (k : BitVec 2) (t : BitVec 2) : Statement (.vscaddX s a b k t) := by
  intro w h hf
  obtain rfl := Option.some.inj h
  refine decode_of_candidate ?_ hf
  unfold candidate
  rw [field_6_5_5_5_7_2_2_at_26_6]
  show decVecMem _ = _
  rw [decVecMem, field_6_5_5_5_7_2_2_at_4_5]
  show need _ 9 2 _ (.ok _) = _
  rw [need, if_pos ((field_6_5_5_5_7_2_2_at_9_2 ..).trans (by decide))]
  show Except.ok _ = _
  rw [field_6_5_5_5_7_2_2_at_21_5, field_6_5_5_5_7_2_2_at_16_5, field_6_5_5_5_7_2_2_at_11_5, field_6_5_5_5_7_2_2_at_2_2, field_6_5_5_5_7_2_2_at_0_2]

theorem vscmin (s : BitVec 5) (a : BitVec 5) (b : BitVec 5) (e : BitVec 2) (k : BitVec 2) (t : BitVec 2) : Statement (.vscmin s a b e k t) := by
  intro w h hf
  obtain rfl := Option.some.inj h
  refine decode_of_candidate ?_ hf
  unfold candidate
  rw [field_6_5_5_5_2_5_2_2_at_26_6]
  show decVecMem _ = _
  rw [decVecMem, field_6_5_5_5_2_5_2_2_at_4_5]
  show Except.ok _ = _
  rw [field_6_5_5_5_2_5_2_2_at_21_5, field_6_5_5_5_2_5_2_2_at_16_5, field_6_5_5_5_2_5_2_2_at_11_5, field_6_5_5_5_2_5_2_2_at_9_2, field_6_5_5_5_2_5_2_2_at_2_2, field_6_5_5_5_2_5_2_2_at_0_2]

theorem vscmax (s : BitVec 5) (a : BitVec 5) (b : BitVec 5) (e : BitVec 2) (k : BitVec 2) (t : BitVec 2) : Statement (.vscmax s a b e k t) := by
  intro w h hf
  obtain rfl := Option.some.inj h
  refine decode_of_candidate ?_ hf
  unfold candidate
  rw [field_6_5_5_5_2_5_2_2_at_26_6]
  show decVecMem _ = _
  rw [decVecMem, field_6_5_5_5_2_5_2_2_at_4_5]
  show Except.ok _ = _
  rw [field_6_5_5_5_2_5_2_2_at_21_5, field_6_5_5_5_2_5_2_2_at_16_5, field_6_5_5_5_2_5_2_2_at_11_5, field_6_5_5_5_2_5_2_2_at_9_2, field_6_5_5_5_2_5_2_2_at_2_2, field_6_5_5_5_2_5_2_2_at_0_2]

theorem vscor (s : BitVec 5) (a : BitVec 5) (b : BitVec 5) (e : BitVec 2) (k : BitVec 2) (t : BitVec 2) : Statement (.vscor s a b e k t) := by
  intro w h hf
  obtain rfl := Option.some.inj h
  refine decode_of_candidate ?_ hf
  unfold candidate
  rw [field_6_5_5_5_2_5_2_2_at_26_6]
  show decVecMem _ = _
  rw [decVecMem, field_6_5_5_5_2_5_2_2_at_4_5]
  show Except.ok _ = _
  rw [field_6_5_5_5_2_5_2_2_at_21_5, field_6_5_5_5_2_5_2_2_at_16_5, field_6_5_5_5_2_5_2_2_at_11_5, field_6_5_5_5_2_5_2_2_at_9_2, field_6_5_5_5_2_5_2_2_at_2_2, field_6_5_5_5_2_5_2_2_at_0_2]

theorem vldb (d : BitVec 5) (a : BitVec 5) (e : BitVec 2) (k : BitVec 2) (t : BitVec 2) : Statement (.vldb d a e k t) := by
  intro w h hf
  obtain rfl := Option.some.inj h
  refine decode_of_candidate ?_ hf
  unfold candidate
  rw [field_6_5_5_5_2_5_2_2_at_26_6]
  show decVecMem _ = _
  rw [decVecMem, field_6_5_5_5_2_5_2_2_at_4_5]
  show z _ 11 5 (.ok _) = _
  rw [z, if_pos ((field_6_5_5_5_2_5_2_2_at_11_5 ..).trans (by decide))]
  show Except.ok _ = _
  rw [field_6_5_5_5_2_5_2_2_at_21_5, field_6_5_5_5_2_5_2_2_at_16_5, field_6_5_5_5_2_5_2_2_at_9_2, field_6_5_5_5_2_5_2_2_at_2_2, field_6_5_5_5_2_5_2_2_at_0_2]

theorem vldff (d : BitVec 5) (a : BitVec 5) (e : BitVec 2) (k : BitVec 2) (t : BitVec 2) : Statement (.vldff d a e k t) := by
  intro w h hf
  obtain rfl := Option.some.inj h
  refine decode_of_candidate ?_ hf
  unfold candidate
  rw [field_6_5_5_5_2_5_2_2_at_26_6]
  show decVecMem _ = _
  rw [decVecMem, field_6_5_5_5_2_5_2_2_at_4_5]
  show z _ 11 5 (.ok _) = _
  rw [z, if_pos ((field_6_5_5_5_2_5_2_2_at_11_5 ..).trans (by decide))]
  show Except.ok _ = _
  rw [field_6_5_5_5_2_5_2_2_at_21_5, field_6_5_5_5_2_5_2_2_at_16_5, field_6_5_5_5_2_5_2_2_at_9_2, field_6_5_5_5_2_5_2_2_at_2_2, field_6_5_5_5_2_5_2_2_at_0_2]

theorem vscaddF (s : BitVec 5) (a : BitVec 5) (b : BitVec 5) (e : BitVec 1) (k : BitVec 2) (t : BitVec 2) : Statement (.vscaddF s a b e k t) := by
  intro w h hf
  obtain rfl := Option.some.inj h
  refine decode_of_candidate ?_ hf
  unfold candidate
  rw [field_6_5_5_5_1_1_5_2_2_at_26_6]
  show decVecMem _ = _
  rw [decVecMem, field_6_5_5_5_1_1_5_2_2_at_4_5]
  show need _ 10 1 _ (.ok _) = _
  rw [need, if_pos ((field_6_5_5_5_1_1_5_2_2_at_10_1 ..).trans (by decide))]
  show Except.ok _ = _
  rw [field_6_5_5_5_1_1_5_2_2_at_21_5, field_6_5_5_5_1_1_5_2_2_at_16_5, field_6_5_5_5_1_1_5_2_2_at_11_5, field_6_5_5_5_1_1_5_2_2_at_9_1, field_6_5_5_5_1_1_5_2_2_at_2_2, field_6_5_5_5_1_1_5_2_2_at_0_2]

theorem vredsum (d : BitVec 5) (a : BitVec 5) (b : BitVec 5) (e : BitVec 2) (k : BitVec 2) (t : BitVec 2) : Statement (.vredsum d a b e k t) := by
  intro w h hf
  obtain rfl := Option.some.inj h
  refine decode_of_candidate ?_ hf
  unfold candidate
  rw [field_6_5_5_5_2_5_2_2_at_26_6]
  show decVecPerm _ = _
  rw [decVecPerm, field_6_5_5_5_2_5_2_2_at_4_5]
  show Except.ok _ = _
  rw [field_6_5_5_5_2_5_2_2_at_21_5, field_6_5_5_5_2_5_2_2_at_16_5, field_6_5_5_5_2_5_2_2_at_11_5, field_6_5_5_5_2_5_2_2_at_9_2, field_6_5_5_5_2_5_2_2_at_2_2, field_6_5_5_5_2_5_2_2_at_0_2]

theorem vredmax (d : BitVec 5) (a : BitVec 5) (b : BitVec 5) (e : BitVec 2) (k : BitVec 2) (t : BitVec 2) : Statement (.vredmax d a b e k t) := by
  intro w h hf
  obtain rfl := Option.some.inj h
  refine decode_of_candidate ?_ hf
  unfold candidate
  rw [field_6_5_5_5_2_5_2_2_at_26_6]
  show decVecPerm _ = _
  rw [decVecPerm, field_6_5_5_5_2_5_2_2_at_4_5]
  show Except.ok _ = _
  rw [field_6_5_5_5_2_5_2_2_at_21_5, field_6_5_5_5_2_5_2_2_at_16_5, field_6_5_5_5_2_5_2_2_at_11_5, field_6_5_5_5_2_5_2_2_at_9_2, field_6_5_5_5_2_5_2_2_at_2_2, field_6_5_5_5_2_5_2_2_at_0_2]

theorem vredmin (d : BitVec 5) (a : BitVec 5) (b : BitVec 5) (e : BitVec 2) (k : BitVec 2) (t : BitVec 2) : Statement (.vredmin d a b e k t) := by
  intro w h hf
  obtain rfl := Option.some.inj h
  refine decode_of_candidate ?_ hf
  unfold candidate
  rw [field_6_5_5_5_2_5_2_2_at_26_6]
  show decVecPerm _ = _
  rw [decVecPerm, field_6_5_5_5_2_5_2_2_at_4_5]
  show Except.ok _ = _
  rw [field_6_5_5_5_2_5_2_2_at_21_5, field_6_5_5_5_2_5_2_2_at_16_5, field_6_5_5_5_2_5_2_2_at_11_5, field_6_5_5_5_2_5_2_2_at_9_2, field_6_5_5_5_2_5_2_2_at_2_2, field_6_5_5_5_2_5_2_2_at_0_2]

theorem vredmaxu (d : BitVec 5) (a : BitVec 5) (b : BitVec 5) (e : BitVec 2) (k : BitVec 2) (t : BitVec 2) : Statement (.vredmaxu d a b e k t) := by
  intro w h hf
  obtain rfl := Option.some.inj h
  refine decode_of_candidate ?_ hf
  unfold candidate
  rw [field_6_5_5_5_2_5_2_2_at_26_6]
  show decVecPerm _ = _
  rw [decVecPerm, field_6_5_5_5_2_5_2_2_at_4_5]
  show Except.ok _ = _
  rw [field_6_5_5_5_2_5_2_2_at_21_5, field_6_5_5_5_2_5_2_2_at_16_5, field_6_5_5_5_2_5_2_2_at_11_5, field_6_5_5_5_2_5_2_2_at_9_2, field_6_5_5_5_2_5_2_2_at_2_2, field_6_5_5_5_2_5_2_2_at_0_2]

theorem vredminu (d : BitVec 5) (a : BitVec 5) (b : BitVec 5) (e : BitVec 2) (k : BitVec 2) (t : BitVec 2) : Statement (.vredminu d a b e k t) := by
  intro w h hf
  obtain rfl := Option.some.inj h
  refine decode_of_candidate ?_ hf
  unfold candidate
  rw [field_6_5_5_5_2_5_2_2_at_26_6]
  show decVecPerm _ = _
  rw [decVecPerm, field_6_5_5_5_2_5_2_2_at_4_5]
  show Except.ok _ = _
  rw [field_6_5_5_5_2_5_2_2_at_21_5, field_6_5_5_5_2_5_2_2_at_16_5, field_6_5_5_5_2_5_2_2_at_11_5, field_6_5_5_5_2_5_2_2_at_9_2, field_6_5_5_5_2_5_2_2_at_2_2, field_6_5_5_5_2_5_2_2_at_0_2]

theorem vfredsum (d : BitVec 5) (a : BitVec 5) (b : BitVec 5) (e : BitVec 2) (k : BitVec 2) (t : BitVec 2) : Statement (.vfredsum d a b e k t) := by
  intro w h hf
  obtain rfl := Option.some.inj h
  refine decode_of_candidate ?_ hf
  unfold candidate
  rw [field_6_5_5_5_2_5_2_2_at_26_6]
  show decVecPerm _ = _
  rw [decVecPerm, field_6_5_5_5_2_5_2_2_at_4_5]
  show Except.ok _ = _
  rw [field_6_5_5_5_2_5_2_2_at_21_5, field_6_5_5_5_2_5_2_2_at_16_5, field_6_5_5_5_2_5_2_2_at_11_5, field_6_5_5_5_2_5_2_2_at_9_2, field_6_5_5_5_2_5_2_2_at_2_2, field_6_5_5_5_2_5_2_2_at_0_2]

theorem vfredmax (d : BitVec 5) (a : BitVec 5) (b : BitVec 5) (e : BitVec 2) (k : BitVec 2) (t : BitVec 2) : Statement (.vfredmax d a b e k t) := by
  intro w h hf
  obtain rfl := Option.some.inj h
  refine decode_of_candidate ?_ hf
  unfold candidate
  rw [field_6_5_5_5_2_5_2_2_at_26_6]
  show decVecPerm _ = _
  rw [decVecPerm, field_6_5_5_5_2_5_2_2_at_4_5]
  show Except.ok _ = _
  rw [field_6_5_5_5_2_5_2_2_at_21_5, field_6_5_5_5_2_5_2_2_at_16_5, field_6_5_5_5_2_5_2_2_at_11_5, field_6_5_5_5_2_5_2_2_at_9_2, field_6_5_5_5_2_5_2_2_at_2_2, field_6_5_5_5_2_5_2_2_at_0_2]

theorem vslideup (d : BitVec 5) (a : BitVec 5) (b : BitVec 5) (e : BitVec 2) (k : BitVec 2) (t : BitVec 2) : Statement (.vslideup d a b e k t) := by
  intro w h hf
  obtain rfl := Option.some.inj h
  refine decode_of_candidate ?_ hf
  unfold candidate
  rw [field_6_5_5_5_2_5_2_2_at_26_6]
  show decVecPerm _ = _
  rw [decVecPerm, field_6_5_5_5_2_5_2_2_at_4_5]
  show Except.ok _ = _
  rw [field_6_5_5_5_2_5_2_2_at_21_5, field_6_5_5_5_2_5_2_2_at_16_5, field_6_5_5_5_2_5_2_2_at_11_5, field_6_5_5_5_2_5_2_2_at_9_2, field_6_5_5_5_2_5_2_2_at_2_2, field_6_5_5_5_2_5_2_2_at_0_2]

theorem vslidedn (d : BitVec 5) (a : BitVec 5) (b : BitVec 5) (e : BitVec 2) (k : BitVec 2) (t : BitVec 2) : Statement (.vslidedn d a b e k t) := by
  intro w h hf
  obtain rfl := Option.some.inj h
  refine decode_of_candidate ?_ hf
  unfold candidate
  rw [field_6_5_5_5_2_5_2_2_at_26_6]
  show decVecPerm _ = _
  rw [decVecPerm, field_6_5_5_5_2_5_2_2_at_4_5]
  show Except.ok _ = _
  rw [field_6_5_5_5_2_5_2_2_at_21_5, field_6_5_5_5_2_5_2_2_at_16_5, field_6_5_5_5_2_5_2_2_at_11_5, field_6_5_5_5_2_5_2_2_at_9_2, field_6_5_5_5_2_5_2_2_at_2_2, field_6_5_5_5_2_5_2_2_at_0_2]

theorem vperm (d : BitVec 5) (a : BitVec 5) (b : BitVec 5) (e : BitVec 2) (k : BitVec 2) (t : BitVec 2) : Statement (.vperm d a b e k t) := by
  intro w h hf
  obtain rfl := Option.some.inj h
  refine decode_of_candidate ?_ hf
  unfold candidate
  rw [field_6_5_5_5_2_5_2_2_at_26_6]
  show decVecPerm _ = _
  rw [decVecPerm, field_6_5_5_5_2_5_2_2_at_4_5]
  show Except.ok _ = _
  rw [field_6_5_5_5_2_5_2_2_at_21_5, field_6_5_5_5_2_5_2_2_at_16_5, field_6_5_5_5_2_5_2_2_at_11_5, field_6_5_5_5_2_5_2_2_at_9_2, field_6_5_5_5_2_5_2_2_at_2_2, field_6_5_5_5_2_5_2_2_at_0_2]

theorem vcompress (d : BitVec 5) (a : BitVec 5) (b : BitVec 3) (e : BitVec 2) (t : BitVec 2) : Statement (.vcompress d a b e t) := by
  intro w h hf
  obtain rfl := Option.some.inj h
  refine decode_of_candidate ?_ hf
  unfold candidate
  rw [field_6_5_5_2_3_2_7_2_at_26_6]
  show decVecPerm _ = _
  rw [decVecPerm, field_6_5_5_2_3_2_7_2_at_4_5]
  show z _ 14 2 (z _ 2 2 (.ok _)) = _
  rw [z, if_pos ((field_6_5_5_2_3_2_7_2_at_14_2 ..).trans (by decide))]
  show z _ 2 2 (.ok _) = _
  rw [z, if_pos ((field_6_5_5_2_3_2_7_2_at_2_2 ..).trans (by decide))]
  show Except.ok _ = _
  rw [field_6_5_5_2_3_2_7_2_at_21_5, field_6_5_5_2_3_2_7_2_at_16_5, field_6_5_5_2_3_2_7_2_at_11_3, field_6_5_5_2_3_2_7_2_at_9_2, field_6_5_5_2_3_2_7_2_at_0_2]

theorem vexpand (d : BitVec 5) (a : BitVec 5) (b : BitVec 3) (e : BitVec 2) (t : BitVec 2) : Statement (.vexpand d a b e t) := by
  intro w h hf
  obtain rfl := Option.some.inj h
  refine decode_of_candidate ?_ hf
  unfold candidate
  rw [field_6_5_5_2_3_2_7_2_at_26_6]
  show decVecPerm _ = _
  rw [decVecPerm, field_6_5_5_2_3_2_7_2_at_4_5]
  show z _ 14 2 (z _ 2 2 (.ok _)) = _
  rw [z, if_pos ((field_6_5_5_2_3_2_7_2_at_14_2 ..).trans (by decide))]
  show z _ 2 2 (.ok _) = _
  rw [z, if_pos ((field_6_5_5_2_3_2_7_2_at_2_2 ..).trans (by decide))]
  show Except.ok _ = _
  rw [field_6_5_5_2_3_2_7_2_at_21_5, field_6_5_5_2_3_2_7_2_at_16_5, field_6_5_5_2_3_2_7_2_at_11_3, field_6_5_5_2_3_2_7_2_at_9_2, field_6_5_5_2_3_2_7_2_at_0_2]

theorem vbcast (d : BitVec 5) (a : BitVec 5) (b : BitVec 5) (e : BitVec 2) (k : BitVec 2) (t : BitVec 2) : Statement (.vbcast d a b e k t) := by
  intro w h hf
  obtain rfl := Option.some.inj h
  refine decode_of_candidate ?_ hf
  unfold candidate
  rw [field_6_5_5_5_2_5_2_2_at_26_6]
  show decVecPerm _ = _
  rw [decVecPerm, field_6_5_5_5_2_5_2_2_at_4_5]
  show Except.ok _ = _
  rw [field_6_5_5_5_2_5_2_2_at_21_5, field_6_5_5_5_2_5_2_2_at_16_5, field_6_5_5_5_2_5_2_2_at_11_5, field_6_5_5_5_2_5_2_2_at_9_2, field_6_5_5_5_2_5_2_2_at_2_2, field_6_5_5_5_2_5_2_2_at_0_2]

theorem vmvxs (d : BitVec 5) (a : BitVec 5) (e : BitVec 2) (t : BitVec 2) : Statement (.vmvxs d a e t) := by
  intro w h hf
  obtain rfl := Option.some.inj h
  refine decode_of_candidate ?_ hf
  unfold candidate
  rw [field_6_5_5_5_2_7_2_at_26_6]
  show decVecPerm _ = _
  rw [decVecPerm, field_6_5_5_5_2_7_2_at_4_5]
  show z _ 11 5 (z _ 2 2 (.ok _)) = _
  rw [z, if_pos ((field_6_5_5_5_2_7_2_at_11_5 ..).trans (by decide))]
  show z _ 2 2 (.ok _) = _
  rw [z, if_pos ((field_6_5_5_5_2_7_2_at_2_2 ..).trans (by decide))]
  show Except.ok _ = _
  rw [field_6_5_5_5_2_7_2_at_21_5, field_6_5_5_5_2_7_2_at_16_5, field_6_5_5_5_2_7_2_at_9_2, field_6_5_5_5_2_7_2_at_0_2]

theorem vmvsx (d : BitVec 5) (a : BitVec 5) (e : BitVec 2) (t : BitVec 2) : Statement (.vmvsx d a e t) := by
  intro w h hf
  obtain rfl := Option.some.inj h
  refine decode_of_candidate ?_ hf
  unfold candidate
  rw [field_6_5_5_5_2_7_2_at_26_6]
  show decVecPerm _ = _
  rw [decVecPerm, field_6_5_5_5_2_7_2_at_4_5]
  show z _ 11 5 (z _ 2 2 (.ok _)) = _
  rw [z, if_pos ((field_6_5_5_5_2_7_2_at_11_5 ..).trans (by decide))]
  show z _ 2 2 (.ok _) = _
  rw [z, if_pos ((field_6_5_5_5_2_7_2_at_2_2 ..).trans (by decide))]
  show Except.ok _ = _
  rw [field_6_5_5_5_2_7_2_at_21_5, field_6_5_5_5_2_7_2_at_16_5, field_6_5_5_5_2_7_2_at_9_2, field_6_5_5_5_2_7_2_at_0_2]

theorem vmerge (d : BitVec 5) (a : BitVec 5) (b : BitVec 5) (e : BitVec 2) (k : BitVec 2) (t : BitVec 2) : Statement (.vmerge d a b e k t) := by
  intro w h hf
  obtain rfl := Option.some.inj h
  refine decode_of_candidate ?_ hf
  unfold candidate
  rw [field_6_5_5_5_2_5_2_2_at_26_6]
  show decVecPerm _ = _
  rw [decVecPerm, field_6_5_5_5_2_5_2_2_at_4_5]
  show Except.ok _ = _
  rw [field_6_5_5_5_2_5_2_2_at_21_5, field_6_5_5_5_2_5_2_2_at_16_5, field_6_5_5_5_2_5_2_2_at_11_5, field_6_5_5_5_2_5_2_2_at_9_2, field_6_5_5_5_2_5_2_2_at_2_2, field_6_5_5_5_2_5_2_2_at_0_2]

theorem vbin (d : BitVec 5) (a : BitVec 5) (b : BitVec 3) (e : BitVec 2) (k : BitVec 2) (t : BitVec 2) : Statement (.vbin d a b e k t) := by
  intro w h hf
  obtain rfl := Option.some.inj h
  refine decode_of_candidate ?_ hf
  unfold candidate
  rw [field_6_5_5_2_3_2_5_2_2_at_26_6]
  show decVecPerm _ = _
  rw [decVecPerm, field_6_5_5_2_3_2_5_2_2_at_4_5]
  show z _ 14 2 (.ok _) = _
  rw [z, if_pos ((field_6_5_5_2_3_2_5_2_2_at_14_2 ..).trans (by decide))]
  show Except.ok _ = _
  rw [field_6_5_5_2_3_2_5_2_2_at_21_5, field_6_5_5_2_3_2_5_2_2_at_16_5, field_6_5_5_2_3_2_5_2_2_at_11_3, field_6_5_5_2_3_2_5_2_2_at_9_2, field_6_5_5_2_3_2_5_2_2_at_2_2, field_6_5_5_2_3_2_5_2_2_at_0_2]

theorem vmrgs (d : BitVec 5) (a : BitVec 5) (b : BitVec 5) (e : BitVec 2) (k : BitVec 2) (t : BitVec 2) : Statement (.vmrgs d a b e k t) := by
  intro w h hf
  obtain rfl := Option.some.inj h
  refine decode_of_candidate ?_ hf
  unfold candidate
  rw [field_6_5_5_5_2_5_2_2_at_26_6]
  show decVecPerm _ = _
  rw [decVecPerm, field_6_5_5_5_2_5_2_2_at_4_5]
  show Except.ok _ = _
  rw [field_6_5_5_5_2_5_2_2_at_21_5, field_6_5_5_5_2_5_2_2_at_16_5, field_6_5_5_5_2_5_2_2_at_11_5, field_6_5_5_5_2_5_2_2_at_9_2, field_6_5_5_5_2_5_2_2_at_2_2, field_6_5_5_5_2_5_2_2_at_0_2]

theorem viota (d : BitVec 5) (a : BitVec 3) (e : BitVec 2) (k : BitVec 2) (t : BitVec 2) : Statement (.viota d a e k t) := by
  intro w h hf
  obtain rfl := Option.some.inj h
  refine decode_of_candidate ?_ hf
  unfold candidate
  rw [field_6_5_2_3_5_2_5_2_2_at_26_6]
  show decVecPerm _ = _
  rw [decVecPerm, field_6_5_2_3_5_2_5_2_2_at_4_5]
  show z _ 19 2 (z _ 11 5 (.ok _)) = _
  rw [z, if_pos ((field_6_5_2_3_5_2_5_2_2_at_19_2 ..).trans (by decide))]
  show z _ 11 5 (.ok _) = _
  rw [z, if_pos ((field_6_5_2_3_5_2_5_2_2_at_11_5 ..).trans (by decide))]
  show Except.ok _ = _
  rw [field_6_5_2_3_5_2_5_2_2_at_21_5, field_6_5_2_3_5_2_5_2_2_at_16_3, field_6_5_2_3_5_2_5_2_2_at_9_2, field_6_5_2_3_5_2_5_2_2_at_2_2, field_6_5_2_3_5_2_5_2_2_at_0_2]

theorem vscan (d : BitVec 5) (a : BitVec 5) (e : BitVec 2) (k : BitVec 2) (t : BitVec 2) : Statement (.vscan d a e k t) := by
  intro w h hf
  obtain rfl := Option.some.inj h
  refine decode_of_candidate ?_ hf
  unfold candidate
  rw [field_6_5_5_5_2_5_2_2_at_26_6]
  show decVecPerm _ = _
  rw [decVecPerm, field_6_5_5_5_2_5_2_2_at_4_5]
  show z _ 11 5 (.ok _) = _
  rw [z, if_pos ((field_6_5_5_5_2_5_2_2_at_11_5 ..).trans (by decide))]
  show Except.ok _ = _
  rw [field_6_5_5_5_2_5_2_2_at_21_5, field_6_5_5_5_2_5_2_2_at_16_5, field_6_5_5_5_2_5_2_2_at_9_2, field_6_5_5_5_2_5_2_2_at_2_2, field_6_5_5_5_2_5_2_2_at_0_2]

theorem vid (d : BitVec 5) (e : BitVec 2) (k : BitVec 2) (t : BitVec 2) : Statement (.vid d e k t) := by
  intro w h hf
  obtain rfl := Option.some.inj h
  refine decode_of_candidate ?_ hf
  unfold candidate
  rw [field_6_5_10_2_5_2_2_at_26_6]
  show decVecPerm _ = _
  rw [decVecPerm, field_6_5_10_2_5_2_2_at_4_5]
  show z _ 11 10 (.ok _) = _
  rw [z, if_pos ((field_6_5_10_2_5_2_2_at_11_10 ..).trans (by decide))]
  show Except.ok _ = _
  rw [field_6_5_10_2_5_2_2_at_21_5, field_6_5_10_2_5_2_2_at_9_2, field_6_5_10_2_5_2_2_at_2_2, field_6_5_10_2_5_2_2_at_0_2]

theorem ccopy (d : BitVec 5) (a : BitVec 5) (b : BitVec 3) (q : BitVec 1) (l : BitVec 1) (s : BitVec 2) (t : BitVec 2) : Statement (.ccopy d a b q l s t) := by
  intro w h hf
  obtain rfl := Option.some.inj h
  refine decode_of_candidate ?_ hf
  unfold candidate
  rw [field_6_5_5_2_3_5_1_1_2_2_at_26_6]
  show decCopy _ = _
  rw [decCopy, field_6_5_5_2_3_5_1_1_2_2_at_6_5]
  show z _ 14 2 (.ok _) = _
  rw [z, if_pos ((field_6_5_5_2_3_5_1_1_2_2_at_14_2 ..).trans (by decide))]
  show Except.ok _ = _
  rw [field_6_5_5_2_3_5_1_1_2_2_at_21_5, field_6_5_5_2_3_5_1_1_2_2_at_16_5, field_6_5_5_2_3_5_1_1_2_2_at_11_3, field_6_5_5_2_3_5_1_1_2_2_at_5_1, field_6_5_5_2_3_5_1_1_2_2_at_4_1, field_6_5_5_2_3_5_1_1_2_2_at_2_2, field_6_5_5_2_3_5_1_1_2_2_at_0_2]

theorem cgath (d : BitVec 5) (a : BitVec 5) (b : BitVec 3) (q : BitVec 1) (l : BitVec 1) (s : BitVec 2) (t : BitVec 2) : Statement (.cgath d a b q l s t) := by
  intro w h hf
  obtain rfl := Option.some.inj h
  refine decode_of_candidate ?_ hf
  unfold candidate
  rw [field_6_5_5_2_3_5_1_1_2_2_at_26_6]
  show decCopy _ = _
  rw [decCopy, field_6_5_5_2_3_5_1_1_2_2_at_6_5]
  show z _ 14 2 (.ok _) = _
  rw [z, if_pos ((field_6_5_5_2_3_5_1_1_2_2_at_14_2 ..).trans (by decide))]
  show Except.ok _ = _
  rw [field_6_5_5_2_3_5_1_1_2_2_at_21_5, field_6_5_5_2_3_5_1_1_2_2_at_16_5, field_6_5_5_2_3_5_1_1_2_2_at_11_3, field_6_5_5_2_3_5_1_1_2_2_at_5_1, field_6_5_5_2_3_5_1_1_2_2_at_4_1, field_6_5_5_2_3_5_1_1_2_2_at_2_2, field_6_5_5_2_3_5_1_1_2_2_at_0_2]

theorem cscat (d : BitVec 5) (a : BitVec 5) (b : BitVec 3) (q : BitVec 1) (l : BitVec 1) (s : BitVec 2) (t : BitVec 2) : Statement (.cscat d a b q l s t) := by
  intro w h hf
  obtain rfl := Option.some.inj h
  refine decode_of_candidate ?_ hf
  unfold candidate
  rw [field_6_5_5_2_3_5_1_1_2_2_at_26_6]
  show decCopy _ = _
  rw [decCopy, field_6_5_5_2_3_5_1_1_2_2_at_6_5]
  show z _ 14 2 (.ok _) = _
  rw [z, if_pos ((field_6_5_5_2_3_5_1_1_2_2_at_14_2 ..).trans (by decide))]
  show Except.ok _ = _
  rw [field_6_5_5_2_3_5_1_1_2_2_at_21_5, field_6_5_5_2_3_5_1_1_2_2_at_16_5, field_6_5_5_2_3_5_1_1_2_2_at_11_3, field_6_5_5_2_3_5_1_1_2_2_at_5_1, field_6_5_5_2_3_5_1_1_2_2_at_4_1, field_6_5_5_2_3_5_1_1_2_2_at_2_2, field_6_5_5_2_3_5_1_1_2_2_at_0_2]

theorem cfill (d : BitVec 5) (a : BitVec 5) (b : BitVec 3) (q : BitVec 1) (l : BitVec 1) (s : BitVec 2) (t : BitVec 2) : Statement (.cfill d a b q l s t) := by
  intro w h hf
  obtain rfl := Option.some.inj h
  refine decode_of_candidate ?_ hf
  unfold candidate
  rw [field_6_5_5_2_3_5_1_1_2_2_at_26_6]
  show decCopy _ = _
  rw [decCopy, field_6_5_5_2_3_5_1_1_2_2_at_6_5]
  show z _ 14 2 (.ok _) = _
  rw [z, if_pos ((field_6_5_5_2_3_5_1_1_2_2_at_14_2 ..).trans (by decide))]
  show Except.ok _ = _
  rw [field_6_5_5_2_3_5_1_1_2_2_at_21_5, field_6_5_5_2_3_5_1_1_2_2_at_16_5, field_6_5_5_2_3_5_1_1_2_2_at_11_3, field_6_5_5_2_3_5_1_1_2_2_at_5_1, field_6_5_5_2_3_5_1_1_2_2_at_4_1, field_6_5_5_2_3_5_1_1_2_2_at_2_2, field_6_5_5_2_3_5_1_1_2_2_at_0_2]

theorem cwait (d : BitVec 5) (b : BitVec 3) (t : BitVec 2) : Statement (.cwait d b t) := by
  intro w h hf
  obtain rfl := Option.some.inj h
  refine decode_of_candidate ?_ hf
  unfold candidate
  rw [field_6_5_7_3_9_2_at_26_6]
  show decCopy _ = _
  rw [decCopy, field_6_5_7_3_9_2_at_6_5]
  show z _ 14 7 (z _ 2 4 (.ok _)) = _
  rw [z, if_pos ((field_6_5_7_3_9_2_at_14_7 ..).trans (by decide))]
  show z _ 2 4 (.ok _) = _
  rw [z, if_pos ((field_6_5_7_3_9_2_at_2_4 ..).trans (by decide))]
  show Except.ok _ = _
  rw [field_6_5_7_3_9_2_at_21_5, field_6_5_7_3_9_2_at_11_3, field_6_5_7_3_9_2_at_0_2]

theorem cquery (d : BitVec 5) (a : BitVec 5) (b : BitVec 3) (t : BitVec 2) : Statement (.cquery d a b t) := by
  intro w h hf
  obtain rfl := Option.some.inj h
  refine decode_of_candidate ?_ hf
  unfold candidate
  rw [field_6_5_5_2_3_9_2_at_26_6]
  show decCopy _ = _
  rw [decCopy, field_6_5_5_2_3_9_2_at_6_5]
  show z _ 14 2 (z _ 2 4 (.ok _)) = _
  rw [z, if_pos ((field_6_5_5_2_3_9_2_at_14_2 ..).trans (by decide))]
  show z _ 2 4 (.ok _) = _
  rw [z, if_pos ((field_6_5_5_2_3_9_2_at_2_4 ..).trans (by decide))]
  show Except.ok _ = _
  rw [field_6_5_5_2_3_9_2_at_21_5, field_6_5_5_2_3_9_2_at_16_5, field_6_5_5_2_3_9_2_at_11_3, field_6_5_5_2_3_9_2_at_0_2]

theorem cresume (d : BitVec 5) (a : BitVec 5) (b : BitVec 3) (t : BitVec 2) : Statement (.cresume d a b t) := by
  intro w h hf
  obtain rfl := Option.some.inj h
  refine decode_of_candidate ?_ hf
  unfold candidate
  rw [field_6_5_5_2_3_9_2_at_26_6]
  show decCopy _ = _
  rw [decCopy, field_6_5_5_2_3_9_2_at_6_5]
  show z _ 14 2 (z _ 2 4 (.ok _)) = _
  rw [z, if_pos ((field_6_5_5_2_3_9_2_at_14_2 ..).trans (by decide))]
  show z _ 2 4 (.ok _) = _
  rw [z, if_pos ((field_6_5_5_2_3_9_2_at_2_4 ..).trans (by decide))]
  show Except.ok _ = _
  rw [field_6_5_5_2_3_9_2_at_21_5, field_6_5_5_2_3_9_2_at_16_5, field_6_5_5_2_3_9_2_at_11_3, field_6_5_5_2_3_9_2_at_0_2]

theorem cabort (d : BitVec 5) (a : BitVec 5) (b : BitVec 3) (t : BitVec 2) : Statement (.cabort d a b t) := by
  intro w h hf
  obtain rfl := Option.some.inj h
  refine decode_of_candidate ?_ hf
  unfold candidate
  rw [field_6_5_5_2_3_9_2_at_26_6]
  show decCopy _ = _
  rw [decCopy, field_6_5_5_2_3_9_2_at_6_5]
  show z _ 14 2 (z _ 2 4 (.ok _)) = _
  rw [z, if_pos ((field_6_5_5_2_3_9_2_at_14_2 ..).trans (by decide))]
  show z _ 2 4 (.ok _) = _
  rw [z, if_pos ((field_6_5_5_2_3_9_2_at_2_4 ..).trans (by decide))]
  show Except.ok _ = _
  rw [field_6_5_5_2_3_9_2_at_21_5, field_6_5_5_2_3_9_2_at_16_5, field_6_5_5_2_3_9_2_at_11_3, field_6_5_5_2_3_9_2_at_0_2]

theorem mclaim (d : BitVec 5) (t : BitVec 2) : Statement (.mclaim d t) := by
  intro w h hf
  obtain rfl := Option.some.inj h
  refine decode_of_candidate ?_ hf
  unfold candidate
  rw [field_6_5_19_2_at_26_6]
  show decEnlarger _ = _
  rw [decEnlarger, field_6_5_19_2_at_6_5]
  show z _ 11 10 (z _ 2 4 (.ok _)) = _
  rw [z, if_pos ((field_6_5_19_2_at_11_10 ..).trans (by decide))]
  show z _ 2 4 (.ok _) = _
  rw [z, if_pos ((field_6_5_19_2_at_2_4 ..).trans (by decide))]
  show Except.ok _ = _
  rw [field_6_5_19_2_at_21_5, field_6_5_19_2_at_0_2]

theorem mfmt (a : BitVec 5) (t : BitVec 2) : Statement (.mfmt a t) := by
  intro w h hf
  obtain rfl := Option.some.inj h
  refine decode_of_candidate ?_ hf
  unfold candidate
  rw [field_11_5_14_2_at_26_6]
  show decEnlarger _ = _
  rw [decEnlarger, field_11_5_14_2_at_6_5]
  show z _ 21 5 (z _ 11 5 (z _ 2 4 (.ok _))) = _
  rw [z, if_pos ((field_11_5_14_2_at_21_5 ..).trans (by decide))]
  show z _ 11 5 (z _ 2 4 (.ok _)) = _
  rw [z, if_pos ((field_11_5_14_2_at_11_5 ..).trans (by decide))]
  show z _ 2 4 (.ok _) = _
  rw [z, if_pos ((field_11_5_14_2_at_2_4 ..).trans (by decide))]
  show Except.ok _ = _
  rw [field_11_5_14_2_at_16_5, field_11_5_14_2_at_0_2]

theorem mzero (t : BitVec 2) : Statement (.mzero t) := by
  intro w h hf
  obtain rfl := Option.some.inj h
  refine decode_of_candidate ?_ hf
  unfold candidate
  rw [field_30_2_at_26_6]
  show decEnlarger _ = _
  rw [decEnlarger, field_30_2_at_6_5]
  show z _ 11 15 (z _ 2 4 (.ok _)) = _
  rw [z, if_pos ((field_30_2_at_11_15 ..).trans (by decide))]
  show z _ 2 4 (.ok _) = _
  rw [z, if_pos ((field_30_2_at_2_4 ..).trans (by decide))]
  show Except.ok _ = _
  rw [field_30_2_at_0_2]

theorem mstep (a : BitVec 5) (t : BitVec 2) : Statement (.mstep a t) := by
  intro w h hf
  obtain rfl := Option.some.inj h
  refine decode_of_candidate ?_ hf
  unfold candidate
  rw [field_11_5_14_2_at_26_6]
  show decEnlarger _ = _
  rw [decEnlarger, field_11_5_14_2_at_6_5]
  show z _ 21 5 (z _ 11 5 (z _ 2 4 (.ok _))) = _
  rw [z, if_pos ((field_11_5_14_2_at_21_5 ..).trans (by decide))]
  show z _ 11 5 (z _ 2 4 (.ok _)) = _
  rw [z, if_pos ((field_11_5_14_2_at_11_5 ..).trans (by decide))]
  show z _ 2 4 (.ok _) = _
  rw [z, if_pos ((field_11_5_14_2_at_2_4 ..).trans (by decide))]
  show Except.ok _ = _
  rw [field_11_5_14_2_at_16_5, field_11_5_14_2_at_0_2]

theorem mdrain (d : BitVec 5) (a : BitVec 5) (t : BitVec 2) : Statement (.mdrain d a t) := by
  intro w h hf
  obtain rfl := Option.some.inj h
  refine decode_of_candidate ?_ hf
  unfold candidate
  rw [field_6_5_5_14_2_at_26_6]
  show decEnlarger _ = _
  rw [decEnlarger, field_6_5_5_14_2_at_6_5]
  show z _ 11 5 (z _ 2 4 (.ok _)) = _
  rw [z, if_pos ((field_6_5_5_14_2_at_11_5 ..).trans (by decide))]
  show z _ 2 4 (.ok _) = _
  rw [z, if_pos ((field_6_5_5_14_2_at_2_4 ..).trans (by decide))]
  show Except.ok _ = _
  rw [field_6_5_5_14_2_at_21_5, field_6_5_5_14_2_at_16_5, field_6_5_5_14_2_at_0_2]

theorem mdrainl (a : BitVec 5) (t : BitVec 2) : Statement (.mdrainl a t) := by
  intro w h hf
  obtain rfl := Option.some.inj h
  refine decode_of_candidate ?_ hf
  unfold candidate
  rw [field_11_5_14_2_at_26_6]
  show decEnlarger _ = _
  rw [decEnlarger, field_11_5_14_2_at_6_5]
  show z _ 21 5 (z _ 11 5 (z _ 2 4 (.ok _))) = _
  rw [z, if_pos ((field_11_5_14_2_at_21_5 ..).trans (by decide))]
  show z _ 11 5 (z _ 2 4 (.ok _)) = _
  rw [z, if_pos ((field_11_5_14_2_at_11_5 ..).trans (by decide))]
  show z _ 2 4 (.ok _) = _
  rw [z, if_pos ((field_11_5_14_2_at_2_4 ..).trans (by decide))]
  show Except.ok _ = _
  rw [field_11_5_14_2_at_16_5, field_11_5_14_2_at_0_2]

theorem mrel (t : BitVec 2) : Statement (.mrel t) := by
  intro w h hf
  obtain rfl := Option.some.inj h
  refine decode_of_candidate ?_ hf
  unfold candidate
  rw [field_30_2_at_26_6]
  show decEnlarger _ = _
  rw [decEnlarger, field_30_2_at_6_5]
  show z _ 11 15 (z _ 2 4 (.ok _)) = _
  rw [z, if_pos ((field_30_2_at_11_15 ..).trans (by decide))]
  show z _ 2 4 (.ok _) = _
  rw [z, if_pos ((field_30_2_at_2_4 ..).trans (by decide))]
  show Except.ok _ = _
  rw [field_30_2_at_0_2]

theorem mstat (d : BitVec 5) (t : BitVec 2) : Statement (.mstat d t) := by
  intro w h hf
  obtain rfl := Option.some.inj h
  refine decode_of_candidate ?_ hf
  unfold candidate
  rw [field_6_5_19_2_at_26_6]
  show decEnlarger _ = _
  rw [decEnlarger, field_6_5_19_2_at_6_5]
  show z _ 11 10 (z _ 2 4 (.ok _)) = _
  rw [z, if_pos ((field_6_5_19_2_at_11_10 ..).trans (by decide))]
  show z _ 2 4 (.ok _) = _
  rw [z, if_pos ((field_6_5_19_2_at_2_4 ..).trans (by decide))]
  show Except.ok _ = _
  rw [field_6_5_19_2_at_21_5, field_6_5_19_2_at_0_2]

theorem mspill (d : BitVec 5) (t : BitVec 2) : Statement (.mspill d t) := by
  intro w h hf
  obtain rfl := Option.some.inj h
  refine decode_of_candidate ?_ hf
  unfold candidate
  rw [field_6_5_19_2_at_26_6]
  show decEnlarger _ = _
  rw [decEnlarger, field_6_5_19_2_at_6_5]
  show z _ 11 10 (z _ 2 4 (.ok _)) = _
  rw [z, if_pos ((field_6_5_19_2_at_11_10 ..).trans (by decide))]
  show z _ 2 4 (.ok _) = _
  rw [z, if_pos ((field_6_5_19_2_at_2_4 ..).trans (by decide))]
  show Except.ok _ = _
  rw [field_6_5_19_2_at_21_5, field_6_5_19_2_at_0_2]

theorem lcfg (d : BitVec 5) (a : BitVec 5) (t : BitVec 2) : Statement (.lcfg d a t) := by
  intro w h hf
  obtain rfl := Option.some.inj h
  refine decode_of_candidate ?_ hf
  unfold candidate
  rw [field_6_5_5_14_2_at_26_6]
  show decLoupe _ = _
  rw [decLoupe, field_6_5_5_14_2_at_6_5]
  show z _ 11 5 (z _ 2 4 (.ok _)) = _
  rw [z, if_pos ((field_6_5_5_14_2_at_11_5 ..).trans (by decide))]
  show z _ 2 4 (.ok _) = _
  rw [z, if_pos ((field_6_5_5_14_2_at_2_4 ..).trans (by decide))]
  show Except.ok _ = _
  rw [field_6_5_5_14_2_at_21_5, field_6_5_5_14_2_at_16_5, field_6_5_5_14_2_at_0_2]

theorem lpred (d : BitVec 5) (a : BitVec 5) (t : BitVec 2) : Statement (.lpred d a t) := by
  intro w h hf
  obtain rfl := Option.some.inj h
  refine decode_of_candidate ?_ hf
  unfold candidate
  rw [field_6_5_5_14_2_at_26_6]
  show decLoupe _ = _
  rw [decLoupe, field_6_5_5_14_2_at_6_5]
  show z _ 11 5 (z _ 2 4 (.ok _)) = _
  rw [z, if_pos ((field_6_5_5_14_2_at_11_5 ..).trans (by decide))]
  show z _ 2 4 (.ok _) = _
  rw [z, if_pos ((field_6_5_5_14_2_at_2_4 ..).trans (by decide))]
  show Except.ok _ = _
  rw [field_6_5_5_14_2_at_21_5, field_6_5_5_14_2_at_16_5, field_6_5_5_14_2_at_0_2]

theorem lproof (d : BitVec 5) (a : BitVec 5) (t : BitVec 2) : Statement (.lproof d a t) := by
  intro w h hf
  obtain rfl := Option.some.inj h
  refine decode_of_candidate ?_ hf
  unfold candidate
  rw [field_6_5_5_14_2_at_26_6]
  show decLoupe _ = _
  rw [decLoupe, field_6_5_5_14_2_at_6_5]
  show z _ 11 5 (z _ 2 4 (.ok _)) = _
  rw [z, if_pos ((field_6_5_5_14_2_at_11_5 ..).trans (by decide))]
  show z _ 2 4 (.ok _) = _
  rw [z, if_pos ((field_6_5_5_14_2_at_2_4 ..).trans (by decide))]
  show Except.ok _ = _
  rw [field_6_5_5_14_2_at_21_5, field_6_5_5_14_2_at_16_5, field_6_5_5_14_2_at_0_2]

theorem lstat (d : BitVec 5) (a : BitVec 5) (t : BitVec 2) : Statement (.lstat d a t) := by
  intro w h hf
  obtain rfl := Option.some.inj h
  refine decode_of_candidate ?_ hf
  unfold candidate
  rw [field_6_5_5_14_2_at_26_6]
  show decLoupe _ = _
  rw [decLoupe, field_6_5_5_14_2_at_6_5]
  show z _ 11 5 (z _ 2 4 (.ok _)) = _
  rw [z, if_pos ((field_6_5_5_14_2_at_11_5 ..).trans (by decide))]
  show z _ 2 4 (.ok _) = _
  rw [z, if_pos ((field_6_5_5_14_2_at_2_4 ..).trans (by decide))]
  show Except.ok _ = _
  rw [field_6_5_5_14_2_at_21_5, field_6_5_5_14_2_at_16_5, field_6_5_5_14_2_at_0_2]

theorem sregR (d : BitVec 5) (s : BitVec 10) : Statement (.sregR d s) := by
  intro w h hf
  obtain rfl := Option.some.inj h
  refine decode_of_candidate ?_ hf
  unfold candidate
  rw [field_6_5_5_10_6_at_26_6]
  show decSystem _ = _
  rw [decSystem, field_6_5_5_10_6_at_0_6]
  show z _ 16 5 (.ok _) = _
  rw [z, if_pos ((field_6_5_5_10_6_at_16_5 ..).trans (by decide))]
  show Except.ok _ = _
  rw [field_6_5_5_10_6_at_21_5, field_6_5_5_10_6_at_6_10]

theorem sregW (a : BitVec 5) (s : BitVec 10) : Statement (.sregW a s) := by
  intro w h hf
  obtain rfl := Option.some.inj h
  refine decode_of_candidate ?_ hf
  unfold candidate
  rw [field_11_5_10_6_at_26_6]
  show decSystem _ = _
  rw [decSystem, field_11_5_10_6_at_0_6]
  show z _ 21 5 (.ok _) = _
  rw [z, if_pos ((field_11_5_10_6_at_21_5 ..).trans (by decide))]
  show Except.ok _ = _
  rw [field_11_5_10_6_at_16_5, field_11_5_10_6_at_6_10]

theorem sregX (d : BitVec 5) (a : BitVec 5) (s : BitVec 10) : Statement (.sregX d a s) := by
  intro w h hf
  obtain rfl := Option.some.inj h
  refine decode_of_candidate ?_ hf
  unfold candidate
  rw [field_6_5_5_10_6_at_26_6]
  show decSystem _ = _
  rw [decSystem, field_6_5_5_10_6_at_0_6]
  show Except.ok _ = _
  rw [field_6_5_5_10_6_at_21_5, field_6_5_5_10_6_at_16_5, field_6_5_5_10_6_at_6_10]

theorem scall (n : BitVec 10) : Statement (.scall n) := by
  intro w h hf
  obtain rfl := Option.some.inj h
  refine decode_of_candidate ?_ hf
  unfold candidate
  rw [field_16_10_6_at_26_6]
  show decSystem _ = _
  rw [decSystem, field_16_10_6_at_0_6]
  show z _ 16 10 (.ok _) = _
  rw [z, if_pos ((field_16_10_6_at_16_10 ..).trans (by decide))]
  show Except.ok _ = _
  rw [field_16_10_6_at_6_10]

theorem tret : Statement .tret := by
  intro w h hf
  obtain rfl := Option.some.inj h
  exact decode_of_candidate rfl hf

theorem brk (n : BitVec 10) : Statement (.brk n) := by
  intro w h hf
  obtain rfl := Option.some.inj h
  refine decode_of_candidate ?_ hf
  unfold candidate
  rw [field_16_10_6_at_26_6]
  show decSystem _ = _
  rw [decSystem, field_16_10_6_at_0_6]
  show z _ 16 10 (.ok _) = _
  rw [z, if_pos ((field_16_10_6_at_16_10 ..).trans (by decide))]
  show Except.ok _ = _
  rw [field_16_10_6_at_6_10]

theorem sgld (n : BitVec 3) (a : BitVec 5) : Statement (.sgld n a) := by
  intro w h hf
  obtain rfl := Option.some.inj h
  refine decode_of_candidate ?_ hf
  unfold candidate
  rw [field_8_3_5_16_at_26_6]
  show decSystem _ = _
  rw [decSystem, field_8_3_5_16_at_0_6]
  show z _ 24 2 (z _ 6 10 (.ok _)) = _
  rw [z, if_pos ((field_8_3_5_16_at_24_2 ..).trans (by decide))]
  show z _ 6 10 (.ok _) = _
  rw [z, if_pos ((field_8_3_5_16_at_6_10 ..).trans (by decide))]
  show Except.ok _ = _
  rw [field_8_3_5_16_at_21_3, field_8_3_5_16_at_16_5]

theorem sgst (n : BitVec 3) (a : BitVec 5) : Statement (.sgst n a) := by
  intro w h hf
  obtain rfl := Option.some.inj h
  refine decode_of_candidate ?_ hf
  unfold candidate
  rw [field_8_3_5_16_at_26_6]
  show decSystem _ = _
  rw [decSystem, field_8_3_5_16_at_0_6]
  show z _ 24 2 (z _ 6 10 (.ok _)) = _
  rw [z, if_pos ((field_8_3_5_16_at_24_2 ..).trans (by decide))]
  show z _ 6 10 (.ok _) = _
  rw [z, if_pos ((field_8_3_5_16_at_6_10 ..).trans (by decide))]
  show Except.ok _ = _
  rw [field_8_3_5_16_at_21_3, field_8_3_5_16_at_16_5]

theorem pflush (a : BitVec 5) : Statement (.pflush a) := by
  intro w h hf
  obtain rfl := Option.some.inj h
  refine decode_of_candidate ?_ hf
  unfold candidate
  rw [field_11_5_16_at_26_6]
  show decSystem _ = _
  rw [decSystem, field_11_5_16_at_0_6]
  show z _ 21 5 (z _ 6 10 (.ok _)) = _
  rw [z, if_pos ((field_11_5_16_at_21_5 ..).trans (by decide))]
  show z _ 6 10 (.ok _) = _
  rw [z, if_pos ((field_11_5_16_at_6_10 ..).trans (by decide))]
  show Except.ok _ = _
  rw [field_11_5_16_at_16_5]

theorem cflush (l : BitVec 5) (a : BitVec 5) : Statement (.cflush l a) := by
  intro w h hf
  obtain rfl := Option.some.inj h
  refine decode_of_candidate ?_ hf
  unfold candidate
  rw [field_6_5_5_16_at_26_6]
  show decSystem _ = _
  rw [decSystem, field_6_5_5_16_at_0_6]
  show z _ 6 10 (.ok _) = _
  rw [z, if_pos ((field_6_5_5_16_at_6_10 ..).trans (by decide))]
  show Except.ok _ = _
  rw [field_6_5_5_16_at_21_5, field_6_5_5_16_at_16_5]

theorem cinv (l : BitVec 5) (a : BitVec 5) : Statement (.cinv l a) := by
  intro w h hf
  obtain rfl := Option.some.inj h
  refine decode_of_candidate ?_ hf
  unfold candidate
  rw [field_6_5_5_16_at_26_6]
  show decSystem _ = _
  rw [decSystem, field_6_5_5_16_at_0_6]
  show z _ 6 10 (.ok _) = _
  rw [z, if_pos ((field_6_5_5_16_at_6_10 ..).trans (by decide))]
  show Except.ok _ = _
  rw [field_6_5_5_16_at_21_5, field_6_5_5_16_at_16_5]

theorem idle (d : BitVec 5) : Statement (.idle d) := by
  intro w h hf
  obtain rfl := Option.some.inj h
  refine decode_of_candidate ?_ hf
  unfold candidate
  rw [field_6_5_21_at_26_6]
  show decSystem _ = _
  rw [decSystem, field_6_5_21_at_0_6]
  show z _ 6 15 (.ok _) = _
  rw [z, if_pos ((field_6_5_21_at_6_15 ..).trans (by decide))]
  show Except.ok _ = _
  rw [field_6_5_21_at_21_5]

theorem halt (a : BitVec 5) : Statement (.halt a) := by
  intro w h hf
  obtain rfl := Option.some.inj h
  refine decode_of_candidate ?_ hf
  unfold candidate
  rw [field_11_5_16_at_26_6]
  show decSystem _ = _
  rw [decSystem, field_11_5_16_at_0_6]
  show z _ 21 5 (z _ 6 10 (.ok _)) = _
  rw [z, if_pos ((field_11_5_16_at_21_5 ..).trans (by decide))]
  show z _ 6 10 (.ok _) = _
  rw [z, if_pos ((field_11_5_16_at_6_10 ..).trans (by decide))]
  show Except.ok _ = _
  rw [field_11_5_16_at_16_5]

theorem ssync : Statement .ssync := by
  intro w h hf
  obtain rfl := Option.some.inj h
  exact decode_of_candidate rfl hf

theorem statWrite (v : BitVec 64) : Statement (.statWrite v) := fun _ h _ => nomatch h

theorem fflagsWrite (v : BitVec 64) : Statement (.fflagsWrite v) := fun _ h _ => nomatch h

theorem tmcmpWrite (v : BitVec 64) : Statement (.tmcmpWrite v) := fun _ h _ => nomatch h

theorem mbaseWrite (v : BitVec 64) : Statement (.mbaseWrite v) := fun _ h _ => nomatch h

theorem asidWrite (v : BitVec 64) : Statement (.asidWrite v) := fun _ h _ => nomatch h

theorem pgrootWrite (v : BitVec 64) : Statement (.pgrootWrite v) := fun _ h _ => nomatch h

theorem timerPending : Statement .timerPending := fun _ h _ => nomatch h

theorem interruptEntry : Statement .interruptEntry := fun _ h _ => nomatch h

theorem chunkCreate : Statement .chunkCreate := fun _ h _ => nomatch h

theorem stitchValueArrival : Statement .stitchValueArrival := fun _ h _ => nomatch h

theorem storeNoticeArrival : Statement .storeNoticeArrival := fun _ h _ => nomatch h

theorem chunkRestart : Statement .chunkRestart := fun _ h _ => nomatch h

theorem chunkCommit : Statement .chunkCommit := fun _ h _ => nomatch h

theorem loadResultReturn : Statement .loadResultReturn := fun _ h _ => nomatch h

theorem longOpResult : Statement .longOpResult := fun _ h _ => nomatch h

theorem trkReadMiss (ring : Nat) (line : Nat) : Statement (.trkReadMiss ring line) := fun _ h _ => nomatch h

theorem trkOwnershipRequest (ring : Nat) (line : Nat) : Statement (.trkOwnershipRequest ring line) := fun _ h _ => nomatch h

theorem trkPurge (line : Nat) : Statement (.trkPurge line) := fun _ h _ => nomatch h

theorem purgeAck (line : Nat) : Statement (.purgeAck line) := fun _ h _ => nomatch h

theorem ringCacheEviction (ring : Nat) (line : Nat) : Statement (.ringCacheEviction ring line) := fun _ h _ => nomatch h

theorem pageWalkStart (die : Nat) (va : BitVec 64) : Statement (.pageWalkStart die va) := fun _ h _ => nomatch h

theorem pageWalkComplete (die : Nat) : Statement (.pageWalkComplete die) := fun _ h _ => nomatch h

theorem shootdownAck (die : Nat) : Statement (.shootdownAck die) := fun _ h _ => nomatch h

theorem messageDelivery (spkg : Nat) (sep : Nat) (ep : Nat) (mbox : Nat) (ch : Nat) (user : BitVec 64) (payload : List (BitVec 8)) : Statement (.messageDelivery spkg sep ep mbox ch user payload) := fun _ h _ => nomatch h

theorem parkedMessageDelivery (lid : Nat) (tix : Nat) (entry : Nat) : Statement (.parkedMessageDelivery lid tix entry) := fun _ h _ => nomatch h

theorem waitwReread : Statement .waitwReread := fun _ h _ => nomatch h

theorem waitwTimeout : Statement .waitwTimeout := fun _ h _ => nomatch h

theorem gbarComplete (group : Nat) : Statement (.gbarComplete group) := fun _ h _ => nomatch h

theorem gbarTimeout : Statement .gbarTimeout := fun _ h _ => nomatch h

theorem cwaitTimeout : Statement .cwaitTimeout := fun _ h _ => nomatch h

theorem copyCommandActivate (n : Nat) : Statement (.copyCommandActivate n) := fun _ h _ => nomatch h

theorem copyElementGroup (cmd : Nat) (n : Nat) : Statement (.copyElementGroup cmd n) := fun _ h _ => nomatch h

theorem enlargerLease : Statement .enlargerLease := fun _ h _ => nomatch h

theorem enlargerGroupApply : Statement .enlargerGroupApply := fun _ h _ => nomatch h

theorem lpredCompletion : Statement .lpredCompletion := fun _ h _ => nomatch h

theorem placeThread : Statement .placeThread := fun _ h _ => nomatch h

theorem sliceExpiry : Statement .sliceExpiry := fun _ h _ => nomatch h

theorem wparkExpiry : Statement .wparkExpiry := fun _ h _ => nomatch h

theorem preempt : Statement .preempt := fun _ h _ => nomatch h

theorem resume (lid : Nat) (tix : Nat) : Statement (.resume lid tix) := fun _ h _ => nomatch h

theorem dependenceReread (lid : Nat) : Statement (.dependenceReread lid) := fun _ h _ => nomatch h

theorem waitevReread (queue : Nat) : Statement (.waitevReread queue) := fun _ h _ => nomatch h

theorem queueTailWrite (queue : Nat) (tail : BitVec 64) : Statement (.queueTailWrite queue tail) := fun _ h _ => nomatch h

theorem qctlWrite (queue : Nat) (v : BitVec 64) : Statement (.qctlWrite queue v) := fun _ h _ => nomatch h

theorem eqheadWrite (v : BitVec 64) : Statement (.eqheadWrite v) := fun _ h _ => nomatch h

theorem eqctlWrite (v : BitVec 64) : Statement (.eqctlWrite v) := fun _ h _ => nomatch h

theorem registerWrite (mgmt : Bool) (off : Nat) (v : BitVec 64) : Statement (.registerWrite mgmt off v) := fun _ h _ => nomatch h

theorem launch (queue : Nat) : Statement (.launch queue) := fun _ h _ => nomatch h

theorem signal (queue : Nat) : Statement (.signal queue) := fun _ h _ => nomatch h

theorem waitev (queue : Nat) : Statement (.waitev queue) := fun _ h _ => nomatch h

theorem map (queue : Nat) : Statement (.map queue) := fun _ h _ => nomatch h

theorem unmap (queue : Nat) : Statement (.unmap queue) := fun _ h _ => nomatch h

theorem migrate (queue : Nat) : Statement (.migrate queue) := fun _ h _ => nomatch h

theorem copy (queue : Nat) : Statement (.copy queue) := fun _ h _ => nomatch h

theorem query (queue : Nat) : Statement (.query queue) := fun _ h _ => nomatch h

theorem resetLaunch (queue : Nat) : Statement (.resetLaunch queue) := fun _ h _ => nomatch h

theorem resetWarm (queue : Nat) (fails : List (Nat × Nat)) : Statement (.resetWarm queue fails) := fun _ h _ => nomatch h

theorem resetCold (queue : Nat) (fails : List (Nat × Nat)) : Statement (.resetCold queue fails) := fun _ h _ => nomatch h

theorem attest (queue : Nat) : Statement (.attest queue) := fun _ h _ => nomatch h

theorem loadimg (queue : Nat) : Statement (.loadimg queue) := fun _ h _ => nomatch h

theorem hostRead (pa : Nat) (size : Nat) : Statement (.hostRead pa size) := fun _ h _ => nomatch h

theorem hostWrite (pa : Nat) (size : Nat) (v : BitVec 512) : Statement (.hostWrite pa size v) := fun _ h _ => nomatch h

theorem hostSnoop (line : Nat) (invalidate : Bool) : Statement (.hostSnoop line invalidate) := fun _ h _ => nomatch h

theorem peerRequest (op : Nat) (pa : Nat) (size : Nat) (v : BitVec 64) (w : BitVec 64) : Statement (.peerRequest op pa size v w) := fun _ h _ => nomatch h

theorem powerEvaluation (pkg : Nat) (dieW : List Nat) (stackW : List Nat) : Statement (.powerEvaluation pkg dieW stackW) := fun _ h _ => nomatch h

theorem dieJunctionHot (die : Nat) : Statement (.dieJunctionHot die) := fun _ h _ => nomatch h

theorem dieJunctionTrip (die : Nat) : Statement (.dieJunctionTrip die) := fun _ h _ => nomatch h

theorem inputOutOfRange (volts : Nat) : Statement (.inputOutOfRange volts) := fun _ h _ => nomatch h

theorem hbmRetrain (stack : Nat) (chan : Nat) : Statement (.hbmRetrain stack chan) := fun _ h _ => nomatch h

theorem hbmRetrainEnd (stack : Nat) (chan : Nat) : Statement (.hbmRetrainEnd stack chan) := fun _ h _ => nomatch h

theorem stackCriticalTemp (stack : Nat) : Statement (.stackCriticalTemp stack) := fun _ h _ => nomatch h

theorem selfRefreshExit (stack : Nat) : Statement (.selfRefreshExit stack) := fun _ h _ => nomatch h

theorem tsrMaxExpiry (stack : Nat) : Statement (.tsrMaxExpiry stack) := fun _ h _ => nomatch h

theorem patrolScrub (pa : Nat) : Statement (.patrolScrub pa) := fun _ h _ => nomatch h

theorem memerr (pa : Nat) (charged : Bool) (asid : BitVec 12) : Statement (.memerr pa charged asid) := fun _ h _ => nomatch h

theorem powerOn (fails : List (Nat × Nat)) : Statement (.powerOn fails) := fun _ h _ => nomatch h

theorem startcmdWarm (fails : List (Nat × Nat)) : Statement (.startcmdWarm fails) := fun _ h _ => nomatch h

theorem startcmdCold (fails : List (Nat × Nat)) : Statement (.startcmdCold fails) := fun _ h _ => nomatch h

theorem startStepTimeout (step : Nat) (fails : List (Nat × Nat)) : Statement (.startStepTimeout step fails) := fun _ h _ => nomatch h

theorem firmwareStagingWrite (version : Nat) (image : List (BitVec 8)) : Statement (.firmwareStagingWrite version image) := fun _ h _ => nomatch h

theorem getVersion (attest : Bool) (req : List (BitVec 8)) : Statement (.getVersion attest req) := fun _ h _ => nomatch h

theorem getCapabilities (attest : Bool) (req : List (BitVec 8)) : Statement (.getCapabilities attest req) := fun _ h _ => nomatch h

theorem negotiateAlgorithms (attest : Bool) (req : List (BitVec 8)) : Statement (.negotiateAlgorithms attest req) := fun _ h _ => nomatch h

theorem getDigests (attest : Bool) (req : List (BitVec 8)) : Statement (.getDigests attest req) := fun _ h _ => nomatch h

theorem getCertificate (attest : Bool) (req : List (BitVec 8)) : Statement (.getCertificate attest req) := fun _ h _ => nomatch h

theorem challenge (attest : Bool) (req : List (BitVec 8)) : Statement (.challenge attest req) := fun _ h _ => nomatch h

theorem getMeasurements (attest : Bool) (req : List (BitVec 8)) : Statement (.getMeasurements attest req) := fun _ h _ => nomatch h

theorem unsupportedRequest (attest : Bool) (req : List (BitVec 8)) : Statement (.unsupportedRequest attest req) := fun _ h _ => nomatch h

theorem illop (w : BitVec 32) : Statement (.illop w) := fun _ h _ => nomatch h

theorem writeBackAcknowledgement : Statement .writeBackAcknowledgement := fun _ h _ => nomatch h

theorem criticalTemperatureCleared (stack : Nat) : Statement (.criticalTemperatureCleared stack) := fun _ h _ => nomatch h

theorem dieReset (die : Nat) : Statement (.dieReset die) := fun _ h _ => nomatch h

theorem diePowerGating (die : Nat) : Statement (.diePowerGating die) := fun _ h _ => nomatch h

theorem hostLinkDown : Statement .hostLinkDown := fun _ h _ => nomatch h

end Sys2Proof.Laws.RoundTrip
end

