-- ==== Sys2Proof/Laws/Vector.lean ====
section
/-! SUPPORT. What a partial write of a vector or mask register leaves in each element. -/

namespace Sys2Proof.Machine

theorem digits_lt (w : Nat) (g : Nat → Nat) (n : Nat) : digits w g n < 2 ^ (w * n) := by
  induction n with
  | zero => simp [digits]
  | succ n ih =>
    have h : g n % 2 ^ w + 1 ≤ 2 ^ w := Nat.mod_lt _ (by positivity)
    have h2 : (g n % 2 ^ w + 1) * 2 ^ (w * n) ≤ 2 ^ w * 2 ^ (w * n) := Nat.mul_le_mul_right _ h
    rw [digits, Nat.mul_succ, Nat.pow_add, Nat.mul_comm (2 ^ (w * n))]
    rw [Nat.add_mul, Nat.one_mul] at h2
    omega

theorem digits_get (w : Nat) (g : Nat → Nat) (n i : Nat) (h : i < n) : bitsOf (digits w g n) (w * i) w = g i % 2 ^ w := by
  induction n with
  | zero => omega
  | succ n ih =>
    rw [digits]
    unfold bitsOf at *
    rw [Nat.shiftRight_eq_div_pow] at *
    rcases Nat.lt_or_ge i n with hi | hi
    · obtain ⟨c, rfl⟩ : ∃ c, n = i + 1 + c := ⟨n - (i + 1), by omega⟩
      have e : 2 ^ (w * (i + 1 + c)) = 2 ^ (w * i) * (2 ^ w * 2 ^ (w * c)) := by
        rw [← Nat.pow_add, ← Nat.pow_add]; congr 1; ring
      rw [e, Nat.mul_left_comm, Nat.add_mul_div_left _ _ (by positivity), Nat.mul_left_comm, Nat.add_mul_mod_self_left]
      exact ih hi
    · obtain rfl : i = n := by omega
      rw [Nat.mul_comm, Nat.add_mul_div_left _ _ (by positivity), Nat.div_eq_of_lt (digits_lt w g i)]
      simp

/-- R237: the elements of a partly written vector register. -/
theorem velem_vupdate (w : Nat) (old : VReg) (f : Nat → Option Nat) (j : Nat) (h : j < 4096 / w) :
    velem w (vupdate w old f) j = (match f j with
      | some z => z % 2 ^ w
      | none => velem w old j) := by
  have hb : digits w (fun i => (f i).getD (velem w old i)) (4096 / w) < 2 ^ 4096 :=
    Nat.lt_of_lt_of_le (digits_lt _ _ _) (Nat.pow_le_pow_right (by omega) (Nat.mul_div_le 4096 w))
  rw [velem, vupdate, BitVec.toNat_ofNat, Nat.mod_eq_of_lt hb, digits_get _ _ _ _ h]
  cases f j with
  | some z => rfl
  | none => simp [velem, bitsOf]

/-- R250: the bits of a partly written mask register. -/
theorem getLsbD_kupdate (old : KReg) (f : Nat → Option Bool) (j : Nat) (h : j < 512) :
    (kupdate old f).getLsbD j = (f j).getD (old.getLsbD j) := by
  have hb : digits 1 (fun i => ((f i).getD (old.getLsbD i)).toNat) 512 < 2 ^ 512 := digits_lt _ _ _
  have hg := digits_get 1 (fun i => ((f i).getD (old.getLsbD i)).toNat) 512 j h
  rw [kupdate, BitVec.getLsbD_ofNat]
  simp only [h, decide_true, Bool.true_and]
  rw [bitsOf, Nat.one_mul] at hg
  rw [Nat.testBit, Nat.and_comm, Nat.and_one_is_mod]
  simp only [Nat.pow_one] at hg
  rw [hg]
  cases (f j).getD (old.getLsbD j) <;> rfl

end Sys2Proof.Machine
end

