-- ==== Sys2Proof/Tests/Slice0.lean ====
section
/-! SUPPORT. Tests: ill-formed terms are refused, words written out from the encodings decode, single steps on small
states, and for every statement with hypotheses states and operands that meet them.
-/

namespace Sys2Proof.Tests

set_option Elab.async false

open Sys2Proof Sys2Proof.Machine

/-! ## WellFormed refuses an ill-formed term of each kind -/

theorem test_flaw_form : (Instr.vadd 0 1 2 3 3 0 0).flaw = some .form := by decide
theorem test_flaw_rounding : (Instr.fadd 1 2 3 6 0).flaw = some .rounding := by decide
theorem test_flaw_sameWidth : (Instr.fcvtW 1 2 0 1 1).flaw = some .sameWidth := by decide
theorem test_flaw_fpWidth : (Instr.vfadd 3 1 2 3 0 0 0).flaw = some .fpWidth := by decide
theorem test_flaw_narrowByte : (Instr.vnarrow 0 1 2 3 0 0 0).flaw = some .narrowByte := by decide
theorem test_flaw_widenDouble : (Instr.vwiden 3 1 2 0 0).flaw = some .widenDouble := by decide
theorem test_flaw_maskZero : (Instr.vloop 4 0 2 1).flaw = some .maskZero ∧ (Instr.vmerge 1 2 3 2 0 0).flaw = some .maskZero := by
  decide
theorem test_flaw_quantTarget : (Instr.kq8 5 1 5 0).flaw = some .quantTarget := by decide
theorem test_flaw_fpByte : (Instr.vfredsum 1 2 3 0 0 0).flaw = some .fpByte := by decide
theorem test_flaw_ring : (Instr.trkReadMiss 256 0).flaw = some .ring ∧ (Instr.trkReadMiss 255 0).flaw = none := by decide
theorem test_flaw_die : (Instr.dieReset 32).flaw = some .die ∧ (Instr.dieReset 31).flaw = none := by decide
theorem test_flaw_queue : (Instr.launch 1024).flaw = some .queue ∧ (Instr.launch 1023).flaw = none := by decide
theorem test_flaw_group : (Instr.gbarComplete 64).flaw = some .group := by decide
theorem test_flaw_stack : (Instr.stackCriticalTemp 16).flaw = some .stack := by decide
theorem test_flaw_channel : (Instr.hbmRetrain 15 32).flaw = some .channel := by decide
theorem test_flaw_package : (Instr.messageDelivery 1024 0 0 0 0 0 []).flaw = some .package := by decide
theorem test_flaw_endpoint : (Instr.messageDelivery 0 0 256 0 0 0 []).flaw = some .endpoint := by decide
theorem test_flaw_mailbox : (Instr.messageDelivery 0 0 255 4 0 0 []).flaw = some .mailbox := by decide
theorem test_flaw_payload : (Instr.messageDelivery 0 0 0 0 0 0 (List.replicate 4097 0)).flaw = some .payload := by decide +kernel
theorem test_flaw_address : (Instr.patrolScrub (2 ^ 40)).flaw = some .address := by decide

/-! ## Words written out from the encodings (spec/09 to 21) -/

theorem test_word_srai : decode 0x18A6803F = .ok (.srai 5 6 63) := by decide +kernel
theorem test_word_mulh : decode 0x2CA63801 = .ok (.mulh 5 6 7) := by decide +kernel
theorem test_word_add : decode 0x04A63800 = .ok (.add 5 6 7) := by decide +kernel
theorem test_word_fadd : decode 0x34A63F00 = .ok (.fadd 5 6 7 7 0) := by decide +kernel
theorem test_word_fcvtI : decode 0x34A6018B = .ok (.fcvtI 5 6 1 2 0) := by decide +kernel
theorem test_word_ldAcq : decode 0x71150401 = .ok (.ldAcqD 8 21 2) := by decide +kernel
theorem test_word_amoAdd : decode 0x74A63DC1 = .ok (.amoAdd 5 6 7 2 3 1) := by decide +kernel
theorem test_word_jt : decode 0x8CE53000 = .ok (.jt 7 5 6) := by decide +kernel
theorem test_word_vloop : decode 0x90815FF0 = .ok (.vloop 4 1 2 0x1FF0) := by decide +kernel
theorem test_word_waitw : decode 0xA8A63B01 = .ok (.waitw 5 6 7 1 1) := by decide +kernel
theorem test_word_gjoin : decode 0xA8A80002 = .ok (.gjoin 5 8) := by decide +kernel
theorem test_word_mrecv : decode 0xACA63801 = .ok (.mrecv 5 6 7) := by decide +kernel
theorem test_word_spawn : decode 0xB0AA0000 = .ok (.spawn 5 10) := by decide +kernel
theorem test_word_rexit : decode 0xB0050001 = .ok (.rexit 5) := by decide +kernel
theorem test_word_yield : decode 0xB0A00002 = .ok (.yield 5) := by decide +kernel
theorem test_word_vceq : decode 0xC8444B60 = .ok (.vceq 2 2 4 9 1 0 0) := by decide +kernel
theorem test_word_vfma : decode 0xD5021853 = .ok (.vfma 1 8 2 3 0 0 3) := by decide +kernel
theorem test_word_vconv : decode 0xDC640010 = .ok (.vconvBfSf 3 4 0 0) := by decide +kernel
theorem test_word_kset : decode 0xE0463807 = .ok (.kset 2 6 7) := by decide +kernel
theorem test_word_setvl : decode 0xE0A63809 = .ok (.setvl 5 6 7) := by decide +kernel
theorem test_word_vdead : decode 0xE000000A = .ok .vdead := by decide +kernel
theorem test_word_vld : decode 0xE48A0400 = .ok (.vld 4 10 2 0 0) := by decide +kernel
theorem test_word_vredsum : decode 0xE8221E00 = .ok (.vredsum 1 2 3 3 0 0) := by decide +kernel
theorem test_word_mspill : decode 0xF0A00200 = .ok (.mspill 5 0) := by decide +kernel
theorem test_word_halt : decode 0xF805000C = .ok (.halt 5) := by decide +kernel

/-- R157: non-zero Z fields, reserved majors and functions, FORM 11 and a rounding field of 6 are no instructions. -/
theorem test_word_refused :
    decode 0x04A63840 = .error .zField ∧ decode 0x00000000 = .error .reservedMajor ∧ decode 0xFC000000 = .error .reservedMajor
      ∧ decode 0x04A63815 = .error .unassigned ∧ decode 0xC8444F60 = .error (.flaw .form) ∧ decode 0x34A63E00 = .error (.flaw .rounding) := by
  decide +kernel

/-- The bytes of a word, lowest address first (R3, R141). -/
theorem test_bytes : decodeBytes [0x00, 0x38, 0xA6, 0x04, 0x77] = .ok (.add 5 6 7, [0x77]) := by decide +kernel

/-! ## States for the witnesses -/

/-- A head in S mode at rest, with 512 MiB of global memory at sg0 and LS at sg1. -/
def base : State := State.reset.placed 0

/-- The same with X[n] := v. -/
def with_ (n : Reg) (v : Dword) (s : State) : State := s.wx n v

/-- The same with vl and V[1] := v, V[2] := w. -/
def vec (vl : BitVec 10) (v w : VReg) : State :=
  State.wv (State.wv { base with cpu := { base.cpu with vl := vl } } 1 v) 2 w

/-- The next state of an outcome. -/
def after (o : Host.Outcome State Fault Refusal) : State :=
  match o with
  | .next t => t
  | _ => State.reset

/-- An access that succeeds. -/
def works {ε α : Type} (r : Except ε α) : Bool :=
  match r with
  | .ok _ => true
  | .error _ => false

/-- An access that traps. -/
def faults {α : Type} (r : Except Stop α) : Bool :=
  match r with
  | .error (.trap _ _) => true
  | _ => false

/-- An access that succeeds, followed by one that may. -/
def both {ε α : Type} (r : Except ε State) (f : State → Except ε α) : Bool :=
  match r with
  | .ok t => works (f t)
  | .error _ => false

/-- A memory system with no chain is sound when its memory is in canonical form. -/
theorem sound_of (s : State) (h : Memory.wf s.mem = true) (hd : s.coh.dir = []) : s.Sound :=
  ⟨h, by simp [hd], by simp [hd]⟩

/-- A slot with nothing outstanding, outside regions and without stall check, holds back nothing. -/
theorem clear_of (u : Use) (s : State) (h : s.cpu.trap = none ∧ s.cpu.ended = false ∧ s.cpu.squashed = false ∧ s.cpu.capped = false
    ∧ s.cpu.park = none ∧ s.cpu.wait = [] ∧ s.cpu.flight = [] ∧ statSchk s.cpu.stat = false ∧ s.openRegion = none)
    (hh : u.held = true → s.isHead = true) : Clear u s := by
  obtain ⟨h1, h2, h3, h4, h5, h6, h7, h8, h9⟩ := h
  refine ⟨?_, hh, ?_, ?_, ?_⟩
  · simp [State.notReady, h1, h2, h3, h4, h5]
  · simp [State.mustWait, h6, h7]
  · simp [State.stallOf, h8]
  · simp [State.cmaskOf, State.governing, h9]

theorem clear_base (u : Use) : Clear u base := clear_of u base (by decide +kernel) (fun _ => rfl)

theorem clear_with (u : Use) (n : Reg) (v : Dword) : Clear u (with_ n v base) := by
  have h : ∀ s : State, Clear u s → (∀ r, (s.wx n v).lateProducer r = s.lateProducer r) → Clear u (s.wx n v) := by
    intro s h _
    unfold State.wx
    split
    · exact h
    · exact ⟨h.ready, h.held, h.free, h.stall, h.mask⟩
  exact h base (clear_base u) (fun r => by unfold State.wx; split <;> rfl)

theorem clear_vec (u : Use) (vl : BitVec 10) (v w : VReg) : Clear u (vec vl v w) := by
  have h := clear_base u
  exact ⟨h.ready, h.held, h.free, h.stall, h.mask⟩

/-! ## States and operands that meet the hypotheses of the statements -/

theorem witness_IntegerRegister : Clear (useAB 5 6 7) (with_ 6 (BitVec.allOnes 64) base) := clear_with _ _ _
theorem witness_IntegerImmediate : Clear (useA 5 6) base ∧ Clear { writes := [.x 5] } base := ⟨clear_base _, clear_base _⟩
theorem witness_MultiplyAndDivide :
    Clear (useAB 5 6 7) base ∧ Clear { useAB 5 6 7 with flight := some .long } (with_ 6 0x8000000000000000 base) :=
  ⟨clear_base _, clear_with _ _ _⟩
theorem witness_BitManipulation : Clear (useA 5 6) base ∧ Clear (useAB 5 6 7) base := ⟨clear_base _, clear_base _⟩
theorem witness_ScalarFloatArithmetic :
    Clear { reads := [.x 6, .x 7] ++ roundReads 5, writes := [.x 5] } base
      ∧ Clear { reads := [.x 6, .x 7] ++ roundReads 7, writes := [.x 5], flight := some .long } base
      ∧ Clear { reads := [.x 6] ++ roundReads 7, writes := [.x 5], flight := some .long } base
      ∧ Clear { reads := [.x 6, .x 7, .x 8] ++ roundReads 7, writes := [.x 5] } base ∧ statFrm base.cpu.stat < 6 :=
  ⟨clear_base _, clear_base _, clear_base _, clear_base _, by decide +kernel⟩
theorem witness_ScalarFloatCompare : Clear (useAB 5 6 7) base ∧ Clear (useA 5 6) base := ⟨clear_base _, clear_base _⟩
theorem witness_ScalarFloatConvert :
    Clear { reads := [.x 6] ++ roundReads 7, writes := [.x 5] } base ∧ statFrm base.cpu.stat < 6 := ⟨clear_base _, by decide +kernel⟩
theorem witness_VectorInteger :
    Clear (useVec 2 3 1 2 0 0 0) (vec 512 1 2) ∧ Clear (useVec 3 3 1 2 0 0 0) (vec 0 1 2) ∧ (vec 512 1 2).active 0 512 511 = true :=
  ⟨clear_vec _ _ _ _, clear_vec _ _ _ _, by decide +kernel⟩
theorem witness_VectorCompareAndWidth :
    Clear { reads := vecReads 0 ++ [.v 1] ++ formReads 0 2, writes := [.k 1, .vstart], lat := 2 } (vec 4 1 2)
      ∧ Clear (useVec 3 3 1 2 0 0 0) (vec 4 1 2) := ⟨clear_vec _ _ _ _, clear_vec _ _ _ _⟩
theorem witness_MaskAndLength :
    Clear { reads := [.k 1, .k 2], writes := [.k 3] } base ∧ Clear { reads := [.k 1, .vl], writes := [.x 5] } (vec 512 1 2)
      ∧ Clear { writes := (List.range 32).map (fun i => RegName.v (BitVec.ofNat 5 i)) } base :=
  ⟨clear_base _, clear_vec _ _ _ _, clear_base _⟩
theorem witness_VectorFloatArithmetic :
    statVrm (vec 64 1 2).cpu.stat < 6 ∧ Clear { reads := vecReads 0 ++ [.v 1] ++ [.vrm, .sbase, .seed], writes := [.v 3, .vstart] } (vec 64 1 2) :=
  ⟨by decide +kernel, clear_vec _ _ _ _⟩
theorem witness_VectorFloatOther :
    Clear (useVec 2 3 1 2 0 0 0) (vec 64 1 2) ∧ Clear { reads := vecReads 0 ++ [.v 1], writes := [.v 3, .vstart], lat := 9 } (vec 64 1 2) :=
  ⟨clear_vec _ _ _ _, clear_vec _ _ _ _⟩
theorem witness_VectorConvert :
    statVrm (vec 64 1 2).cpu.stat < 6 ∧ Clear { reads := vecReads 0 ++ [.v 1], writes := [.v 3, .vstart], lat := 3 } (vec 64 1 2) :=
  ⟨by decide +kernel, clear_vec _ _ _ _⟩
theorem witness_QuantiseAndPack :
    Clear { reads := [.vl, .vstart, .v 1] ++ [.vrm, .sbase, .seed], writes := [.v 3, .v 4, .vstart], lat := 5 } (vec 128 1 2)
      ∧ (vec 128 1 2).cpu.vstart = 0 ∧ statVrm (vec 128 1 2).cpu.stat < 6 := ⟨clear_vec _ _ _ _, by decide +kernel, by decide +kernel⟩
/-- A good and a reserved block scale, and a good and a reserved ternary code. -/
theorem witness_QuantiseAndPack_codes :
    (∀ i, i < 8 → velem 8 ((vec 8 1 2).rv 2) (i / 32) ≠ 0xFF) ∧ (vec 8 1 0xFF).active 0 8 0 = true
      ∧ velem 8 ((vec 8 1 0xFF).rv 2) 0 = 0xFF ∧ (∀ i, i < 8 → velem 2 ((vec 8 1 2).rv 1) i ≠ 2) ∧ velem 2 ((vec 8 2 0).rv 1) 0 = 2 := by
  decide +kernel
theorem witness_Reductions :
    (vec 4 1 2).cpu.vstart = 0 ∧ statVrm (vec 4 1 2).cpu.stat < 6
      ∧ Clear { reads := vecReads 0 ++ [.v 1, .v 2], writes := [.v 3, .vstart] } (vec 4 1 2) ∧ 0 < min (vec 4 1 2).cpu.vl.toNat (4096 / 64)
      ∧ min (vec 0 1 2).cpu.vl.toNat (4096 / 64) = 0 :=
  ⟨by decide +kernel, by decide +kernel, clear_vec _ _ _ _, by decide +kernel, by decide +kernel⟩
theorem witness_Permutations :
    (vec 64 1 2).cpu.vstart = 0 ∧ Clear { reads := vecReads 0 ++ [.v 1, .x 2], writes := [.v 3, .vstart], lat := 3 } (vec 64 1 2) :=
  ⟨by decide +kernel, clear_vec _ _ _ _⟩
theorem witness_IrregularWork :
    (vec 64 1 2).cpu.vstart = 0 ∧ Clear { reads := vecReads 0 ++ [.v 1], writes := [.v 3, .k 2, .vstart] } (vec 64 1 2) :=
  ⟨by decide +kernel, clear_vec _ _ _ _⟩

/-- Aligned accesses that work, in global memory and in LS at the last byte of the private window, one that is misaligned,
and one whose segment fails. -/
theorem witness_LoadsAndStores :
    works (base.load .gather 0x50000 8 8) = true ∧ works (base.load .gather 0x2000000000017FFF 1 1) = true
      ∧ faults (base.load .gather 0x2000000000018000 1 1) = true ∧ faults (base.load .gather 0xE000000000000000 8 8) = true
      ∧ works (base.store .gather 0x50000 [1, 2, 3, 4, 5, 6, 7, 8] 8) = true ∧ faults (base.store .gather 0x50001 [1, 2] 2) = true
      ∧ (0x50001#64).toNat % 2 ≠ 0 := by decide +kernel
theorem witness_LocalStoreAccess :
    segTarget (base.descriptor 0x2000000000017FF8) base.smode .store 0x2000000000017FF8 8 = some (.priv 0x17FF8)
      ∧ segTarget (base.descriptor 0x2000000000000000) base.smode .load 0x2000000000000000 8 = some (.priv 0)
      ∧ ∀ k, k < 8 → Written.get (base.lsWrite (.priv 0) (leBytes 8 5)).cpu.ls k = some (BitVec.ofNat 8 (5 / 2 ^ (8 * k))) := by
  decide +kernel

/-- The same with the page of VA 0x50000 under another COH value: 1 SIV, 2 NC. -/
def paged (coh : Nat) : State := { base with mem := Memory.setBytes base.mem 0x30000 (leBytes 8 (0xDF + 256 * coh)) }

/-- A translation of VA 0x50000 for an access, which finds the page under COH value c and its home free. -/
def reaches (s : State) (need : Need) (c : Coh) : Bool :=
  match s.reach .gather need 0x50000 with
  | .ok (m, s1) =>
    let q := s1.settledAt (m.pa / 64)
    Memory.wf s1.mem && s1.coh.dir.isEmpty && m.coh == c && decide (s1.place m.pa = .hbm m.pa) && !purging s1.coh.dir (m.pa / 64)
      && decide (q.deviceStop m.pa = none) && !q.poisoned (64 * (m.pa / 64)) 64 && !q.partialPoison m.pa 8
      && (orphanFind s1.coh.l1 s1.who 0x50000).isNone && !s1.coh.breach.contains s1.thr.asid && s1.coh.siv.isEmpty
  | .error _ => false

/-- Pages of this package's memory under each attribute, with nothing in the way; the last 8 bytes of a line. -/
theorem witness_GlobalAccess :
    (reaches base .load .trk && reaches (paged 1) .load .siv && reaches (paged 2) .load .nc && reaches base .store .trk
        && reaches (paged 2) .store .nc) = true
      ∧ segTarget (base.descriptor 0x50000) base.smode .store 0x50000 8 = some (.global 0x50000) ∧ base.isHead = true
      ∧ 0x50038 % 64 + 8 ≤ 64 ∧ Clear { reads := [.x 6], writes := [.x 5], flight := some .memory } base := by
  and_intros <;> first | decide +kernel | exact clear_base _
theorem witness_GlobalAccess_sound :
    (match base.reach .gather .store 0x50000 with | .ok (_, t) => some t | .error _ => none).elim False (fun t => t.Sound) := by
  have h : reaches base .store .trk = true := by decide +kernel
  unfold reaches at h
  split at h
  · rename_i m t ht
    simp only [Bool.and_eq_true, List.isEmpty_iff] at h
    exact sound_of t (by simp_all) (by simp_all)
  · exact absurd h (by simp)

/-- A speculative chunk of a ring: one older and one younger chunk. -/
def speculative : State := { base with older := [Chunk.blank], younger := [Chunk.blank] }
theorem witness_SpeculativeStore :
    Clear { reads := [.x 5, .x 6], flight := some .memory } speculative ∧ speculative.isHead = false
      ∧ speculative.capacityStall = false ∧ updated [speculative.cpu] 0x50000 8 = false ∧ speculative.thr.snaps = []
      ∧ works (speculative.reach .gather .store 0x50000) = true ∧ 0x50038 % 64 + 8 ≤ 64 :=
  ⟨clear_of _ _ (by decide +kernel) (fun h => absurd h (by decide)), by decide +kernel⟩
theorem witness_AcquireRelease :
    Clear { held := true, reads := [.x 6], writes := [.x 5], flight := some .memory } base ∧ speculative.isHead = false
      ∧ (match base.load .gather 0x50000 8 8 with | .ok (_, t) => works (t.acquire 2) | .error _ => false) = true
      ∧ works (base.store .gather 0x50000 (leBytes 8 1) 8) = true
      ∧ both (base.release 2) (fun r => r.store .gather 0x50000 (leBytes 8 1) 8) = true :=
  ⟨clear_base _, by decide +kernel⟩
theorem witness_Atomics :
    Clear { held := true, reads := [.x 6, .x 7], writes := [.x 5], flight := some .memory } base
      ∧ works (base.rmw 0x50000 8 (fun x => some (x + 1))) = true ∧ works (base.rmw 0x50000 4 (fun _ => none)) = true
      ∧ (match base.release 2 with
        | .ok r => (match r.rmw 0x50000 8 (fun x => some (x + 1)) with | .ok (_, t) => works (t.acquire 2) | .error _ => false)
        | .error _ => false) = true := ⟨clear_base _, by decide +kernel⟩
theorem witness_CollectedUpdate :
    base.place 0x50000 = .hbm 0x50000 ∧ chainOf base.coh.dir (0x50000 / 64) = [] ∧ base.poisoned 0x50000 64 = false
      ∧ (match base.reach .gather .store 0x50000, base.homeRead 0x50000 8 with
        | .ok (m, _), .ok (_, _) => m.pa == 0x50000 && m.coh == .trk && (match base.scatterAt base.who 0x50000 m .add 8 3 with
          | .ok t => works (t.homeRead 0x50000 8)
          | .error _ => false)
        | _, _ => false) = true := by decide +kernel
theorem base_sound : base.Sound := sound_of base (by decide +kernel) (by decide +kernel)
theorem witness_AccessFrame :
    works (base.load .gather 0x50000 8 8) = true ∧ works (base.store .gather 0x50000 (leBytes 8 1) 8) = true
      ∧ works (base.scatterElem { ea := 0x50000, op := .add, n := 8, val := 3, rnd := rne }) = true := by decide +kernel

/-- Loads that follow one another, each reading the number expected of it. -/
def loadsRun (st : Stream) (size : Nat) (v : Nat → Nat) (s : State) : List (Nat × Dword) → Option State
  | [] => some s
  | (i, ea) :: r =>
    match s.load st ea size size with
    | .ok (bs, t) => if leNat bs = v i then loadsRun st size v t r else none
    | .error _ => none

theorem loadsAll_of (st : Stream) (size : Nat) (v : Nat → Nat) (l : List (Nat × Dword)) :
    ∀ s t, loadsRun st size v s l = some t → LoadsAll st size v s l t := by
  induction l with
  | nil => intro s t h; exact (Option.some.inj h).symm
  | cons p r ih =>
    obtain ⟨i, ea⟩ := p
    intro s t h
    unfold loadsRun at h
    split at h
    · rename_i bs u hl
      split at h
      · exact ⟨bs, u, hl, by assumption, ih u t h⟩
      · exact absurd h (by simp)
    · exact absurd h (by simp)

/-- Steps that follow one another. -/
def runsRun (f : State → Nat → Dword → Except Stop State) (s : State) : List (Nat × Dword) → Option State
  | [] => some s
  | (i, ea) :: r =>
    match f s i ea with
    | .ok t => runsRun f t r
    | .error _ => none

theorem runsAll_of (f : State → Nat → Dword → Except Stop State) (l : List (Nat × Dword)) :
    ∀ s t, runsRun f s l = some t → RunsAll f s l t := by
  induction l with
  | nil => intro s t h; exact (Option.some.inj h).symm
  | cons p r ih =>
    obtain ⟨i, ea⟩ := p
    intro s t h
    unfold runsRun at h
    split at h
    · rename_i u hl
      exact ⟨u, hl, ih u t h⟩
    · exact absurd h (by simp)

/-- Checks that follow one another, each finding the target expected of it. -/
def checksRun (need : Need) (size : Nat) (st : Stream) (g : Nat → Target) (s : State) : List (Nat × Dword) → Option State
  | [] => some s
  | (i, ea) :: r =>
    match s.checkOne need size st ea with
    | .ok (x, t) => if x = g i then checksRun need size st g t r else none
    | .error _ => none

theorem checksAll_of (need : Need) (size : Nat) (st : Stream) (g : Nat → Target) (l : List (Nat × Dword)) :
    ∀ s t, checksRun need size st g s l = some t → ChecksAll need size st g s l t := by
  induction l with
  | nil => intro s t h; exact (Option.some.inj h).symm
  | cons p r ih =>
    obtain ⟨i, ea⟩ := p
    intro s t h
    unfold checksRun at h
    split at h
    · rename_i x u hl
      split at h
      · rename_i hx
        exact ⟨u, by rw [hl, hx], ih u t h⟩
      · exact absurd h (by simp)
    · exact absurd h (by simp)

/-- Two elements that are loaded, and one that faults after one that is loaded: the last doubleword of 512 MiB. -/
theorem witness_VectorLoads :
    Clear { reads := vecReads 0 ++ [.x 6], writes := [.v 3, .vstart], flight := some .memory } (vec 2 1 2)
      ∧ (∃ t, LoadsAll .unit 8 (fun _ => 0) (vec 2 1 2) [(0, 0x50000), (1, 0x50008)] t)
      ∧ (∃ t, LoadsAll .unit 8 (fun _ => 0) (vec 2 1 2) [(0, 0x1FFFFFF8)] t ∧ faults (t.load .unit 0x20000000 8 8) = true)
      ∧ (vec 2 1 2).active 0 2 1 = true ∧ (vec 2 1 2).isHead = true ∧ statDet (vec 2 1 2).cpu.stat = false := by
  refine ⟨clear_vec _ _ _ _, ?_, ?_, by decide +kernel⟩
  · have h : (loadsRun .unit 8 (fun _ => 0) (vec 2 1 2) [(0, 0x50000), (1, 0x50008)]).isSome = true := by decide +kernel
    exact (Option.isSome_iff_exists.1 h).imp (fun t ht => loadsAll_of _ _ _ _ _ _ ht)
  · have h : (match loadsRun .unit 8 (fun _ => 0) (vec 2 1 2) [(0, 0x1FFFFFF8)] with
        | some t => faults (t.load .unit 0x20000000 8 8)
        | none => false) = true := by decide +kernel
    split at h
    · rename_i t ht
      exact ⟨t, loadsAll_of _ _ _ _ _ _ ht, h⟩
    · exact absurd h (by simp)
/-- Under stat.DET the unordered forms are no instructions. -/
theorem witness_VectorLoads_det :
    Clear { reads := vecReads 0 ++ [.x 6, .v 2], writes := [.v 3, .vstart], flight := some .memory }
        { vec 2 1 2 with cpu := { (vec 2 1 2).cpu with stat := 9 } }
      ∧ statDet (9#64) = true := ⟨clear_of _ _ (by decide +kernel) (fun h => absurd h (by decide)), by decide⟩
theorem witness_VectorStores :
    Clear { reads := vecReads 0 ++ [.v 1] ++ [.x 6], writes := [.vstart], flight := some .memory } (vec 2 1 2)
      ∧ ∃ t, ChecksAll .store 8 .unit (fun i => .global (0x50000 + 8 * i)) (vec 2 1 2) [(0, 0x50000), (1, 0x50008)] t
        ∧ ∃ u, RunsAll (fun s i x => s.store .unit x (leBytes 8 (velem 64 ((vec 2 1 2).rv 1) i)) 8) t [(0, 0x50000), (1, 0x50008)] u := by
  refine ⟨clear_vec _ _ _ _, ?_⟩
  have h : (match checksRun .store 8 .unit (fun i => .global (0x50000 + 8 * i)) (vec 2 1 2) [(0, 0x50000), (1, 0x50008)] with
      | some t => (runsRun (fun s i x => s.store .unit x (leBytes 8 (velem 64 ((vec 2 1 2).rv 1) i)) 8) t [(0, 0x50000), (1, 0x50008)]).isSome
      | none => false) = true := by decide +kernel
  split at h
  · rename_i t ht
    exact ⟨t, checksAll_of _ _ _ _ _ _ _ ht, (Option.isSome_iff_exists.1 h).imp (fun u hu => runsAll_of _ _ _ _ hu)⟩
  · exact absurd h (by simp)
theorem witness_ScatterReduce :
    Clear { reads := vecReads 0 ++ [.v 1, .x 6, .v 2], writes := [.vstart], flight := some .memory } (vec 2 1 2) ∧ statVrm (vec 2 1 2).cpu.stat < 6
      ∧ statDet (vec 2 1 2).cpu.stat = false
      ∧ ∃ t, RunsAll (fun s i p => s.scatterElem { ea := p, op := .add, n := 8, val := i, rnd := rne }) (vec 2 1 2)
          [(0, 0x50000), (1, 0x50000)] t := by
  refine ⟨clear_vec _ _ _ _, by decide +kernel, by decide +kernel, ?_⟩
  have h : (runsRun (fun s i p => s.scatterElem { ea := p, op := .add, n := 8, val := i, rnd := rne }) (vec 2 1 2)
      [(0, 0x50000), (1, 0x50000)]).isSome = true := by decide +kernel
  exact (Option.isSome_iff_exists.1 h).imp (fun t ht => runsAll_of _ _ _ _ ht)

/-- The same in a loop region. -/
def looping (s : State) : State :=
  { s with thr := { s.thr with cores := 2, region := some { kind := .loop, first := 0x40000, last := 0x40010, mask := 6, grain := 1, home := 0, wrote := [], read := [] } } }

/-- A jump to an aligned and to a misaligned address, in a loop region and outside; a table's entry. -/
theorem witness_ControlTransfer :
    Clear { reads := [.x 6], writes := [.x 5] } base ∧ Clear { reads := [.x 5, .x 6, .x 7], flight := some .memory } base
      ∧ (wrap64 ((0x1000 : Nat) + (4 : Int))).toNat % 4 = 0
      ∧ (wrap64 ((0x1000 : Nat) + (1 : Int))).toNat % 4 ≠ 0 ∧ (∀ g, base.openRegion = some g → g.kind ≠ .loop)
      ∧ ((looping base).openRegion.map (fun g => g.kind) = some .loop) ∧ (with_ 6 3 base).rx 5 ≤ (with_ 6 3 base).rx 6
      ∧ works ((with_ 5 1 base).load .gather 0x50000 4 4) = true ∧ faults ((with_ 5 1 base).load .gather 0x50002 4 4) = true :=
  ⟨clear_base _, clear_base _, by decide, by decide, by
    have h0 : base.openRegion = none := by decide +kernel
    intro g h
    rw [h0] at h
    exact absurd h (by simp), by decide +kernel⟩
theorem witness_RepeatFrame :
    base.cpu.frame = none ∧ Clear {} base
      ∧ (match captureWords [] 0x40004 (State.putWord base 0x40004 0xCC221800) 1 with | .ok _ _ => true | _ => false) = true
      ∧ (match captureWords [] 0x40004 (State.putWord base 0x40004 0x04A63800) 1 with | .illegal _ _ => true | _ => false) = true
      ∧ (match captureWords [] 0x20000000 base 1 with | .fetch _ _ => true | _ => false) = true
      ∧ (0x10000#64).getLsbD 16 = true ∧ bitsOf (0x10100#64).toNat 8 8 = 1 := by
  refine ⟨by decide +kernel, clear_base _, by decide +kernel⟩
/-- A frame of one word whose first run goes on to the second. -/
theorem witness_RepeatFrame_run :
    (match decodeCaptured 0xCC221800 with
      | .ok j => (match runCaptured (0, 0, 0) 0 j
            { base with cpu := { base.cpu with frame := some { words := [0xCC221800], run := 0, index := 0 }, ir := 0xCC221800 } } with
        | .next t => t.cpu.frame.isSome && t.cpu.pc == base.cpu.pc + 4
        | _ => false)
      | .error _ => false) = true := by decide +kernel
/-- A back-edge at the end of a fork, and a word that is none; a cut region's youngest chunk. -/
theorem witness_Regions :
    Clear { reads := [.x 5, .x 6] } base ∧ base.isHead = true ∧ base.thr.region = none
      ∧ (match (State.putWord base 0x40010 0x80001FFD).fetchWord 0x40010 with
        | .ok (w, _) => backEdge w 0x40010 0x40004 | .error _ => false) = true
      ∧ (match base.fetchWord 0x40010 with | .ok (w, _) => !backEdge w 0x40010 0x40004 | .error _ => false) = true
      ∧ (looping base).thr.region.isSome = true ∧ Clear { held := true } (State.spec base 0 0) := by
  and_intros <;> first | decide +kernel | exact clear_base _
/-- A head in an open cut region of two chunks, and the same with a successor that starts at a label 0x40020. -/
def cutting (start : Dword) : State :=
  { base with
    thr := { base.thr with cores := 2, region := some { kind := .cut, first := 0x40004, last := 0x40010, mask := 2, grain := 1, home := 0, wrote := [], read := [] } }
    younger := [{ Chunk.blank with num := 1, core := 1, start := start, mask := 2 }] }
theorem witness_Regions_cut :
    (cutting 0x40020).thr.susp = false ∧ (cutting 0x40020).thr.region.isSome = true ∧ (cutting 0x40020).cpu.cut = none
      ∧ (cutting 0x40020).cpu.wrote &&& ~~~2#64 = 0#64 ∧ ¬ ((cutting 0x40020).thr.cores = 1)
      ∧ (∃ y r, (cutting 0x40020).younger = y :: r ∧ y.start = 0x40020 ∧ y.mask = 2)
      ∧ (∃ y r, (cutting 0x40010).younger = y :: r ∧ ¬ y.start = 0x40020)
      ∧ ({ cutting 0x40020 with cpu := { (cutting 0x40020).cpu with cut := some (0x40020, 2) } } : State).cpu.cut ≠ none
      ∧ (cutting 0x40020).sendMask.isSome = true ∧ base.openRegion = none := by
  and_intros <;> first | exact ⟨_, _, rfl, by decide⟩ | exact ⟨_, _, rfl, rfl, rfl⟩ | decide +kernel
theorem witness_FenceAndWait :
    Clear { held := true, again := some .fence } base ∧ oldestFault base.thr.cmds (fun _ => true) = none ∧ base.thr.unacked = 0
      ∧ ({ base with thr := { base.thr with unacked := 1 } } : State).thr.unacked ≠ 0
      ∧ (match base.waitRead 0x50000 8 with | .ok (_, t) => works (t.acquire 3) && !t.limitPassed t.thr.wtime | .error _ => false) = true
      ∧ both (base.release 3) (fun r => r.acquire 3) = true := ⟨clear_base _, by decide +kernel⟩

/-- A thread that is the one member of group 3, and another address space's group 4. -/
def grouped : State :=
  { base with host := { base.host with groups := [{ id := 3, asid := 0, members := [(0, 0)], arrived := [], limits := [], release := [] },
      { id := 4, asid := 9, members := [(8, 0)], arrived := [], limits := [], release := [] }] } }
/-- Group 3 with a second member, which has arrived with a limit of cycle 5. -/
def halfway : Group := { id := 3, asid := 0, members := [(0, 0), (1, 0)], arrived := [(1, 0)], limits := [((1, 0), 5)], release := [] }
theorem witness_Groups :
    Clear { held := true, reads := [.x 6], writes := [.x 5] } grouped
      ∧ (∃ x, grouped.host.groups.find? (fun g => g.id == 3) = some x ∧ (0, 0) ∈ x.members)
      ∧ (∃ x, grouped.host.groups.find? (fun g => g.id == 4) = some x ∧ x.members ≠ [] ∧ (0, 0) ∉ x.members ∧ x.asid ≠ 0)
      ∧ grouped.host.groups.find? (fun g => g.id == 5) = none
      ∧ groupReleased [{ id := 3, asid := 0, members := [(0, 0)], arrived := [], limits := [], release := [(0, 0)] }] 3 (0, 0) = true
      ∧ groupReleased grouped.host.groups 3 (0, 0) = false
      ∧ both (grouped.release 2) (fun r => r.acquire 2) = true :=
  ⟨clear_of _ _ (by decide +kernel) (fun _ => rfl), ⟨_, rfl, by decide⟩, ⟨_, rfl, by decide⟩, rfl, by decide, by decide +kernel⟩
/-- R221: an arrival at cycle 5 completes the instance; at cycle 6 the other member's limit has passed. -/
theorem test_group_limit :
    (groupArrive 5 [halfway] 3 (0, 0) none).map (fun g => g.release) = [[(0, 0), (1, 0)]]
      ∧ (groupArrive 6 [halfway] 3 (0, 0) none).map (fun g => (g.release, g.arrived)) = [([], [(0, 0)])] := by decide +kernel

/-- A thread whose endpoint 7 has mailboxes at 0x60000: mailbox 0 with 4 slots of 64 bytes and n messages waiting; LS holds
a message record for it. -/
def mailing (n : Nat) : State :=
  State.lsWrite
    { base with
      mem := Memory.setBytes base.mem 0x60000 (leBytes 8 n ++ leBytes 8 0 ++ leBytes 8 0x61000 ++ leBytes 2 4 ++ leBytes 2 64)
      thr := { base.thr with mbase := BitVec.ofNat 64 (2 ^ 63 + 0x60000 + 7) }
      host := { base.host with endpoints := [{ ep := 7, lid := 0, tix := 0, asid := 0, root := 0x10000, base := 0x60000 }] } }
    (.priv 0) ([0, 0, 7, 4, 8, 0, 0, 0] ++ leBytes 8 0x100 ++ leBytes 8 5 ++ leBytes 8 0)
theorem witness_Messages :
    Clear { held := true, reads := [.x 6], writes := [.x 5] } (mailing 0)
      ∧ (match (mailing 0).readRecord 0x2000000000000000 32 32 with
        | .ok bs => field bs 0 2 == 0 && field bs 2 1 == 7 && field bs 3 1 / 4 % 4 == 1 && field bs 4 2 == 8
            && decide (lsWindow (field bs 8 8) 8 = some (.priv 0x100))
        | .error _ => false) = true
      ∧ (match (mailing 0).release 3 with
        | .error _ => false
        | .ok q => (q.endpoint 8).isNone && match q.endpoint 7 with
          | some e => (match q.mailbox e 0 with
            | .ok (m, t) => m.cap == 4 && m.slotsz == 64 && m.waiting == 0 && t.host.parked.isEmpty && works (t.deliver e 0 m 0 7 1 5 [1, 2, 3])
            | .error _ => false)
          | none => false) = true
      ∧ (mailing 0).thr.mbase.getLsbD 63 = true ∧ base.thr.mbase.getLsbD 63 = false :=
  ⟨clear_of _ _ (by decide +kernel) (fun _ => rfl), by decide +kernel⟩
/-- A full mailbox, a message to receive, and none. -/
theorem witness_Messages_receive :
    (match (mailing 4).ownMailbox 0 with | .ok (m, _) => m.waiting == m.cap | .error _ => false) = true
      ∧ (match (mailing 1).ownMailbox 0 with
        | .ok (m, t) => m.count != m.taken && works (t.lsDestination 0x2000000000000000 (64 + m.slotsz))
            && (match t.loadVa .gather (m.slot m.taken) 64 with
              | .ok (h, s1) => (match s1.loadPieces .gather (pieces (field h 4 2 + 1) (m.slot m.taken + 64) (field h 4 2)) with
                | .ok (_, s2) => both (s2.storeVa .gather (descriptorVa (mbaseBase t.thr.mbase) 0 + 8) (leBytes 8 (m.taken + 1)))
                    (fun s3 => s3.acquire 3)
                | .error _ => false)
              | .error _ => false)
        | .error _ => false) = true
      ∧ (match (mailing 0).ownMailbox 0 with | .ok (m, _) => m.count == m.taken | .error _ => false) = true
      ∧ works (base.lsDestination 0x2000000000000000 64) = true ∧ works ((mailing 1).loadVa .gather 0x60000 16) = true := by
  decide +kernel

/-- A head whose LS holds these bytes at offset 0; sg1 reaches it. -/
def lsHolding (bs : List Byte) (s : State) : State := State.lsWrite s (.priv 0) bs

/-- The effective address of LS offset 0. -/
def lsEa : Dword := 0x2000000000000000

/-- An image with one entry point, and a launch record that asks for one thread of it at PRIO 1, after n dependences. -/
def anImage : Image := { handle := 1, asid := 0, root := 0x10000, sg0 := 0, patches := [], entries := [(0x1000, 0)], shared := [] }
def aRecord (stat : Nat) : List Byte :=
  leBytes 4 1 ++ leBytes 2 0 ++ [1, 1] ++ leBytes 4 1 ++ List.replicate 28 0 ++ leBytes 8 stat ++ List.replicate 208 0
def spawning (stat : Nat) : State :=
  lsHolding (aRecord stat) { base with host := { base.host with images := [anImage] } }

/-- A launch of that image. -/
def aLaunch (lid : Nat) : Launch :=
  { lid := lid, image := 1, prio := 1, weight := 1, cores := 1, nthr := 1, asid := 0, cmd := 0, root := 0x10000, sg := placedThread.sg, aff := 0,
    early := none, caddr := 0, cval := 0, queue := 0, tag := 0, parent := none, deps := [], binds := [], ended := 0, bad := 0,
    closed := false }

/-- The same head in U mode. -/
def user (s : State) : State := { s with cpu := { s.cpu with stat := 0 } }

theorem clear_held (u : Use) (s : State) (h : (s.cpu.trap = none ∧ s.cpu.ended = false ∧ s.cpu.squashed = false ∧ s.cpu.capped = false
    ∧ s.cpu.park = none ∧ s.cpu.wait = [] ∧ s.cpu.flight = [] ∧ statSchk s.cpu.stat = false ∧ s.openRegion = none) ∧ s.isHead = true) :
    Clear u s := clear_of u s h.1 (fun _ => h.2)

/-- A good record, one that asks for S mode from U mode, a bad one (another image handle), a full launch table. -/
theorem witness_ThreadInstructions_spawn :
    Clear { held := true, reads := [.x 6], writes := [.x 5] } (spawning 0)
      ∧ (match (spawning 0).readRecord lsEa 256 64 with
        | .ok bs => (field64 bs 0x28).getLsbD 0 == false && field64 bs 0x40 == 0
            && (match (spawning 0).release 3 with
              | .ok q => q.badRec { bytes := bs } [q.thr.asid] none == none && works (q.admitLaunch (q.spawnAdmit { bytes := bs }))
                  && decide (q.host.launches.length < 4096)
              | .error _ => false)
        | .error _ => false) = true
      ∧ (match (user (spawning 1)).readRecord lsEa 256 64 with
        | .ok bs => (field64 bs 0x28).getLsbD 0 && !(user (spawning 1)).smode | .error _ => false) = true
      ∧ (match base.readRecord lsEa 256 64 with
        | .ok bs => (match base.release 3 with | .ok q => q.badRec { bytes := bs } [q.thr.asid] none == some 0 | .error _ => false)
        | .error _ => false) = true
      ∧ (with_ 6 1 base).rx 6 = 1 :=
  ⟨clear_held _ _ (by decide +kernel), by decide +kernel⟩
theorem witness_ThreadInstructions_full :
    4096 ≤ ({ base with host := { base.host with launches := List.replicate 4096 (aLaunch 1) } } : State).host.launches.length :=
  Nat.le_of_eq (List.length_replicate ..).symm

/-- A ready thread of the same priority beside a head, and a head that may end. -/
def contended : State :=
  { base with
    thr := { base.thr with lid := 1 }
    host := { base.host with launches := [aLaunch 1] }
    saved := [{ thr := { base.thr with st := .ready, lid := 1, tix := 1 }, head := { base.cpu with pc := 0x40100 }, block := none }] }
theorem witness_ThreadInstructions_rest :
    Clear { held := true, reads := [.x 6] } contended ∧ contended.thr.region.isSome = false
      ∧ oldestFault contended.thr.cmds (fun _ => true) = none ∧ contended.copyBusy = false ∧ contended.thr.unacked = 0
      ∧ contended.squashYounger.saved.any (fun v => v.thr.st == .ready && contended.squashYounger.quotaOk v.thr.lid
        && contended.squashYounger.permits v.thr contended.squashYounger.ring
        && decide (contended.squashYounger.prioOf contended.squashYounger.thr.lid ≤ contended.squashYounger.prioOf v.thr.lid)) = true
      ∧ both (contended.fenced 3 true true) (fun r => .ok (ε := Stop) (r.exitThread 0)) = true
      ∧ (((contended.squashYounger.wx 5 1).advance.noteWrites [.x 5]).settle contended.cpu.pc).cpu.ended = false
      ∧ works ((((contended.squashYounger.wx 5 1).advance.noteWrites [.x 5]).settle contended.cpu.pc).saveThread .ready) = true
      ∧ base.squashYounger.saved = [] ∧ contended.smode = true
      ∧ works (contended.dropSuspended.advance.haltThread (fun q =>
        eventRecord q 2 (contended.launchTag contended.thr.lid).1 contended.thr.lid contended.thr.tix 0 0 0 0
          (contended.launchTag contended.thr.lid).2)) = true :=
  ⟨clear_held _ _ (by decide +kernel), by decide +kernel⟩
/-- A yield whose next instruction is the label of its chunk's fcut: the chunk ends first. -/
theorem witness_ThreadInstructions_label :
    (let s : State := { contended with
        thr := { contended.thr with cores := 2, region := some { kind := .cut, first := 0x40000, last := 0x40004, mask := 0, grain := 1, home := 0, wrote := [], read := [] } }
        cpu := { contended.cpu with cut := some (0x40004, 0) } };
      (((s.squashYounger.wx 5 1).advance.noteWrites [.x 5]).settle s.cpu.pc).cpu.ended) = true := by decide +kernel
theorem witness_StatusRegisterAccess :
    Clear { held := true, writes := [.x 5] } base ∧ Clear { held := true, reads := [.x 6], writes := .x 5 :: sregWrites 0 } (with_ 6 1 base)
      ∧ Clear { held := true, reads := [.x 6], writes := sregWrites 8 } (user base) ∧ (user base).smode = false ∧ base.smode = true
      ∧ ((with_ 6 1 (user base)).rx 6 ^^^ (user base).cpu.stat) &&& 0xB#64 ≠ 0 ∧ ((with_ 6 0x10 (user base)).rx 6 ^^^ (user base).cpu.stat) &&& 0xB#64 = 0 :=
  ⟨clear_base _, clear_with _ _ _, clear_held _ _ (by decide +kernel), by decide +kernel⟩
theorem witness_StatusRegisterEffects :
    base.thr.fetchOld = FetchOld.empty ∧ (user base).smode = false ∧ (0x8000000000060007#64).getLsbD 63 = true ∧ (7#64).getLsbD 63 = false
      ∧ Clear { held := true, reads := [.x 6], writes := sregWrites (0x19#10).toNat } (user base)
      ∧ ({ base with younger := [Chunk.blank] } : State).younger ≠ [] :=
  ⟨by decide +kernel, by decide +kernel, by decide, by decide, clear_held _ _ (by decide +kernel), by simp⟩

/-- The same head with tsave and tloc. -/
def saved_ (a b : Dword) (s : State) : State := { s with thr := { s.thr with tsave := a, tloc := b } }
/-- A head, one whose frame is at run 3 of word 1, a speculative chunk, and returns that fail and that do not. -/
theorem witness_TrapsAndReturns_codes :
    Clear { held := true } base ∧ Clear { held := true } (user base) ∧ Clear { held := true, writes := [.frm, .vrm] } (saved_ 0x77F 0x40004 base)
      ∧ (saved_ 0x77F 0x40004 base).smode = true ∧ ((0x77F#64) ^^^ (saved_ 0x77F 0x40004 base).cpu.stat) &&& ~~~(0x770#64) ≠ 0
      ∧ ((0x771#64) ^^^ (saved_ 0x771 0x40004 base).cpu.stat) &&& ~~~(0x770#64) = 0 ∧ (∀ g, base.thr.region = some g → g.kind = .loop)
      ∧ (cutting 0x40020).younger ≠ [] ∧ ∃ g, (cutting 0x40020).thr.region = some g ∧ g.kind = .cut := by
  have h : base.thr.region = none := by decide +kernel
  and_intros <;> first
    | exact clear_base _
    | exact clear_held _ _ (by decide +kernel)
    | exact ⟨_, rfl, rfl⟩
    | (intro g hg; rw [h] at hg; exact absurd hg (by simp))
    | decide +kernel
theorem witness_TrapsAndReturns :
    base.isHead = true ∧ base.cpu.frame = none
      ∧ ({ base with cpu := { base.cpu with frame := some { words := [0, 0], run := 3, index := 1 } } } : State).cpu.frame
        = some { words := [0, 0], run := 3, index := 1 }
      ∧ ({ base with older := [Chunk.blank] } : State).cpu.frame = none ∧ ({ base with older := [Chunk.blank] } : State).isHead = false
      ∧ Clear { held := true } base ∧ Clear { held := true, writes := [.frm, .vrm] } (user base) ∧ (user base).smode = false
      ∧ Clear { held := true, writes := [.frm, .vrm] } (saved_ 0x80 0 base) ∧ (saved_ 0x80 0 base).thr.tsave &&& ~~~(0x77F#64) ≠ 0
      ∧ (saved_ 0x77F 0x40002 base).thr.tsave &&& ~~~(0x77F#64) = 0 ∧ (saved_ 0x77F 0x40002 base).thr.tloc.toNat % 4 ≠ 0
      ∧ Clear { held := true, writes := [.frm, .vrm] } (saved_ 0x77F 0x40004 base) ∧ (saved_ 0x77F 0x40004 base).thr.tloc.toNat % 4 = 0 := by
  and_intros <;> first | exact clear_base _ | exact clear_held _ _ (by decide +kernel) | decide +kernel

/-- A head with an interrupt of every kind pending. -/
def interrupted : State :=
  { base with
    thr := { base.thr with hostirq := some 9, tmcmp := 5, unacked := 1 }, cyc := 10
    cpu := { base.cpu with stat := 3, flight := [{ kind := .memory, regs := [.x 5] }, { kind := .long, regs := [.x 6] }] } }
theorem witness_SystemInstructions :
    Clear { held := true, reads := [.x 6] } (user base) ∧ Clear { held := true, reads := [.x 6] } base
      ∧ (match base.load .gather 0x50000 8 16 with
        | .ok (b0, t0) => (match t0.load .gather 0x50008 8 8 with
          | .ok (b1, t) => decide (t.thr.sg.get (7#3).toFin ≠ (field64 b0 0, field64 b1 0)) | .error _ => false)
        | .error _ => false) = true
      ∧ both (base.store .gather 0x50000 (leBytes 8 (base.thr.sg.get (0#3).toFin).1.toNat) 16)
          (fun t => t.store .gather 0x50008 (leBytes 8 (base.thr.sg.get (0#3).toFin).2.toNat) 8) = true
      ∧ Clear { held := true, writes := [.x 5], again := some .idle } base ∧ base.ipend = 0
      ∧ ({ interrupted with cpu := base.cpu } : State).ipend ≠ 0
      ∧ base.thr.unacked = 0 ∧ base.cpu.flight = [] ∧ interrupted.thr.unacked ≠ 0 ∧ Clear { held := true, reads := [.x 6, .x 7] } base
      ∧ (with_ 7 0x100000000 base).rx 7 = 0x100000000 ∧ (with_ 7 0x100000001 base).rx 7 = 0x100000001
      ∧ base.rangeFault (segPieces 3 0x50000 64) = none ∧ (base.rangeFault (segPieces 3 0x8000000000000000 64)).isSome = true
      ∧ base.flushCount (base.rangeLines (segPieces 3 0x50000 64)) = 0
      ∧ works (base.flushRange true (base.rangeLines (segPieces 3 0x50000 64))) = true := by
  and_intros <;> first | exact clear_held _ _ (by decide +kernel) | decide +kernel
/-- The page of VA 0x50000, of level 2, and its line in an SIV cache, dirty in byte 0. -/
def aLeaf : Leaf := { level := 2, addr := 0x30000, entry := 0xDF, rep := none, root := 0x10000 }
def sivLine (line : Nat) : SivLine :=
  { ring := 0, asid := 0, va := line, page := aLeaf, line := line, data := List.replicate 64 0, dirty := 1 }
/-- A line of an SIV page that the ring holds dirty: flushing it waits for one acknowledgement. -/
theorem witness_SystemInstructions_flush :
    (let s : State := { base with coh := { base.coh with siv := [sivLine 0x1400] } }
      let l := s.rangeLines (segPieces 3 0x50000 64)
      s.flushCount l == 1 && works (s.flushRange false l) && works (s.flushRange true l)) = true := by decide +kernel
theorem witness_RegisterWritesAndInterrupts :
    base.notReady none = false ∧ (user base).notReady none = false ∧ base.isHead = true ∧ (0#64 ^^^ (user base).cpu.stat) &&& 0xB#64 = 0
      ∧ (1#64 ^^^ (user base).cpu.stat) &&& 0xB#64 ≠ 0
      ∧ interrupted.cpu.flight = [] ++ { kind := .memory, regs := [.x 5] } :: [{ kind := .long, regs := [.x 6] }]
      ∧ (∀ g, g ∈ [({ kind := .long, regs := [.x 6] } : Flight)] → g.kind ≠ .memory)
      ∧ interrupted.live = true ∧ interrupted.thr.tmcmp ≠ 0 ∧ interrupted.cpu.park = none ∧ interrupted.cpu.frame = none
      ∧ interrupted.cpu.stat.getLsbD 1 = true ∧ interrupted.cpu.ended = false ∧ interrupted.thr.hostirq = some 9
      ∧ ({ interrupted with thr := { interrupted.thr with hostirq := none } } : State).timerPend = true
      ∧ ((base.parkAs .idle 5 0 0 0).cpu.park.map (fun p => p.kind) = some .idle) ∧ base.cpu.stat.getLsbD 1 = false := by decide +kernel
/-- A message waits for a head that takes interrupts. -/
theorem witness_RegisterWritesAndInterrupts_message :
    (mailing 1).thr.hostirq = none ∧ (mailing 1).timerPend = false ∧ (mailing 1).messageBits (mailing 1).thr ≠ 0 := by decide +kernel

/-- A loop region's head at its end, and chunk 1 after it: it awaits X[1], has read word 0xA000, and a notice of it comes. -/
def twoChunks : State :=
  { looping base with
    cpu := { base.cpu with ended := true, outbox := [(.x 1, .scalar 7)] }
    younger := [{ Chunk.blank with
      num := 1, core := 1, pc := 0x40000, start := 0x40000, stat := 1, wait := [.x 1], reads := [0xA000], inbox := [0xA000] }] }
/-- The same after the value, with no notice: the head may commit. -/
def drained : State :=
  { looping base with
    cpu := { base.cpu with ended := true }
    younger := [{ Chunk.blank with num := 1, core := 1, pc := 0x40000, start := 0x40000, stat := 1 }] }
theorem witness_ChunkSteps :
    ((looping base).openRegion.isSome = true ∧ (looping base).successorStart (looping base).youngest = some (0x40000, 6)
        ∧ (looping base).youngest.squashed = false ∧ (looping base).slotFree ((0 + (0 + 1)) % 2) = true)
      ∧ ((twoChunks.focusChunk 1).older.length = 1 ∧ (twoChunks.focusChunk 1).cpu.squashed = false
        ∧ .x 1 ∈ (twoChunks.focusChunk 1).cpu.wait ∧ (twoChunks.focusChunk 1).cpu.inbox = [0xA000]
        ∧ (twoChunks.focusChunk 1).isHead = false ∧ 0xA000 ∈ (twoChunks.focusChunk 1).cpu.reads)
      ∧ (drained.older = [] ∧ drained.cpu.ended = true ∧ drained.cpu.outbox = [] ∧ drained.openRegion.isSome = true)
      ∧ ((drained.focusChunk 1).squashSelf.cpu.squashed = true ∧ (drained.focusChunk 1).squashSelf.isHead = false
        ∧ (drained.focusChunk 1).squashSelf.cpu.guarded = false) := by decide +kernel

/-- A line that rings 0 and 9 share, which ring 0 purges; a walk and a shootdown in progress on die 0. -/
def chained : State :=
  { base with
    coh := { base.coh with
      dir := [{ line := 0x1400, purge := none, waiting := [], chain := [{ ring := 0, asid := 0, va := 0x1400, page := aLeaf, st := .shared, tag := none, part := [] },
          { ring := 9, asid := 0, va := 0x1400, page := aLeaf, st := .shared, tag := none, part := [] }] }]
      tlb := [{ die := 0, place := .unit 0, asid := 0, vpn := 0, leaf := aLeaf }]
      walks := [{ die := 0, asid := 0, root := 0x10000, va := 0x50000 }]
      shoots := [{ client := 0, id := 0, asid := 0, all := true, vpn := 0, wide := false, left := [0, 1] }] } }
/-- A request of ring 0 for the line, and the line while that request purges it and waits for these members. -/
def aReq (own : Bool) : LineReq := { ring := 0, asid := 0, va := 0x1400, page := aLeaf, own := own }
def purgingLine (left : List Nat) : State :=
  { chained with coh := { chained.coh with dir := chained.coh.dir.map (fun d => { d with purge := some { req := aReq true, left := left, since := 0 } }) } }
theorem witness_CoherenceSteps :
    chained.lineReq 0 0x1400 false = some (aReq false) ∧ chained.lineReq 0 0x1400 true = some (aReq true)
      ∧ purging chained.coh.dir 0x1400 = false ∧ chained.place (64 * 0x1400) = .hbm (64 * 0x1400)
      ∧ works (chained.cachedRead (aReq false).who (64 * 0x1400) ((aReq false).target 0x1400) 64) = true
      ∧ purging (purgingLine [9]).coh.dir 0x1400 = true ∧ (purgingLine [9]).lineReq 0 0x1400 true = some (aReq true)
      ∧ (((purgingLine [9]).waitLine (aReq true) 0x1400).coh.dir.find? (fun d => d.line == 0x1400)).isSome = true
      ∧ purgeOf (purgingLine [9]).coh.dir 0x1400 = some ({ req := aReq true, left := [9], since := 0 }, [])
      ∧ (∀ x, x ∈ chainOf (purgingLine [9]).coh.dir 0x1400 → x.st ≠ .collect)
      ∧ purgeOf (purgingLine []).coh.dir 0x1400 = some ({ req := aReq true, left := [], since := 0 }, [])
      ∧ works (State.trkTake ((purgingLine []).mapLine 0x1400 (fun d => { d with purge := none, waiting := [] })) (aReq true).who (64 * 0x1400)
          ((aReq true).target 0x1400)) = true
      ∧ base.live = true ∧ dieOf base.ring = 0
      ∧ (∀ x, x ∈ base.coh.walks → ¬ (x.die = 0 ∧ x.asid = base.thr.asid ∧ x.va / 2 ^ 16 = (0x50000#64).toNat % 2 ^ 57 / 2 ^ 16))
      ∧ chained.coh.walks.find? (fun w => w.die == 0) = some { die := 0, asid := 0, root := 0x10000, va := 0x50000 }
      ∧ (match State.walk { chained with coh := { chained.coh with walks := [] } } 0 .load 0x10000 0x50000 with
        | .ok (f, _) => f == aLeaf | .error _ => false) = true
      ∧ (match State.walk { chained with coh := { chained.coh with walks := [] } } 0 .load 0x10000 0x20000000 with
        | .ok _ => false | .error _ => true) = true
      ∧ (∃ x, chained.coh.shoots.find? (fun x => x.left.contains 0) = some x ∧ ∃ d, d ∈ x.left ∧ d ≠ 0)
      ∧ interrupted.thr.unacked = 1 ∧ interrupted.cpu.park = none
      ∧ ((base.parkAs .cflush 0 0 0 0).cpu.park.map (fun p => p.kind) = some .cflush) := by
  and_intros <;> decide +kernel
theorem witness_CoherenceSteps_sound : chained.Sound ∧ (purgingLine []).Sound := by
  have shared (p : Option Purge) : ∀ d, d ∈ chained.coh.dir.map (fun d => { d with purge := p }) → ChainOk d.chain := by
    intro d h
    simp only [chained, List.map_cons, List.map_nil, List.mem_singleton] at h
    subst h
    exact .inr (.inl (by simp))
  exact ⟨⟨by decide +kernel, by decide +kernel, by simpa [chained] using shared none⟩, ⟨by decide +kernel, by decide +kernel, shared _⟩⟩

/-- A shape record: SRC 0x50000, DST 0x60000, one dimension of n 8-byte elements. -/
def aShape (dkind n : Nat) (caddr : Nat) : List Byte :=
  leBytes 8 0x50000 ++ leBytes 8 0x60000 ++ leBytes 8 caddr ++ leBytes 8 5 ++ List.replicate 24 0
    ++ [BitVec.ofNat 8 dkind, 5, 0, 1, if caddr = 0 then 0 else 8, 0, 0, 0]
    ++ leBytes 4 n ++ List.replicate 36 0 ++ leBytes 8 8 ++ List.replicate 64 0 ++ leBytes 8 8 ++ List.replicate 72 0
/-- A command of that record. -/
def aCmd (dkind n caddr : Nat) (active : Bool) : CopyCmd :=
  { quad := 0, entry := 0, core := 0, chunk := 0, committed := true, smode := true, fn := 0, acq := true, rel := false, scope := 0,
    barrier := 3, record := aShape dkind n caddr, active := active, pos := 0, scaled := false, ahead := [], left := 8 * n, fault := none,
    soff := 0, next := 0, bits := 0, part := 0, counted := [], asked := none, once := [], done := false, kept := 0, held := [], dirty := false }
/-- The same, stopped by a fault. -/
def aBadCmd : CopyCmd := { aCmd 0 2 0 false with fault := some { cause := causeSegv, info := 0x50000, index := 0 } }
def commanding (m : CopyCmd) : State := { base with thr := { base.thr with cmds := [m] } }
/-- A cwait that has been parked past its limit. -/
def timedOut : State :=
  { commanding (aCmd 0 2 0 true) with
    cyc := 10
    thr := { (commanding (aCmd 0 2 0 true)).thr with wtime := 1 }
    cpu := { base.cpu with park := some { kind := .cwait, since := 0, d := 5, a := 0, b := 1, c := 3, st := 0 } } }
theorem witness_CopyCommands :
    Clear { reads := [.x 6], writes := [.x 5] } (lsHolding (aShape 0 2 0) base)
      ∧ (lsHolding (aShape 0 2 0) base).readRecord lsEa 256 64 = .ok (aShape 0 2 0)
      ∧ faults (base.readRecord 0x50000 256 64) = true
      ∧ Shape.bad { bytes := aShape 0 2 0 } 0 = none ∧ Shape.bad { bytes := aShape 4 2 0 } 0 = some 56
      ∧ base.streamCheck { bytes := aShape 0 2 0 } = none ∧ base.copyHeld 0 { bytes := aShape 0 2 0 } = false
      ∧ base.cpu.bank = none ∧ base.cpu.loupe = none ∧ entryUsed base.thr.cmds base.cpu.core 0 = false
      ∧ Clear { held := true, writes := [.x 5], again := some .cwait } (commanding aBadCmd)
      ∧ oldestFault (commanding aBadCmd).thr.cmds (fun x => x.barrier == 3) = some aBadCmd
      ∧ barrierCount (commanding (aCmd 0 2 0 true)).thr.cmds 3 ≠ 0 ∧ barrierCount base.thr.cmds 3 = 0
      ∧ oldestFault (commanding (aCmd 0 2 0 true)).thr.cmds (fun x => x.barrier == 3) = none
      ∧ base.limitPassed base.thr.wtime = false ∧ Clear { held := true, writes := [.x 5], again := some .cwait } timedOut
      ∧ oldestFault timedOut.thr.cmds (fun x => x.barrier == 3) = none ∧ barrierCount timedOut.thr.cmds 3 ≠ 0
      ∧ timedOut.limitPassed timedOut.thr.wtime = true
      ∧ (match base.resolveLs .store lsEa 64 64 with | .ok g => !base.sharedLocked g | .error _ => false) = true
      ∧ (commanding aBadCmd).cmdOf aBadCmd.ticket 3 = some aBadCmd ∧ base.cmdOf 0 3 = none
      ∧ (commanding (aCmd 0 2 0 true)).cmdOf (aCmd 0 2 0 true).ticket 3 = some (aCmd 0 2 0 true)
      ∧ works (base.acquire 0) = true ∧ aBadCmd.fault.isSome = true ∧ (aCmd 0 2 0 true).fault = none := by
  and_intros <;> first
    | decide +kernel
    | exact clear_held _ _ (by decide +kernel)
    | exact ⟨by decide +kernel, fun _ => by decide +kernel, by decide +kernel, by decide +kernel, by decide +kernel⟩
/-- A speculative command: the range of its SRC bytes, and none when its index list cannot be read now. -/
theorem witness_CopyCommands_speculative :
    speculative.isHead = false ∧ (speculative.snapRange { aCmd 0 2 0 false with committed := false }).isSome = true := by decide +kernel
/-- A command that waits, one without elements, one that is performed in one run and one whose run faults; a completion
word. -/
theorem witness_CopyCommands_engine :
    (aCmd 0 2 0 false).queued 0 = true ∧ ((commanding (aCmd 0 2 0 false)).thr.cmds.filter (fun x => x.quad == 0 && x.active)).length < 8
      ∧ (aCmd 0 0 0 false).shape.total ≤ (aCmd 0 0 0 false).pos ∧ (aCmd 0 2 0x70000 true).shape.cen = true
      ∧ (aCmd 0 4 0 true).pos < (aCmd 0 4 0 true).shape.total
      ∧ (match (commanding (aCmd 0 100 0 true)).copyRun (aCmd 0 100 0 true) 0 100 with
        | .ok (xs, r) => (match r.runValues (aCmd 0 100 0 true) xs with
          | .ok (vs, r') => works (r'.putRun (aCmd 0 100 0 true) (((xs.filter (fun x => !x.skip)).filterMap (fun x => x.dst)).zip vs))
            && decide (xs.length < 100)
          | .error _ => false)
        | .error _ => false) = true
      ∧ both ((commanding (aCmd 0 0 0x70000 true)).sivRelease 0 0) (fun q => q.engineWrite (aCmd 0 0 0x70000 true) 0x70000 (leBytes 8 5)) = true
      ∧ works ((commanding (aCmd 0 2 0 false)).sivAcquire 0 0) = true
      ∧ (commanding (aCmd 0 2 0 true)).older = [] ∧ (commanding (aCmd 0 2 0 true)).younger = [] := by decide +kernel

/-- A format context of one row and two columns, ternary weights, no scales; no spill area. -/
def aFmt : List Byte := List.replicate 6 0 ++ [1, 0, 2, 0, 0, 0, 0, 1, 0, 0] ++ List.replicate 112 0
/-- A bank with that format whose FIFOs hold one group of zeros. -/
def aBank : Bank :=
  { Bank.fresh with fmt := some aFmt, fifoA := List.replicate 512 0, fifoB := List.replicate 128 0, mstart := 1, steps := 4 }
def claimed (b : Bank) (s : State) : State := { s with cpu := { s.cpu with bank := some b } }
/-- A waiting step with or without the lease; a waiting command. -/
def stepping (b : Bank) : State := (claimed b base).parkAs .mstep 0 0 0 2 0
def awaitingLease (b : Bank) : State := (claimed b base).parkAs .menl 0 0 0 0
/-- A speculative chunk whose core's quad has another bank: a waiting step that holds the lease, or a head's that is due it. -/
def contesting (lease : Option (Nat × Nat)) : State :=
  { claimed aBank base with
    older := [{ (stepping { aBank with lease := lease }).cpu with core := 1 }] }
theorem witness_EnlargerInstructions :
    Clear { writes := [.x 5], again := some .mclaim } base ∧ base.cpu.bank = none ∧ (∀ c, c ∈ base.older ∨ c ∈ base.younger → c.core = base.cpu.core → c.bank = none)
      ∧ Clear { writes := [.x 5], again := some .mclaim } (claimed aBank base)
      ∧ (∃ c, c ∈ ({ base with older := [{ Chunk.blank with bank := some aBank }] } : State).older ∧ c.core = base.cpu.core ∧ c.bank.isSome = true)
      ∧ Clear { reads := [.x 6, .seed, .sbase], writes := [.v 3], again := some .menl } (claimed aBank base)
      ∧ Clear { reads := [.x 6], again := some .menl } (lsHolding aFmt (claimed aBank base))
      ∧ Clear { again := some .menl } base ∧ Clear { writes := [.x 5] } (claimed aBank base) ∧ faults (base.readRecord 0x50000 128 64) = true
      ∧ ((claimed aBank base).leased aBank).isSome = true ∧ (contesting (some (3, 4096))).leased aBank = none
      ∧ (lsHolding aFmt (claimed aBank base)).readRecord lsEa 128 64 = .ok aFmt
      ∧ base.badFmt { bytes := aFmt } = none ∧ base.badFmt { bytes := List.replicate 128 0 } = some 6 ∧ Bank.fresh.fmt = none
      ∧ aBank.fmt = some aFmt ∧ aBank.arepleft = 0 ∧ ({ aBank with arepleft := 1, amark := 0, readA := 32800 } : Bank).arepleft ≠ 0
      ∧ 0 + 32768 < 32800 + (({ aBank with readA := 32800 } : Bank).need { bytes := aFmt }).1
      ∧ FmtCtx.m { bytes := aFmt } = 1 ∧ (with_ 6 1 base).rx 6 = 1
      ∧ works ((claimed aBank base).drainRow aBank { bytes := aFmt } 0 2) = true
      ∧ works ((claimed aBank base).drainRows aBank { bytes := aFmt } 1) = true
      ∧ (match (claimed aBank base).resolveLs .store lsEa (128 * 0 * FmtCtx.outBytes { bytes := aFmt } + 2 * FmtCtx.outBytes { bytes := aFmt }) 64 with
        | .ok (.priv _) => true | _ => false) = true
      ∧ (claimed aBank base).spillShort { bytes := aFmt } 0 [] = none
      ∧ (claimed aBank base).spillShort { bytes := aFmt } 0 [(0, 1), (0, 0)] = some (0, 0) := by
  and_intros <;> first
    | decide +kernel
    | exact clear_held _ _ (by decide +kernel)
    | (intro c h
       exact absurd h (by simp [show base.older = [] from by decide +kernel, show base.younger = [] from by decide +kernel]))
theorem witness_EnlargerTotals :
    (stepping aBank).cpu.bank = some aBank ∧ (stepping aBank).cpu.leaseReady = true ∧ (awaitingLease aBank).cpu.leaseReady = true
      ∧ aBank.lease = none ∧ (stepping aBank).leaseAhead = false ∧ (stepping aBank).leaseHeld = false
      ∧ (contesting (some (3, 4096))).leaseHeld = true ∧ (contesting none).leaseAhead = true
      ∧ (∃ p, (stepping aBank).cpu.park = some p ∧ p.kind = .mstep) ∧ aBank.ready { bytes := aFmt } = true
      ∧ Bank.ready { aBank with fifoB := [] } { bytes := aFmt } = false
      ∧ works ((stepping { aBank with lease := some (8, 4096) }).applyGroup { aBank with lease := some (8, 4096) } { bytes := aFmt }) = true
      ∧ works ((stepping { aBank with fifoB := List.replicate 128 0xAA }).applyGroup { aBank with fifoB := List.replicate 128 0xAA } { bytes := aFmt }) = false
      ∧ aBank.cells.length = 128 ∧ (∀ row, row ∈ aBank.cells → row.length = 128) ∧ FmtCtx.n { bytes := aFmt } ≤ 128
      ∧ FmtCtx.spcap { bytes := aFmt } = 0 := by decide +kernel

/-- A Loupe configuration: DW 1, RK 4, NN 64, three lists of one entry each in LS. -/
def aLoupe : List Byte :=
  leBytes 2 1 ++ leBytes 2 4 ++ leBytes 4 64 ++ List.replicate 8 0 ++ leBytes 4 0 ++ leBytes 4 1 ++ List.replicate 16 0
    ++ leBytes 8 0x2000000000001000 ++ leBytes 8 0x2000000000001100 ++ leBytes 8 0x2000000000001200
    ++ leBytes 4 1 ++ leBytes 4 1 ++ leBytes 4 1 ++ List.replicate 52 0
def louped (taken : List Byte) (pred : Option (Nat × Nat × BitVec 3)) : State :=
  { base with cpu := { base.cpu with loupe := some { cfg := aLoupe, pos := 0, base := 0, gone := 0, buf := [], taken := taken, pred := pred } } }
def predicting (taken : List Byte) : State := (louped taken none).parkAs .lpred 5 0 1 1
theorem witness_Loupe :
    Clear { reads := [.x 6], writes := [.x 5], again := some .lcfg } (lsHolding aLoupe base)
      ∧ (lsHolding aLoupe base).readRecord lsEa 128 64 = .ok aLoupe ∧ base.badLoupe { bytes := aLoupe } = none
      ∧ base.badLoupe { bytes := List.replicate 128 0 } = some 0 ∧ base.cpu.loupe = none ∧ base.loupeOlder = false
      ∧ ({ base with older := [{ Chunk.blank with loupe := (louped [] none).cpu.loupe }] } : State).loupeOlder = true
      ∧ Clear { reads := [.x 6], writes := [.x 5] } (louped [] none) ∧ (louped [] none).cpu.loupe.isSome = true
      ∧ (with_ 6 128 (louped [] none)).rx 6 = 128
      ∧ (louped [] none).thr.cmds.find? (fun m => m.chunk == (louped [] none).cpu.num && m.shape.dkind == 3 && m.fault.isSome) = none
      ∧ works ((lsHolding [1, 2] (louped [] (some (1, 1, 0)))).proofRows lsEa 0 1 1 1) = true
      ∧ Clear { held := true, reads := [.x 6], writes := [.x 5] } base ∧ (8#64).toNat % 8 < 7 ∧ (8#64).getLsbD 3 = true ∧ (6#64).getLsbD 3 = false := by
  and_intros <;> first
    | decide +kernel
    | exact clear_held _ _ (by decide +kernel)
/-- A prediction whose stream is complete, and one with a reserved code in P. -/
theorem witness_Loupe_lpred :
    (∃ p l, (predicting (List.replicate 66 0)).cpu.park = some p ∧ p.kind = .lpred ∧ p.c = 1 ∧ (predicting (List.replicate 66 0)).cpu.loupe = some l
        ∧ l.taken.length = 66 ∧ l.cfg = aLoupe)
      ∧ LoupeCfg.need { bytes := aLoupe } 1 = 66
      ∧ loupeBadCode { bytes := aLoupe } 1 (List.replicate 66 0) = none
      ∧ loupeBadCode { bytes := aLoupe } 1 (0 :: 2 :: List.replicate 64 0) = some 0x100000000
      ∧ works ((predicting (List.replicate 66 0)).putLists { bytes := aLoupe } [] [] []) = true
      ∧ faults ((predicting []).putLists { bytes := aLoupe.set 46 0xE0 |>.set 47 0xE0 } [0] [] []) = true
      ∧ (predicting []).cmaskOf [.x 5] = none ∧ (looping (predicting [])).cmaskOf [.x 5] = some 5 :=
  ⟨⟨_, _, rfl, rfl, rfl, rfl, rfl, rfl⟩, by decide +kernel⟩

/-- A parked waitw at 0x50000: condition c, comparison value y, 8 bytes. -/
def waiting (c : Nat) (y : Dword) : State := base.parkAs .waitw 5 0x50000 y (8 + 16 * c)
/-- The same past its limit. -/
def overdue (c : Nat) (y : Dword) : State := { waiting c y with cyc := 10, thr := { base.thr with wtime := 1 } }
/-- A thread whose entry 0 is parked at 0x70000 for mailbox 0 of its own endpoint 7, with n messages waiting there. -/
def parkedAt (n : Nat) : State :=
  { mailing n with
    mem := Memory.setBytes (Memory.setBytes (mailing n).mem 0x70000 (leBytes 8 1)) 0x70040
      (leBytes 8 1 ++ ([0, 0, 7, 4, 8, 0, 0, 0] ++ leBytes 8 0x100 ++ leBytes 8 5 ++ leBytes 8 0) ++ List.replicate 24 0 ++ List.replicate 8 9)
    thr := { (mailing n).thr with parkr := 0x8000000000070000 }
    host := { (mailing n).host with parked := [{ lid := 0, tix := 0, entry := 0, pkg := 0, ep := 7, mbox := 0, ch := 0 }] } }
theorem witness_WaitsAndDeliveries :
    ((waiting 0 0).cpu.park.map (fun p => (p.kind, p.c % 16, p.c / 16)) = some (.waitw, 8, 0))
      ∧ (match (waiting 0 0).waitRead 0x50000 8 with | .ok (v, t) => v == 0 && works (t.acquire 3) | .error _ => false) = true
      ∧ (match (overdue 1 0).waitRead 0x50000 8 with | .ok (v, t) => v == 0 && t.limitPassed t.thr.wtime | .error _ => false) = true
      ∧ (match (waiting 1 0).waitRead 0x50000 8 with | .ok (v, t) => v == 0 && !t.limitPassed t.thr.wtime | .error _ => false) = true
      ∧ (overdue 1 0).limitPassed (overdue 1 0).thr.wtime = true ∧ (waiting 1 0).limitPassed (waiting 1 0).thr.wtime = false
      ∧ (match (mailing 0).endpoint 7 with
        | some e => (match (mailing 0).mailbox e 0 with
          | .ok (m, t) => m.cap != 0 && m.waiting != m.cap && works (t.deliver e 0 m 3 1 2 5 [1, 2, 3])
          | .error _ => false)
        | none => false) = true := by decide +kernel
theorem witness_WaitsAndDeliveries_parked :
    (∃ p, (parkedAt 0).host.parked = [] ++ p :: [] ∧ p.lid = 0 ∧ p.entry = 0 ∧ p.pkg = (parkedAt 0).plat.pkid.toNat ∧ p.ep = 7)
      ∧ (match (parkedAt 0).senderOf 0 0 with
        | some x => (match (parkedAt 0).sysReadPieces x.root (pieces 2 (entryVa x.base.toNat 0) 64) with
          | .ok (b, t1) => (match t1.sysReadPieces x.root (pieces ((MsgRecord.ofBytes (b.drop 8)).len + 1) (entryVa x.base.toNat 0 + 64)
                (MsgRecord.ofBytes (b.drop 8)).len) with
            | .ok (payload, t) => payload == List.replicate 8 9 && (match t.endpoint 7 with
              | some e => (match t.mailbox e 0 with
                | .ok (m, q) => m.cap != 0 && m.waiting != m.cap && (match q.deliver e 0 m 0 x.sep 0 5 payload with
                  | .ok u => ((parkedAt 0).host.parked.head?.bind (fun p => u.entryState x p 0)).isSome
                  | .error _ => false)
                | .error _ => false)
              | none => false)
            | .error _ => false)
          | .error _ => false)
        | none => false) = true
      ∧ (match (parkedAt 4).endpoint 7 with
        | some e => (match (parkedAt 4).mailbox e 0 with | .ok (m, _) => m.waiting == m.cap | .error _ => false)
        | none => false) = true :=
  ⟨⟨_, rfl, rfl, rfl, by decide +kernel, rfl⟩, by decide +kernel⟩

/-- A ready thread of priority 1 whose launch permits only ring 1 (AMODE 2), beside a head of the same launch. -/
def pinned : State :=
  { contended with host := { contended.host with launches := [{ aLaunch 1 with aff := 0x20010 }] } }
theorem pinned_candidate : pinned.candidateThread.isSome = true := by
  have hb : ∀ t, pinned.available t = [1] → (pinned.bestRing t).isSome = true := by
    intro t h
    simp [State.bestRing, h, List.min?, Nat.mod_one]
  obtain ⟨v, hv, h1, h2, h3, h4⟩ : ∃ v, pinned.saved = [v] ∧ (v.thr.st == .ready) = true ∧ pinned.prioOf v.thr.lid = 1
      ∧ pinned.quotaOk v.thr.lid = true ∧ pinned.available v.thr = [1] :=
    ⟨_, rfl, rfl, by decide +kernel, by decide +kernel, by decide +kernel⟩
  obtain ⟨r, hr⟩ := Option.isSome_iff_exists.1 (hb _ h4)
  simp [State.candidateThread, State.candidateAt, hv, show v.thr.st = .ready from by simpa using h1, h2, h3, hr]
theorem witness_SchedulerSteps :
    (∃ v r, pinned.candidateThread = some (v, r)) ∧ (∀ v, v ∈ pinned.saved → v.block = none)
      ∧ contended.live = true ∧ contended.isHead = true
      ∧ State.contender { contended with cyc := max contended.cyc contended.sliceEnd }
          (fun v => State.prioOf { contended with cyc := max contended.cyc contended.sliceEnd } v.thr.lid
            == State.prioOf { contended with cyc := max contended.cyc contended.sliceEnd } contended.thr.lid) = true
      ∧ State.canSave { contended with cyc := max contended.cyc contended.sliceEnd } = true
      ∧ works (({ contended with cyc := max contended.cyc contended.sliceEnd } : State).saveThread .ready) = true
      ∧ (contended.cpu.park = none ∧ contended.cpu.trap = none ∧ contended.cpu.frame = none)
      ∧ base.contender (fun v => base.prioOf v.thr.lid == base.prioOf base.thr.lid) = false ∧ base.saved = [] :=
  ⟨by obtain ⟨p, h⟩ := Option.isSome_iff_exists.1 pinned_candidate; exact ⟨p.1, p.2, h⟩, by decide +kernel⟩

/-- A thread of priority 2 that may run on ring 0 alone, where a head of priority 1 runs, or is parked for long. -/
def ousting (parked : Bool) : State :=
  { contended with
    cyc := 94001
    cpu := { base.cpu with park := if parked then some { kind := .cwait, since := 0, d := 5, a := 0, b := 0, c := 0, st := 0 } else none }
    host := { contended.host with launches := [aLaunch 1, { aLaunch 2 with prio := 2, aff := 0x20000 }] }
    saved := [{ thr := { base.thr with st := .ready, lid := 2 }, head := base.cpu, block := none }] }
theorem witness_SchedulerSteps_preempt :
    (ousting false).contender (ousting false).isVictimOf = true ∧ (ousting false).canSave = true
      ∧ works ((ousting false).saveThread .ready) = true ∧ (ousting true).longParked (ousting true).cpu = true
      ∧ (ousting true).contender (fun v => decide ((ousting true).prioOf (ousting true).thr.lid ≤ (ousting true).prioOf v.thr.lid)
        && ((ousting true).available v.thr).isEmpty) = true
      ∧ (ousting true).canSave = true ∧ works ((ousting true).saveThread .ready) = true := by decide +kernel

/-- A launch that waits for the word at 0x50000 to reach n; a WAITEV that waits for it too. -/
def dependent (n : Dword) : State :=
  { base with host := { base.host with launches := [{ aLaunch 1 with deps := [(0x50000, n)] }] } }
/-- A command: opcode, flags, and the words of its payload. -/
def aCommand (opc : Nat) (cen : Bool) (words : List Nat) : List Byte :=
  leBytes 8 opc ++ leBytes 8 0x80000 ++ leBytes 8 5 ++ leBytes 8 9 ++ words.flatMap (leBytes 8)
    ++ List.replicate (96 - 8 * words.length) 0 |>.set 1 (if cen then 1 else 0)
/-- A queue that is enabled, privileged or not, and holds the command. -/
def queued (priv : Bool) (c : List Byte) (s : State) : State :=
  s.setQueue { s.queue 0 with qctl := if priv then 0xC000000000070008 else 0x8000000000070008, held := some c }
def awaiting (n : Nat) : State := base.setQueue { base.queue 0 with waits := [aCommand 3 false [0x50000, n]] }
theorem witness_SchedulerSteps_waits :
    ((dependent 0).launchOf 1).isSome = true
      ∧ (match (dependent 0).unmetDeps 0x10000 placedThread.sg 0 [(0x50000, 0)] with | .ok (u, _) => u == [] | .error _ => false) = true
      ∧ (match (dependent 1).unmetDeps 0x10000 placedThread.sg 0 [(0x50000, 1)] with | .ok (u, _) => u == [(0x50000, 1)] | .error _ => false) = true
      ∧ ((awaiting 0).queue 0).waits = [aCommand 3 false [0x50000, 0]] ∧ field (aCommand 3 false [0x50000, 0]) 0 1 = 3
      ∧ (match (awaiting 0).waitevMet (aCommand 3 false [2 ^ 50, 0]) with | .error (.fail _ _ _) => true | _ => false) = true
      ∧ (match (awaiting 0).waitevMet (aCommand 3 false [0x50000, 0]) with | .ok (b, _) => b | .error _ => false) = true
      ∧ (match (awaiting 1).waitevMet (aCommand 3 false [0x50000, 1]) with | .ok (b, _) => !b | .error _ => false) = true := by
  decide +kernel

/-- The package with a thread away: nothing runs, and the queue's tail word says that one command waits at 0x90000. -/
def hosted : State :=
  { base with
    mem := Memory.setBytes (Memory.setBytes base.mem 0x88000 (leBytes 8 1)) 0x90000 (aCommand 2 false [0])
    host := { base.host with queues := [{ Queue.blank 0 with qbase := 0x90000, qctl := 0x8000000000070008, qtaila := 0x88000 }] } }
theorem witness_HostInterface :
    hosted.plat.started = true ∧ hosted.plat.hostLink = true ∧ hosted.hostRefused 0x50000 8 = none ∧ bitsOf 0x50000 50 2 ≠ 1
      ∧ (hosted.hostRefused (2 ^ 50 + 4) 8).isSome = true ∧ hosted.hostRefused (2 ^ 50) 64 = some 2 ∧ bitsOf (2 ^ 50) 50 2 = 1
      ∧ works (hosted.hostFetch 0x5003D 8) = true ∧ works (hosted.hostFetch 0x50000 64) = true
      ∧ works (hosted.hostPut 0x5003D (leBytes 8 7)) = true ∧ hosted.hostRefused 0x50000 64 = none
      ∧ (hosted.queue 0).qtaila.toNat = 0x88000
      ∧ hosted.hostRefused 0x88000 8 = none ∧ works (hosted.hostPut 0x88000 (leBytes 8 2)) = true
      ∧ chained.trkLine 0x1400 = true ∧ works (chained.hostFetch (64 * 0x1400) 64) = true ∧ hosted.trkLine 0x1400 = false
      ∧ works (chained.hostPut (64 * 0x1400) (List.replicate 64 1)) = true ∧ bitsOf (64 * 0x1400) 50 2 = 0
      ∧ (∃ e, e ∈ ({ base with coh := { base.coh with siv := [sivLine (2 ^ 45)], snoop := [(2 ^ 45, [0, 1])] } } : State).snoopFilter ∧ e.1 = 2 ^ 45)
      ∧ (∀ e, e ∈ ({ base with coh := { base.coh with snoop := [(2 ^ 45, [1])] } } : State).snoopFilter → e.1 ≠ 2 ^ 45)
      ∧ (match base.homeRead 0x50000 8 with | .ok (b, t) => works (t.homeWrite 0x50000 b) && works (base.homeWrite 0x50000 b) | .error _ => false) = true
      ∧ (hosted.queue 0).qctl.getLsbD 63 = true ∧ (hosted.queue 0).lsize = 8
      ∧ (match hosted.pronorRead (hosted.queue 0).asid 0x88000 8 0 with
        | .ok (tw, t) => leNat tw == 1 && works (t.pronorRead (hosted.queue 0).asid 0x90000 128 0) | .error _ => false) = true
      ∧ (0x8000000000000000#64).getLsbD 63 = true ∧ (0#64).getLsbD 63 = false := by
  and_intros <;> decide +kernel

/-- A non-privileged queue has a SIGNAL, a privileged one each other command. -/
def holding (priv : Bool) (opc : Nat) (words : List Nat) : State := queued priv (aCommand opc true words) base
theorem witness_Commands :
    ((holding false 2 [0xFFFFFFFF, 7]).queue 0).held = some (aCommand 2 true [0xFFFFFFFF, 7])
      ∧ ((holding false 2 [0xFFFFFFFF, 7]).queue 0).startable (aCommand 2 true [0xFFFFFFFF, 7]) = true
      ∧ headBad (aCommand 2 true [0xFFFFFFFF, 7]) = none ∧ cmdCen (aCommand 2 true [0]) = true
      ∧ field (aCommand 2 true []) 8 8 % 16 = 0 ∧ ((holding false 2 []).queue 0).priv = false ∧ ((holding true 2 []).queue 0).priv = true
      ∧ BitVec.ofNat 12 (field (aCommand 2 true []) 2 2) = ((holding false 2 []).queue 0).asid
      ∧ works (base.pronorWrite 0 0x80008 (leBytes 8 0) 8) = true
      ∧ base.threads.find? (fun t => t.lid == 0 && t.tix == 0) = some base.thr ∧ base.thr.hostirq = none ∧ base.thr.asid = 0
      ∧ field (aCommand 2 true [0, 7]) 32 4 = 0 ∧ field (aCommand 2 true [0, 7]) 40 8 = 7
      ∧ (∀ t, t ∈ base.threads → ¬ (t.lid = 5 ∧ t.tix = 0)) := by
  and_intros <;> decide +kernel
/-- Nothing is in the way of a completion record in this package's memory; the two starts that RESET can ask for. -/
theorem witness_Commands_complete :
    base.plat.queued = [] ∧ base.plat.poison = [] ∧ chainOf base.coh.dir (0x80000 / 64) = [] ∧ purging base.coh.dir (0x80000 / 64) = false
      ∧ (base.stack (stackOf 0x80000)).refresh = false ∧ (base.stack (stackOf 0x80000)).training = []
      ∧ field (aCommand 2 true []) 8 8 = 0x80000 ∧ (base.start false []).plat.started = true ∧ (base.start true []).plat.started = true
      ∧ (base.start true [(1, 1), (1, 1), (1, 1)]).plat.started = false := by decide +kernel
/-- Records, words and tables for the commands: a launch record, one that the queue may give, the page of VA 0x50000 (an
entry of level 2), a table that is missing, a page to move, and a request. -/
theorem witness_Commands_memory :
    (match ({ base with mem := Memory.setBytes base.mem 0x60000 (aRecord 0), host := { base.host with images := [anImage] } } : State).pronorRead 0 0x60000 256 32 with
      | .ok (bs, t) => t.badRec { bytes := bs } [0, 0] (some 7) == none
          && works (t.admitLaunch (launchAdmit 0 { Queue.blank 0 with qctl := 0xC000000000070008 } (aCommand 1 true [0x60000]) { bytes := bs } none))
          && (match t.template { Queue.blank 0 with qroot := 0x10000, qtvec := 0x40000, qsegs := 0x64000 } 0 with
            | .ok (some v, t') => !launchRefused { Queue.blank 0 with qroot := 0x10000, qtvec := 0x40000 } { bytes := bs } (some v)
                && works (t'.admitLaunch (launchAdmit 0 { Queue.blank 0 with qroot := 0x10000, qtvec := 0x40000 } (aCommand 1 true [0x60000]) { bytes := bs } (some v)))
            | _ => false)
      | .error _ => false) = true
      ∧ (match base.slotFrom 0x50000 2 false 4 0 0x10000 with
        | .at_ a e l => a == 0x30000 && pteV e && l == 2
            && works ((base.shootPage 0 l 0x50000).pronorWrite 0 a (leBytes 8 0xDF) 40) && works (base.pronorWrite 0 a (leBytes 8 0xDE) 40)
        | _ => false) = true
      ∧ (match base.slotFrom (2 ^ 48) 2 false 4 0 0x10000 with | .missing _ => true | _ => false) = true
      ∧ base.namesReserved 2 0x20000000 = false ∧ pteRep 0xDF = false ∧ base.touchesReserved 0x60000 64 = false
      ∧ (match base.pronorRead 0 0x60000 64 32 with | .ok (bs, t) => works (t.pronorWrite 0 0x70000 bs 40) | .error _ => false) = true
      ∧ (match (awaiting 0).waitevMet (aCommand 3 false [0x50000, 0]) with | .ok (b, _) => b | .error _ => false) = true
      ∧ (({ base with host := { base.host with launches := [aLaunch 1] } } : State).launchOf 1).isSome = true ∧ base.launchOf 1 = none
      ∧ works (base.pronorRead 0 0x60000 4 32) = true := by decide +kernel
theorem witness_Commands_query : base.queryRefused (Queue.blank 0) (aCommand 8 true [0]) = none
    ∧ base.queryRefused (Queue.blank 0) (aCommand 8 true [1 + 2 ^ 32]) = some 3 := by decide +kernel
/-- An image file of one section of code and one launch entry; the handle is one of those that are free. -/
def anIkx : List Byte :=
  leBytes 4 0x01584B49 ++ leBytes 2 64 ++ leBytes 2 0 ++ leBytes 4 1 ++ leBytes 4 0 ++ leBytes 4 0 ++ leBytes 4 1 ++ leBytes 8 64
    ++ leBytes 8 0 ++ leBytes 8 0 ++ leBytes 8 96 ++ leBytes 8 0
    ++ (leBytes 8 0 ++ leBytes 8 0x100000 ++ leBytes 8 112 ++ leBytes 8 4) ++ (leBytes 8 0x100000 ++ leBytes 8 0) ++ [0, 0, 0, 0]
theorem witness_Commands_loadimg :
    (∃ h, base.freshHandle = some h)
      ∧ (match ikxParse anIkx with | .ok x => works (base.placeSections 0 0x10000 0 x.secs) && x.entries == [(0x100000, 0)] | .error _ => false) = true
      ∧ (match ikxParse [] with | .ok _ => false | .error i => i == 0) = true := by
  refine ⟨?_, by decide +kernel⟩
  have h : base.freshHandle.isSome = true := by
    have h0 : base.host.images = [] := by decide +kernel
    simp only [State.freshHandle, h0, Option.isSome_map, List.find?_isSome, List.map_nil]
    exact ⟨0, by simp, by simp⟩
  exact Option.isSome_iff_exists.1 h
theorem witness_Commands_admission :
    (match ({ base with host := { base.host with images := [anImage] } } : State).admitLaunch
        (launchAdmit 0 { Queue.blank 0 with qctl := 0xC000000000070008 } (aCommand 1 true [0]) { bytes := aRecord 0 } none) with
      | .ok _ => true | .error _ => false) = true
      ∧ ({ base with host := { base.host with images := [anImage] } } : State).imageOf (LaunchRec.image { bytes := aRecord 0 }) = some anImage
      ∧ 0 < LaunchRec.nthr { bytes := aRecord 0 } := by decide +kernel
/-- The page of VA 0x20000000 is a leaf of level 3, to be moved to 0x40000. -/
def leaf3 : State :=
  { base with mem := Memory.setBytes (Memory.setBytes base.mem 0x30008 (leBytes 8 0x50001)) 0x50000 (leBytes 8 0x600DF) }
theorem witness_Commands_migrate :
    (match leaf3.slotFrom 0x20000000 3 true 4 0 0x10000 with
      | .at_ a e l => pteV e && !pteRep e && a == 0x50000 && l == 3 && !pteBad leaf3 l e && !leaf3.namesReserved l 0x70000
          && leaf3.host.moves.isEmpty && leaf3.shootReady (leaf3.pageShoot 0 l 0x20000000)
      | _ => false) = true := by decide +kernel
/-- A MIGRATE of that page under way. -/
def moving : State :=
  { leaf3 with host := { leaf3.host with moves := [{ queue := 0, cmd := aCommand 6 true [0x20000000, 0x10000, 0x70000]
                                                     leaf := { level := 3, addr := 0x50000, entry := 0x600DF, rep := none, root := 0x10000 } }] } }
theorem quiet_of (s : State) (h : s.plat.queued = [] ∧ s.asks = [] ∧ s.coh.dir = [] ∧ s.plat.poison = [] ∧ s.plat.soft = [] ∧ s.coh.llc = []
    ∧ s.plat.stk = Vector.replicate 16 Stack.serving) : Quiet s := by
  obtain ⟨h1, h2, h3, h4, h5, h6, h7⟩ := h
  refine ⟨h1, h2, h3, h4, h5, by simp [h6], fun a => ?_⟩
  have : s.stackAt a = Stack.serving := by
    rw [State.stackAt, h7, Vector.toList_replicate, List.getD_eq_getElem?_getD, List.getElem?_replicate]
    split <;> rfl
  exact this ▸ ⟨rfl, rfl⟩
theorem witness_Commands_migrate_end :
    (moving.host.moves.find? (fun m => m.queue == 0)).isSome = true ∧ (moving.queue 0).held = none
      ∧ ∃ bs u v w, moving.pronorRead 0 (pteBase 0x600DF) (2 ^ pageBits 3) 32 = .ok (bs, u) ∧ u.pronorWrite 0 0x70000 bs 48 = .ok v
        ∧ v.pronorWrite 0 0x50000 (leBytes 8 0x700DF) 40 = .ok w := by
  obtain ⟨bs, u, hu, hl, qu, _⟩ := (quiet_of moving (by decide +kernel)).pronorRead 0 (pteBase 0x600DF) (2 ^ pageBits 3) 32 (by decide +kernel)
  have hb : 2 ^ pageBits 3 = 65536 := by decide
  obtain ⟨v, hv, qv⟩ := qu.pronorWrite 0 0x70000 bs 48 (by omega)
  obtain ⟨w, hw, _⟩ := qv.pronorWrite 0 0x50000 (leBytes 8 0x700DF) 40 (by decide +kernel)
  exact ⟨by decide +kernel, by decide +kernel, bs, u, v, w, hu, hv, hw⟩
/-- Another leaf of that page: one that is not valid, one with replicas. -/
theorem witness_Commands_migrate_refused :
    (match State.slotFrom { leaf3 with mem := Memory.setBytes leaf3.mem 0x50000 (leBytes 8 0x600DE) } 0x20000000 3 true 4 0 0x10000 with
      | .at_ _ e _ => !pteV e | _ => false) = true
      ∧ (match State.slotFrom { leaf3 with mem := Memory.setBytes leaf3.mem 0x50000 (leBytes 8 (0x600DF + 2 ^ 10)) } 0x20000000 3 true 4 0 0x10000 with
        | .at_ _ e _ => pteV e && pteRep e | _ => false) = true
      ∧ leaf3.namesReserved 3 (2 ^ 40 - 2 ^ 30) = true := by decide +kernel

/-- Stack 3 trains channel 4, stack 5 is in self-refresh and stack 6 has been too hot. -/
def stacksBusy : State :=
  let z : Stack := Stack.serving
  { base with plat := { base.plat with
    stk := ((base.plat.stk.set 3 { z with training := [4], trained := [(4, 0)] }).set 5 { z with refresh := true }).set 6 { z with refresh := true, critical := true } } }
/-- The package without a thread. -/
def emptyPackage : State := State.reset
theorem witness_PlatformEvents :
    base.plat.started = true ∧ (stacksBusy.stack 0).refresh = false ∧ base.poisoned 0x50000 1 = false
      ∧ ({ base with plat := { base.plat with poison := [0x50000 / 32] } } : State).poisoned 0x50000 1 = true
      ∧ (base.stack (stackOf 0x50000)).refresh = false ∧ emptyPackage.busyRings = [] ∧ base.plat.power = true
      ∧ (emptyPackage.plat.dies.get ⟨31, by decide⟩).inService = true ∧ 4 ∈ (stacksBusy.stack 3).training
      ∧ (stacksBusy.stack 6).critical = true ∧ (stacksBusy.stack 5).refresh = true ∧ (stacksBusy.stack 5).critical = false
      ∧ (stacksBusy.stack 6).refresh = true ∧ (stacksBusy.stack 3).trained = [(4, 0)] ∧ bitsOf (2 ^ 51) 50 2 = 2
      ∧ ({ base with coh := { base.coh with siv := [sivLine (2 ^ 45)] } } : State).dirtyWord (2 ^ 51) = true := by decide +kernel
theorem witness_StartsAndSpdm :
    emptyPackage.firmwareReason = none ∧ emptyPackage.plat.power = true ∧ emptyPackage.plat.mgmt.fails = 0
      ∧ ({ emptyPackage with plat := { emptyPackage.plat with power := false } } : State).firmwareReason = none
      ∧ ({ emptyPackage with plat := { emptyPackage.plat with mgmt := { emptyPackage.plat.mgmt with recov := true } } } : State).plat.mgmt.recov = true
      ∧ emptyPackage.plat.started = true ∧ field [0x12#8, 0x84] 1 1 = 0x84 ∧ field [0x12#8, 0x85] 1 1 ∉ [0x84, 0xE1, 0xE3, 0x81, 0x82, 0x83, 0xE0]
      ∧ emptyPackage.plat.volts = 48 ∧ field [0x12#8, 0x82, 0] 2 1 % 16 = 0 ∧ field [0x12#8, 0x82, 1] 2 1 % 16 ≠ 0 := by decide +kernel
theorem witness_RoundTrip : encode (.srai 5 6 63) = some 0x18A6803F ∧ (Instr.srai 5 6 63).WellFormed := by decide +kernel
theorem witness_DecodeEncode : decode 0x18A6803F = .ok (.srai 5 6 63) := by decide +kernel
/-- The turn that withFetchWord prepares fetches its word, an instruction or none. -/
theorem witness_StepRunsDecoded :
    (∃ rest, base.agenda = .issue 0 0 :: rest)
      ∧ (let q := State.focus { base with agenda := [] } 0 0
        q.live = true ∧ q.dueTrap true = none ∧ q.dueTrap false = none ∧ q.interruptDue = false ∧ q.cpu.stopped = false
          ∧ q.cpu.frame = none ∧ q.cpu.park = none ∧ q.thr.leaving = false ∧ q.cpu.held = [] ∧ q.thr.fetchOld = FetchOld.empty ∧ 0x40000 % 64 ≤ 60 ∧ q.cpu.pc.toNat % 4 = 0
          ∧ segTarget (q.descriptor q.cpu.pc) q.smode .fetch q.cpu.pc 4 = some (.global 0x40000)
          ∧ (match q.fetchWord q.cpu.pc with | .ok (w, _) => w == 0 | .error _ => false) = true
          ∧ q.coh.icache = []
          ∧ (match q.translate q.ring q.thr.asid q.thr.pgroot q.smode (!q.isHead) .gather .fetch 0x40000 with
            | .ok (m, t) => m.pa == 0x40000 && works ((t.touch m.page 0x40000 false).homeRead (64 * (m.pa / 64)) 64)
            | .error _ => false) = true) :=
  ⟨⟨_, rfl⟩, by decide +kernel⟩
theorem witness_StepRunsDecoded_words :
    decode 0x04A63800 = .ok (.add 5 6 7) ∧ (match decode 0xFFFFFFFF with | .ok _ => false | .error _ => true) = true :=
  ⟨by decide +kernel, by decide +kernel⟩
theorem witness_NothingStops : ∀ ring chunk i rest, base.agenda = .event ring chunk i :: rest → isEvent i = true := by
  intro _ _ _ _ h
  rw [show base.agenda = [.issue base.ring 0] from rfl] at h
  exact absurd (List.cons.inj h).1 (by simp)
theorem witness_RegisterFrames :
    (.add 5 6 7 ∈ scalarForms 5 6 7 0 0 0 0 0) ∧ (.fmin 5 6 7 0 ∈ floatForms 5 6 7 8 0 0 0)
      ∧ (.vadd 2 3 1 2 0 0 0 ∈ vectorForms 3 1 2 0 2 0 0 0) ∧ (.kand 1 2 3 ∈ maskForms 1 2 3 0 0 0 0 0 0)
      ∧ (∃ t, exec (.add 5 6 7) base = .next t) ∧ (∃ t, exec (.fmin 5 6 7 0) base = .next t)
      ∧ (∃ t, exec (.vadd 2 3 1 2 0 0 0) (vec 4 1 2) = .next t) ∧ ∃ t, exec (.kand 1 2 3) base = .next t :=
  ⟨by simp [scalarForms], by simp [floatForms], by simp [vectorForms], by simp [maskForms], ⟨_, rfl⟩, ⟨_, rfl⟩, ⟨_, rfl⟩, ⟨_, rfl⟩⟩
theorem witness_MemoryInvariant : base.Sound ∧ ∃ t, step { base with agenda := [] } = .next t := ⟨base_sound, ⟨_, rfl⟩⟩

/-! ## Clauses of the statements at their corners -/

/-- The same head with stat := v and vstart := n. -/
def modal (v : Dword) (n : BitVec 10) (s : State) : State := { s with cpu := { s.cpu with stat := v, vstart := n } }
theorem clear_modal (u : Use) (vl : BitVec 10) (v w : VReg) (x : Dword) (n : BitVec 10) (h : statSchk x = false) :
    Clear u (modal x n (vec vl v w)) := by
  have c := clear_vec u vl v w
  exact ⟨c.ready, c.held, c.free, by simp [State.stallOf, modal, h], c.mask⟩
theorem witness_ScalarFloatArithmetic_reserved :
    6 ≤ (6#3).toNat ∧ 6 ≤ statFrm (modal 0x61 0 base).cpu.stat ∧ 6 ≤ statFrm (modal 0x71 0 base).cpu.stat
      ∧ Clear { reads := [.x 6, .x 7] ++ roundReads 6, writes := [.x 5] } base
      ∧ Clear { reads := [.x 6, .x 7] ++ roundReads 7, writes := [.x 5], flight := some .long } (modal 0x61 0 base)
      ∧ Clear { reads := [.x 6, .x 7, .x 8] ++ roundReads 7, writes := [.x 5] } (modal 0x71 0 base) := by
  and_intros <;> first | decide +kernel | exact clear_base _ | exact clear_held _ _ (by decide +kernel)
/-- 1.0 and 0.0 are numbers, as real numbers 1 and 0; -1.0 is below 0; a NaN and infinities are none. -/
theorem witness_ScalarFloatConvert_values :
    isNumber (fp64.decode 0x3FF0000000000000) = true ∧ realOf (fp64.decode 0x3FF0000000000000) = 1
      ∧ isNumber (fp32.decode 0) = true ∧ realOf (fp32.decode 0) = 0 ∧ realOf (fp32.decode 0xBF800000) = -1
      ∧ (fp16.decode 0x7E00).isNan = true ∧ bf16.decode 0x7F80 = .inf false ∧ e5m2.decode 0xFC = .inf true ∧ fp32.decode 0x80000000 = .zero true
      ∧ (5 : Nat) < 6 ∧ (254 : Nat) < 255 ∧ (6 ≤ (6#3).toNat) ∧ Clear { reads := [.x 6] ++ roundReads 6, writes := [.x 5] } base := by
  have one : fp64.decode 0x3FF0000000000000 = .fin false (2 ^ 52) (2 ^ 52) := by decide +kernel
  have zero : fp32.decode 0 = .zero false := by decide +kernel
  have neg : fp32.decode 0xBF800000 = .fin true (2 ^ 23) (2 ^ 23) := by decide +kernel
  refine ⟨by rw [one]; rfl, ?_, by rw [zero]; rfl, ?_, ?_, ?_⟩
  · rw [one]; norm_num [realOf, Val.num, Val.den]
  · rw [zero]; norm_num [realOf, Val.num, Val.den]
  · rw [neg]; norm_num [realOf, Val.num, Val.den]
  · and_intros <;> first | decide +kernel | exact clear_base _
/-- A block of zeros, and one whose greatest number, 1.0, lies from 2^0 to below 2^1. -/
theorem witness_ScalarFloatConvert_block :
    (∀ y, y ∈ [0, 0x7FC00000] → isNumber (fp32.decode y) = true → realOf (fp32.decode y) = 0)
      ∧ (∀ w, w ∈ [0x3F800000, 0] → isNumber (fp32.decode w) = true → |realOf (fp32.decode w)| ≤ |realOf (fp32.decode 0x3F800000)|)
      ∧ (2 : ℝ) ^ (0 : Int) ≤ |realOf (fp32.decode 0x3F800000)| ∧ |realOf (fp32.decode 0x3F800000)| < (2 : ℝ) ^ (0 + 1 : Int) := by
  have zero : fp32.decode 0 = .zero false := by decide +kernel
  have one : fp32.decode 0x3F800000 = .fin false (2 ^ 23) (2 ^ 23) := by decide +kernel
  have nan : isNumber (fp32.decode 0x7FC00000) = false := by decide +kernel
  have z : realOf (Val.zero false) = 0 := by norm_num [realOf, Val.num, Val.den]
  have o : realOf (Val.fin false (2 ^ 23) (2 ^ 23)) = 1 := by norm_num [realOf, Val.num, Val.den]
  refine ⟨?_, ?_, ?_, ?_⟩
  · intro y hy
    simp only [List.mem_cons, List.not_mem_nil, or_false] at hy
    rcases hy with rfl | rfl
    · intro _; rw [zero, z]
    · intro h; rw [nan] at h; exact absurd h (by decide)
  · intro y hy
    simp only [List.mem_cons, List.not_mem_nil, or_false] at hy
    rcases hy with rfl | rfl
    · intro _; exact le_refl _
    · intro _; rw [zero, one, z, o]; norm_num
  · rw [one, o]; norm_num
  · rw [one, o]; norm_num
/-- vfexp2 of 2.0, of a NaN, of infinities and of zero. -/
theorem witness_ScalarFloatConvert_exp2 :
    (estimateIn fp32 0x40000000).1.decode (estimateIn fp32 0x40000000).2 = .fin false (2 ^ 23) (2 ^ 22)
      ∧ realOf (.fin false (2 ^ 23) (2 ^ 22)) = ((2 : Int) : ℝ) ∧ fp32.emin - (fp32.fracBits : Int) ≤ 2 ∧ 2 ≤ fp32.emax
      ∧ ((estimateIn bf16 0x7FC0).1.decode (estimateIn bf16 0x7FC0).2).isNan = true
      ∧ (estimateIn fp64 0xFFF0000000000000).1.decode (estimateIn fp64 0xFFF0000000000000).2 = .inf true
      ∧ (estimateIn fp32 0x80000000).1.decode (estimateIn fp32 0x80000000).2 = .zero true := by
  and_intros <;> first | decide +kernel | norm_num [realOf, Val.num, Val.den]
/-- A stat.VRM of 6, and a vstart of 1. -/
theorem witness_Vector_stops :
    6 ≤ statVrm (modal 0x601 0 (vec 64 1 2)).cpu.stat ∧ statVrm (modal 1 1 (vec 64 1 2)).cpu.stat < 6 ∧ (modal 1 1 (vec 64 1 2)).cpu.vstart ≠ 0
      ∧ (∀ u, Clear u (modal 0x601 0 (vec 64 1 2))) ∧ (∀ u, Clear u (modal 1 1 (vec 64 1 2))) :=
  ⟨by decide +kernel, by decide +kernel, by decide +kernel, fun _ => clear_modal _ _ _ _ _ _ (by decide),
    fun _ => clear_modal _ _ _ _ _ _ (by decide)⟩
/-- The shared window outside a region and in an open one; no bank and no breach; a byte of it that is listed. -/
theorem witness_LocalStoreAccess_shared :
    segTarget (base.descriptor 0x2000000000020008) base.smode .store 0x2000000000020008 8 = some (.shared 0x20008)
      ∧ segTarget (base.descriptor 0x200000000003FFFF) base.smode .load 0x200000000003FFFF 1 = some (.shared 0x3FFFF)
      ∧ (looping base).openRegion.isSome = true ∧ (looping base).descriptor 0x2000000000020008 = base.descriptor 0x2000000000020008
      ∧ base.openRegion = none ∧ base.inSpill 0x17FF8 8 = false ∧ base.coh.breach.contains base.thr.asid = false
      ∧ (∀ k, k < 8 → Memory.get (base.lsWrite (.shared 0x20008) (leBytes 8 5)).thr.shared (0x20008 + k) = BitVec.ofNat 8 (5 / 2 ^ (8 * k))) := by
  decide +kernel
/-- A store writes no register, so that no create mask stops it. -/
theorem witness_LocalStoreAccess_region : Clear { reads := [.x 5, .x 6], flight := some .memory } (looping base) := by
  have c := clear_base { reads := [.x 5, .x 6], flight := some .memory }
  exact ⟨c.ready, c.held, c.free, by decide +kernel, by decide +kernel⟩
theorem witness_GlobalAccess_room :
    (match base.reach .gather .load 0x50000 with
      | .ok (m, t) => t.openRegion.isNone && !t.coh.clash.contains (m.pa / 2 ^ 16) && decide ((t.settledAt (m.pa / 64)).ringHolds t.ring = [])
      | .error _ => false) = true
      ∧ 0 < ringLines ∧ base.ownedByUnit 0x50000 (leBytes 8 7) = false := by
  decide +kernel
theorem witness_SpeculativeStore_alone :
    works (speculative.reach .gather .store 0x50000) = true ∧ speculative.ownedByUnit 0x50000 (leBytes 8 7) = false := by decide +kernel
/-- A load that faults, a store that faults. -/
theorem witness_AcquireRelease_faults :
    faults (base.load .gather 0xE000000000000000 8 8) = true ∧ faults (base.store .gather 0xE000000000000000 (leBytes 8 1) 8) = true
      ∧ (0xE000000000000004#64).toNat % 8 ≠ 0 ∧ faults (base.rmw 0xE000000000000000 8 (fun x => some x)) = true := by decide +kernel
/-- An atomic in LS, and one on a page of this package's memory, with nothing in the way. -/
theorem witness_Atomics_targets :
    works (base.rmw lsEa 8 (fun x => some (x + 1))) = true ∧ segTarget (base.descriptor lsEa) base.smode .rmw lsEa 8 = some (.priv 0)
      ∧ base.inSpill 0 8 = false ∧ segTarget (base.descriptor 0x50000) base.smode .rmw 0x50000 8 = some (.global 0x50000)
      ∧ reaches base .rmw .trk = true ∧ reaches (paged 1) .rmw .siv = true ∧ works ((paged 1).rmw 0x50000 8 (fun x => some (x + 1))) = true
      ∧ (match base.reach .gather .rmw 0x50000 with
        | .ok (m, t) => t.openRegion.isNone && !t.coh.clash.contains (m.pa / 2 ^ 16) && decide ((t.settledAt (m.pa / 64)).ringHolds t.ring = [])
        | .error _ => false) = true := by decide +kernel
theorem witness_CollectedUpdate_room :
    base.coh.clash.contains (0x50000 / 2 ^ 16) = false ∧ (base.ringHolds base.ring).length = 0 ∧ ringLines ≠ 0 := by
  decide +kernel

/-- The page under the last element of a vector access is missing: its elements below are at the end of 512 MiB. -/
theorem witness_VectorLoads_stops :
    faults ((vec 2 1 2).load .unit 0x20000000 8 8) = true
      ∧ ((List.range 2).filter (fun i => (vec 2 1 2).active 0 2 i)) = [0, 1] ∧ ((List.range 0).filter (fun i => (vec 0 1 2).active 0 0 i)) = []
      ∧ works ((vec 2 1 2).load .unit 0x50000 8 8) = true ∧ speculative.isHead = false := by decide +kernel
theorem witness_VectorStores_fault :
    ∃ t, ChecksAll .store 8 .unit (fun _ => .global 0x1FFFFFF8) (vec 2 1 2) [(0, 0x1FFFFFF8)] t
      ∧ faults (t.checkOne .store 8 .unit 0x20000000) = true
      ∧ ∃ u, RunsAll (fun s i x => s.store .unit x (leBytes 8 (velem 64 ((vec 2 1 2).rv 1) i)) 8) t [(0, 0x1FFFFFF8)] u := by
  have h : (match checksRun .store 8 .unit (fun _ => .global 0x1FFFFFF8) (vec 2 1 2) [(0, 0x1FFFFFF8)] with
      | some t => faults (t.checkOne .store 8 .unit 0x20000000)
        && (runsRun (fun s i x => s.store .unit x (leBytes 8 (velem 64 ((vec 2 1 2).rv 1) i)) 8) t [(0, 0x1FFFFFF8)]).isSome
      | none => false) = true := by decide +kernel
  split at h
  · rename_i t ht
    simp only [Bool.and_eq_true] at h
    exact ⟨t, checksAll_of _ _ _ _ _ _ _ ht, h.1, (Option.isSome_iff_exists.1 h.2).imp (fun u hu => runsAll_of _ _ _ _ hu)⟩
  · exact absurd h (by simp)
theorem witness_ScatterReduce_fault :
    (∃ t, RunsAll (fun s i p => s.scatterElem { ea := p, op := .add, n := 8, val := i, rnd := rne }) (vec 2 1 2) [(0, 0x50000)] t
      ∧ faults (t.scatterElem { ea := 0x20000000, op := .add, n := 8, val := 1, rnd := rne }) = true)
      ∧ statDet (modal 9 0 (vec 2 1 2)).cpu.stat = true ∧ 6 ≤ statVrm (modal 0x601 0 (vec 2 1 2)).cpu.stat
      ∧ (fixCvt 0 0x3F800000).1.isSome = true ∧ (fixCvt 0 0x7FC00000).1 = none := by
  refine ⟨?_, by decide +kernel⟩
  have h : (match runsRun (fun s i p => s.scatterElem { ea := p, op := .add, n := 8, val := i, rnd := rne }) (vec 2 1 2) [(0, 0x50000)] with
      | some t => faults (t.scatterElem { ea := 0x20000000, op := .add, n := 8, val := 1, rnd := rne })
      | none => false) = true := by decide +kernel
  split at h
  · rename_i t ht
    exact ⟨t, runsAll_of _ _ _ _ ht, h⟩
  · exact absurd h (by simp)

/-- A table whose second word, 1, leads to a misaligned address. -/
def jumping : State := { with_ 5 1 base with mem := Memory.setBytes base.mem 0x50000 (leBytes 4 1) }
theorem witness_ControlTransfer_table :
    (match jumping.load .gather 0x50000 4 4 with | .ok (bs, _) => (wrap64 (0x50000 + signed 32 (leNat bs))).toNat % 4 == 1 | .error _ => false) = true
      ∧ ¬ (jumping.rx 5).toNat ≤ (0#64).toNat ∧ (∃ g, (looping base).openRegion = some g ∧ g.kind = .loop) :=
  ⟨by decide +kernel, by decide +kernel, _, rfl, rfl⟩
/-- A fork whose end cannot be fetched; a head in an open cut region with no younger chunk, which may extend it, and one with. -/
theorem witness_Regions_more :
    faults (base.fetchWord 0x20000000) = true ∧ 0 < (1#13).toInt ∧ (0#13).toInt ≤ 0 ∧ ¬ (base.thr.cores = 1 ∧ 4 ≤ base.chunks.length + 0)
      ∧ (let s : State := { cutting 0x40020 with younger := [] }
        s.thr.region.map (fun g => g.kind) = some .cut ∧ s.younger = [] ∧ s.cpu.cut = none ∧ s.cpu.wrote = 0 ∧ s.thr.susp = false)
      ∧ (cutting 0x40020).younger ≠ [] ∧ (looping base).thr.region.map (fun g => g.kind) = some .loop := by decide +kernel
/-- Whether an access keeps waiting, without a place in a queue or with one. -/
def waits {α : Type} (r : Except Stop α) : Bool :=
  match r with
  | .error .wait => true
  | _ => false
def queues {α : Type} (r : Except Stop α) : Bool :=
  match r with
  | .error (.queue _) => true
  | _ => false
/-- Stack 0, which holds the page tables, trains its channels. -/
def training (s : State) : State :=
  { s with plat := { s.plat with stk := s.plat.stk.set 0 { Stack.serving with training := List.range 32 } } }
/-- A word that cannot be read, one in a page that a MIGRATE holds, and one behind a channel in training. -/
theorem witness_FenceAndWait_stops :
    faults (base.waitRead 0xE000000000000000 8) = true ∧ waits (moving.waitRead 0x20000000 8) = true
      ∧ queues ((training base).waitRead 0x50000 8) = true ∧ (0x50004#64).toNat % 8 ≠ 0 := by decide +kernel
theorem witness_Groups_settle :
    halfway.members ≠ [] ∧ (∀ q, q ∈ halfway.members → (q = (0, 0) ∨ q ∈ halfway.arrived))
      ∧ (∃ q, q ∈ halfway.members ∧ ∃ k, (q, k) ∈ halfway.limits ∧ k < 6) ∧ (∃ q, q ∈ halfway.members ∧ q ≠ (1, 0) ∧ q ∉ halfway.arrived) :=
  ⟨by decide, by decide, ⟨(1, 0), by decide, 5, by decide⟩, ⟨(0, 0), by decide⟩⟩

/-- A sender whose parking region has two entries, of which the first n are taken; package 5 is in its pod. -/
def parking (n : Nat) (s : State) : State :=
  { s with
    mem := Memory.setBytes (Memory.setBytes (Memory.setBytes s.mem 0x70000 (leBytes 2 2)) 0x70040 (leBytes 8 (min n 1))) 0x71080 (leBytes 8 (n / 2))
    thr := { s.thr with parkr := 0x8000000000070000 }
    host := { s.host with parked := s.host.parked ++ (List.range n).map (fun i => { lid := 0, tix := 0, entry := i, pkg := 9, ep := 1, mbox := 0, ch := 0 }) }
    plat := { s.plat with pod := [(5, 0)] } }
/-- The same with nothing of the second entry parked: its STATE word is no unit's doing. -/
def strayed : State := { parking 2 base with host := { base.host with parked := [] } }
theorem witness_Messages_stray :
    (match strayed.loadVa .gather (0x70000 + 64 + 4160) 8 with | .ok (b, t) => leNat b == 1 && t.host.parked.isEmpty | .error _ => false) = true := by
  decide +kernel
/-- Its bytes, a record for the endpoint 7 of package 5, and what parking it answers. -/
def aMessage : List Byte := [5, 0, 7, 4, 8, 0, 0, 0] ++ leBytes 8 0x100 ++ leBytes 8 5 ++ leBytes 8 0
def parks (s : State) : Option Bool :=
  match s.parkMessage (MsgRecord.ofBytes aMessage) aMessage [1, 2, 3, 4, 5, 6, 7, 8] with
  | .ok (o, _) => some o
  | .error _ => none
theorem witness_Messages_parking :
    parkEn base.thr.parkr = false ∧ parkEn (parking 0 base).thr.parkr = true
      ∧ (match (parking 1 base).loadVa .gather 0x70000 64 with
        | .ok (h, t) => field h 0 2 == 2 && (match t.freeEntry 0x70000 2 0 with
          | .ok (o, u) => o == some 1 && works (u.storePieces .gather (leBytes 8 1 ++ aMessage ++ List.replicate 24 0 ++ [1, 2])
              (pieces 67 (0x70000 + 64 + 4160) 66))
          | .error _ => false)
        | .error _ => false) = true
      ∧ (match (parking 2 base).freeEntry 0x70000 2 0 with | .ok (o, _) => o == none | .error _ => false) = true
      ∧ (match (parking 1 base).loadVa .gather (0x70000 + 64) 8 with | .ok (b, _) => leNat b == 1 | .error _ => false) = true
      ∧ (match (parking 0 base).loadVa .gather (0x70000 + 64) 8 with | .ok (b, _) => leNat b == 0 | .error _ => false) = true
      ∧ parks base = some false ∧ parks (parking 2 base) = some false ∧ parks (parking 1 base) = some true
      ∧ (5 : Nat) ≠ base.plat.pkid.toNat ∧ (5, 0) ∈ (parking 0 base).plat.pod ∧ (∀ p, p ∈ base.plat.pod → p.1 ≠ 5) := by decide +kernel
/-- A full mailbox with and without a free entry; a message parked ahead; a mailbox that cannot be read; mailbox 1, which has no slots. -/
theorem witness_Messages_rows :
    (match (parking 1 (mailing 4)).endpoint 7 with
      | some e => (match (parking 1 (mailing 4)).mailbox e 0 with
        | .ok (m, t) => m.waiting == m.cap && m.cap != 0 && parks t == some true
        | .error _ => false)
      | none => false) = true
      ∧ (match (mailing 4).endpoint 7 with
        | some e => (match (mailing 4).mailbox e 0 with | .ok (m, t) => m.waiting == m.cap && parks t == some false | .error _ => false)
        | none => false) = true
      ∧ (∃ p, p ∈ (parkedAt 0).host.parked ∧ p.lid = (parkedAt 0).thr.lid ∧ p.tix = (parkedAt 0).thr.tix ∧ p.pkg = 0 ∧ p.ep = 7 ∧ p.mbox = 0 ∧ p.ch = 0)
      ∧ (match (mailing 0).endpoint 7 with
        | some e => (match (mailing 0).mailbox e 1 with | .ok (m, _) => m.cap == 0 | .error _ => false)
          && (match (mailing 0).mailbox { e with base := 0x20000000 } 0 with | .error (.trap _ _, _) => true | _ => false)
        | none => false) = true
      ∧ lsWindow 0x18000 8 = none ∧ faults ((mailing 0).readRecord 0x50000 32 32) = true
      ∧ faults (base.lsDestination 0x50000 64) = true ∧ base.thr.mbase.getLsbD 63 = false
      ∧ faults (({ mailing 0 with thr := { (mailing 0).thr with mbase := BitVec.ofNat 64 (2 ^ 63 + 0x20000000 + 7) } } : State).ownMailbox 0) = true := by
  decide +kernel

/-- A record that joins group 4, which another address space has; a head with a faulted command, and one whose stores wait. -/
theorem witness_ThreadInstructions_stops :
    (let s : State := { spawning 0 with host := { (spawning 0).host with groups := grouped.host.groups } }
      let r : LaunchRec := { bytes := (aRecord 0).set 0x18 16 }
      s.badRec r [s.thr.asid] none = none ∧ (match s.admitLaunch (s.spawnAdmit r) with | .error (.fail _ _ _) => true | _ => false) = true)
      ∧ (oldestFault (commanding aBadCmd).thr.cmds (fun _ => true)).isSome = true ∧ (commanding (aCmd 0 2 0 true)).copyBusy = true
      ∧ oldestFault (commanding (aCmd 0 2 0 true)).thr.cmds (fun _ => true) = none ∧ interrupted.thr.unacked ≠ 0
      ∧ ({ looping base with cpu := (looping base).cpu } : State).thr.region.isSome = true ∧ (user base).smode = false := by decide +kernel
/-- A segment word that cannot be read, one whose second word cannot, and one that cannot be written. -/
theorem witness_SystemInstructions_faults :
    faults (base.load .gather 0xE000000000000000 8 16) = true
      ∧ (let s : State := { base with thr := { base.thr with sg := base.thr.sg.set 2 (BitVec.ofNat 64 (2 ^ 58 + 2 ^ 59 + 2 ^ 61 + 0x1FFFFFF8), 0x1000#64) } }
        match s.load .gather 0x4000000000000000 8 16 with
        | .ok (_, t) => faults (t.load .gather 0x4000000000000008 8 8)
        | .error _ => false) = true
      ∧ (match andThen (base.store .gather 0xE000000000000000 (leBytes 8 0) 16) (fun t => t.store .gather 0xE000000000000008 (leBytes 8 0) 8) with
        | .error (.trap _ _) => true
        | _ => false) = true := by decide +kernel

/-- A chunk that has consumed X[1], has made it itself, or neither, and to which its predecessor sends it again. -/
def resent (used made : List RegName) : State :=
  { twoChunks with
    younger := twoChunks.younger.map (fun c => { c with wait := [], used := used, made := made, inbox := [] }) }
theorem witness_ChunkSteps_again :
    (∀ u m, (resent u m).older = [] ∧ ((resent u m).focusChunk 1).cpu.used = u ∧ ((resent u m).focusChunk 1).cpu.made = m)
      ∧ (∃ p rest, ((resent [.x 1] []).focusChunk 1).older.reverse = p :: rest ∧ p.outbox = (.x 1, .scalar 7) :: [])
      ∧ .x 1 ∉ ((resent [.x 1] []).focusChunk 1).cpu.wait ∧ .x 1 ∈ ((resent [.x 1] []).focusChunk 1).cpu.used
      ∧ .x 1 ∉ ((resent [] [.x 1]).focusChunk 1).cpu.used ∧ .x 1 ∈ ((resent [] [.x 1]).focusChunk 1).cpu.made
      ∧ ((resent [] []).focusChunk 1).cpu.squashed = false ∧ ((resent [] []).focusChunk 1).cpu.pred = [] :=
  ⟨fun _ _ => ⟨rfl, rfl, rfl⟩, ⟨_, _, rfl, rfl⟩, by decide +kernel⟩
/-- A chunk that runs on a predicted X[1], of 7 as sent or of 8. -/
def guessing (x : Dword) : State :=
  { resent [] [] with younger := (resent [] []).younger.map (fun c => { c with pred := [(1, x)] }) }
theorem witness_ChunkSteps_predicted :
    ((guessing 7).focusChunk 1).cpu.pred.find? (fun q => q.1 == 1) = some (1, 7) ∧ .x 1 ∉ ((guessing 8).focusChunk 1).cpu.wait
      ∧ ((guessing 8).focusChunk 1).cpu.pred.find? (fun q => q.1 == 1) = some (1, 8) ∧ ((guessing 8).focusChunk 1).cpu.squashed = false
      ∧ (drained.focusChunk 1).squashSelf.thr.leaving = false ∧ (looping base).youngest.sent = [] := by decide +kernel
/-- A successor that has stored, loaded and reduced nothing, so that the head's commit is all there is. -/
theorem witness_ChunkSteps_commit :
    ∃ n, drained.younger = [n] ∧ n.stores = [] ∧ n.touches = [] ∧ n.upds = [] ∧ n.inbox = [] ∧ n.squashed = false ∧ drained.cpu.trap = none :=
  ⟨_, rfl, rfl, rfl, rfl, rfl, rfl, rfl⟩

/-- A purge that has invalidated every member, with a request behind it, and with one of its line's writes still queued. -/
theorem witness_CoherenceSteps_more :
    (chained.ringHolds 0).length < 262144 ∧ (purgingLine []).plat.queued = [] ∧ (aReq false).own = false ∧ (aReq true).own = true
      ∧ works (let q := (purgingLine []).mapLine 0x1400 (fun d => { d with purge := none, waiting := [] });
        State.trkTake { q with plat := { q.plat with serves := some (64 * 0x1400, 0) } } (aReq true).who (64 * 0x1400) ((aReq true).target 0x1400)) = true
      ∧ (∃ w, w ∈ ({ purgingLine [] with plat := { base.plat with queued := [{ pa := 64 * 0x1400, data := [1], mask := 1, op := none, asid := none, src := 0, since := 0 }] } } : State).plat.queued
        ∧ w.pa / 64 = 0x1400)
      ∧ moving.heldPage { level := 3, addr := 0x50000, entry := 0x600DF, rep := none, root := 0x10000 } = true ∧ chained.heldPage aLeaf = false := by
  decide +kernel
/-- A command whose source begins at another EA, and a gather whose index list does. -/
def sourced (src : Nat) : CopyCmd := { aCmd 0 4 0 true with record := leBytes 8 src ++ (aShape 0 4 0).drop 8 }
def indexed (list : Nat) : CopyCmd :=
  { aCmd 0 4 0 true with fn := 1, record := (aShape 0 4 0).take 32 ++ leBytes 8 list ++ leBytes 8 0 ++ leBytes 4 0 ++ leBytes 4 4 ++ (aShape 0 4 0).drop 56 }
/-- A group whose index cannot be read, one whose source cannot, and one that is read and not yet written. -/
theorem witness_CopyCommands_faults :
    (match (commanding (indexed 0x20000000)).copyRun (indexed 0x20000000) 0 4 with | .error (.trap _ _) => true | _ => false) = true
      ∧ (match (commanding (sourced 0x20000000)).copyRun (sourced 0x20000000) 0 4 with
        | .ok (xs, r) => faults (r.runValues (sourced 0x20000000) xs)
        | .error _ => false) = true := by decide +kernel
/-- A head's command behind one of a chunk that has committed: the head's goes first. -/
theorem witness_CopyCommands_order :
    (let old : CopyCmd := { aCmd 0 2 0 false with chunk := 9 }
      let s : State := { base with thr := { base.thr with cmds := [old, aCmd 0 2 0 false] } }
      s.thr.cmds = [old] ++ aCmd 0 2 0 false :: [] ∧ (aCmd 0 2 0 false).queued 0 = true ∧ old.queued 0 = true
        ∧ old.chunk ≠ s.headChunk.num ∧ (aCmd 0 2 0 false).chunk = s.headChunk.num) := by decide +kernel
/-- A full queue; a stream command alone on its barrier; a faulted command on the barrier of a cwait past its limit. -/
theorem witness_CopyCommands_queue :
    (∀ k, k < 16 → entryUsed ((List.range 16).map (fun k => { aCmd 0 2 0 false with entry := k })) 0 k = true)
      ∧ (∀ i, i < 0 → entryUsed base.thr.cmds 0 i = true) ∧ entryUsed base.thr.cmds 0 0 = false
      ∧ (aCmd 1 2 0 true).shape.dkind = 1 ∧ (commanding (aCmd 1 2 0 true)).thr.cmds = [] ++ aCmd 1 2 0 true :: []
      ∧ (aCmd 1 2 0 true).committed = true ∧ base.copyHeld 0 { bytes := aShape 0 2 0 } = false
      ∧ speculative.copyHeld 0 { bytes := (aShape 0 2 0) } = true
      ∧ (oldestFault ({ timedOut with thr := { timedOut.thr with cmds := [aBadCmd] } } : State).thr.cmds (fun x => x.barrier == 3)).isSome = true
      ∧ speculative.snapRange { indexed 0x20000000 with committed := false } = none := by decide +kernel

/-- A head whose core's bank a younger chunk holds; a bank with one command and with eight commands left. -/
theorem witness_EnlargerInstructions_squash :
    (let s : State := { base with younger := [{ Chunk.blank with bank := some aBank }] };
      s.bankHolder = some 0 ∧ s.cpu.bank = none ∧ s.isHead = true) := by
  decide +kernel
/-- A drain in FP32 and in INT32, under scales that are a number, a NaN and an infinity. -/
theorem witness_EnlargerTotals_drain :
    FmtCtx.dfmt { bytes := aFmt } = 0 ∧ FmtCtx.dfmt { bytes := aFmt.set 3 2 } = 2 ∧ isNumber (fp64.decode 0x3FF0000000000000) = true
      ∧ (fp64.decode 0x7FF8000000000000).isNan = true ∧ fp64.decode 0x7FF0000000000000 = .inf false ∧ fp64.decode 0 = .zero false
      ∧ (0 : Nat) < 6 ∧ ({ aBank with lease := some (8, 4096) } : Bank).lease = some (7 + 1, 4096) := by
  decide +kernel

/-- A Loupe command of the chunk that has faulted; a prediction whose lists overflow. -/
theorem witness_Loupe_fault :
    (let s : State := { louped [] none with thr := { base.thr with cmds := [{ aCmd 3 2 0 false with fault := some { cause := causeSegv, info := 0, index := 0 } }] } };
      (s.thr.cmds.find? (fun m => m.chunk == s.cpu.num && m.shape.dkind == 3 && m.fault.isSome)).isSome = true)
      ∧ (128#64).toNat ≤ 128 ∧ (129#64).toNat > 128 ∧ LoupeCfg.yfmt { bytes := aLoupe } = 0 ∧ (with_ 6 7 base).rx 6 = 7 := by decide +kernel

/-- A completion with nothing waiting at the controllers. -/
theorem witness_Commands_quiet : base.asks = [] ∧ base.plat.soft = [] := by decide +kernel
/-- Stack 7 has been in self-refresh for all of TSR_MAX, stack 8 has just left, and stack 9 has done so for longer. -/
def refreshing : State :=
  let z : Stack := { Stack.serving with refresh := true }
  { base with cyc := 100000000, plat := { base.plat with stk := ((base.plat.stk.set 7 { z with expired := true }).set 8 { z with cool := 0, since := 99999999 }).set 9 { z with cool := 100000000 } } }
theorem witness_PlatformEvents_refresh :
    (refreshing.stack 7).expired = true ∧ (refreshing.stack 7).critical = false ∧ (refreshing.stack 8).critical = false
      ∧ ¬ ((refreshing.stack 8).since + (940 * max 1000 refreshing.plat.mgmt.tsrmax.toNat - (refreshing.stack 8).spent)
        < max refreshing.cyc ((refreshing.stack 8).cool + 940 * 1000))
      ∧ ((refreshing.stack 9).since + (940 * max 1000 refreshing.plat.mgmt.tsrmax.toNat - (refreshing.stack 9).spent)
        < max refreshing.cyc ((refreshing.stack 9).cool + 940 * 1000))
      ∧ refreshing.plat.queued = [] ∧ refreshing.plat.due = [] ∧ refreshing.waitingFor 9 = [] ∧ base.key 0x50000 = some 0x50000 := by
  decide +kernel
/-- The algorithms asked for at bytes 8 and 12, and an answer to be narrowed. -/
theorem witness_StartsAndSpdm_offer : field ([0x12, 0xE3] ++ List.replicate 18 (0xFF : Byte)) 1 1 = 0xE3
    ∧ (field ([0x12, 0xE3] ++ List.replicate 18 (0xFF : Byte)) 8 4).testBit 4 = true := by decide +kernel
/-- The fetch of a head that no MIGRATE or breach touches goes through a leaf of its own ROOT. -/
theorem witness_StepRunsDecoded_page :
    (let q := State.focus { base with agenda := [] } 0 0;
      q.present = q ∧ q.thr.leaving = false
      ∧ (match q.translate q.ring q.thr.asid q.thr.pgroot q.smode (!q.isHead) .gather .fetch 0x40000 with
        | .ok (m, t) => m.page.root == q.thr.pgroot && !t.coh.breach.contains q.thr.asid
        | .error _ => false) = true) := by
  and_intros <;> rfl
/-- A head under SCHK with a result of X[6] still to come, due turn 9 and written at cycle 20. -/
def pending : State :=
  { modal 5 0 base with cpu := { (modal 5 0 base).cpu with pend := [{ reg := .x 6, old := .scalar 0, due := 9, written := 20, pc := 0x3FFF8 }] } }
theorem witness_RegisterFrames_stall :
    pending.stallOf (useAB 5 6 7) = some { reg := .x 6, old := .scalar 0, due := 9, written := 20, pc := 0x3FFF8 } ∧ pending.notReady none = false
      ∧ pending.mustWait (useAB 5 6 7) = false ∧ pending.cpu.stat.getLsbD 2 = true ∧ pending.cpu.turn < 9 ∧ pending.cyc < 20
      ∧ (pendOf { writes := [.x 5], lat := 3 } base).length = 1 := by decide +kernel
/-- A loop region's create mask without X[5] and V[3], for any chunk but the final one; a cut region's, and none. -/
theorem witness_RegisterFrames_mask :
    (looping base).governing = some 6 ∧ (6#64).getLsbD 5 = false ∧ (6#64).getLsbD 35 = false ∧ (looping base).notReady none = false
      ∧ (looping base).mustWait (useAB 5 6 7) = false ∧ (looping base).stallOf (useAB 5 6 7) = none
      ∧ (looping base).mustWait { writes := allVectors } = false ∧ base.thr.region = none
      ∧ (cutting 0x40020).thr.region.map (fun g => g.kind) = some .cut ∧ (cutting 0x40020).governing = none
      ∧ ({ looping base with thr := { (looping base).thr with susp := true } } : State).thr.susp = true := by decide +kernel

/-! ## Witnesses of single clauses -/

/-- 1.0 is below 2.0, -inf below every number and +inf above, no number is below itself; zeros, a quiet and a signaling NaN, a
subnormal and a normal number. -/
theorem witness_ScalarFloatCompare_values :
    (isNumber (fp32.decode 0x3F800000) = true ∧ isNumber (fp32.decode 0x40000000) = true
        ∧ realOf (fp32.decode 0x3F800000) < realOf (fp32.decode 0x40000000) ∧ ¬ realOf (fp32.decode 0x3F800000) < realOf (fp32.decode 0x3F800000))
      ∧ fp32.decode 0xFF800000 = .inf true ∧ fp32.decode 0x3F800000 ≠ .inf true ∧ fp32.decode 0x7F800000 = .inf false
      ∧ fp32.decode 0x3F800000 ≠ .inf false ∧ (∀ m, fp32.decode 0x3F800000 ≠ .zero m) ∧ fp32.decode 0x80000000 = .zero true ∧ fp32.decode 0 = .zero false
      ∧ fp32.decode 0x7FC00000 = .nan false ∧ fp32.decode 0x7F800001 = .nan true
      ∧ (realOf (fp32.decode 1) ≠ 0 ∧ |realOf (fp32.decode 1)| < (2 : ℝ) ^ fp32.emin)
      ∧ (2 : ℝ) ^ fp32.emin ≤ |realOf (fp32.decode 0x3F800000)| ∧ (0x7FC00000 : Nat) < 2 ^ fp32.width := by
  have one : fp32.decode 0x3F800000 = .fin false (2 ^ 23) (2 ^ 23) := by decide +kernel
  have two : fp32.decode 0x40000000 = .fin false (2 ^ 23) (2 ^ 22) := by decide +kernel
  have tiny : fp32.decode 1 = .fin false 1 (2 ^ 149) := by decide +kernel
  have low : fp32.emin = -126 := by decide +kernel
  have a : realOf (.fin false (2 ^ 23) (2 ^ 23)) = 1 := by norm_num [realOf, Val.num, Val.den]
  have b : realOf (.fin false (2 ^ 23) (2 ^ 22)) = 2 := by norm_num [realOf, Val.num, Val.den]
  have c : realOf (.fin false 1 (2 ^ 149)) = 1 / 2 ^ 149 := by norm_num [realOf, Val.num, Val.den]
  refine ⟨⟨by rw [one]; rfl, by rw [two]; rfl, by rw [one, two, a, b]; norm_num, lt_irrefl _⟩, by decide +kernel, by decide +kernel,
    by decide +kernel, by decide +kernel, by decide +kernel, by decide +kernel, by decide +kernel, by decide +kernel, by decide +kernel,
    ⟨by rw [tiny, c]; norm_num, by rw [tiny, c, low]; norm_num [abs_of_pos]⟩, by rw [one, a, low]; norm_num, by decide⟩
/-- The special operands of the sums, products and fused forms: an infinity beside a number that is not 0, two infinities, an infinity
times 0 with a NaN addend, and a product of numbers beside a NaN and an infinity. -/
theorem witness_ScalarFloatConvert_special :
    fp32.decode 0x7F800000 = .inf false ∧ fp32.decode 0xFF800000 = .inf true
      ∧ (isNumber (fp32.decode 0xBF800000) = true ∧ realOf (fp32.decode 0xBF800000) ≠ 0)
      ∧ fp32.decode 0 = .zero false ∧ (fp32.decode 0x7F800001).isNan = true ∧ (fp32.decode 0x3F800000).isNan = false
      ∧ (∀ n, fp32.decode 0x3F800000 ≠ .zero n) ∧ fp32 ∈ [fp64, fp32, fp16, bf16] := by
  have neg : fp32.decode 0xBF800000 = .fin true (2 ^ 23) (2 ^ 23) := by decide +kernel
  refine ⟨by decide +kernel, by decide +kernel, ⟨by rw [neg]; rfl, ?_⟩, ?_⟩
  · rw [neg]; norm_num [realOf, Val.num, Val.den]
  · and_intros <;> decide +kernel
/-- 2.0 is an ordinary operand of vfrcp and vfrsq in its working format. -/
theorem witness_VectorFloatOther_estimates :
    isNumber ((estimateIn fp32 0x40000000).1.decode (estimateIn fp32 0x40000000).2) = true
      ∧ realOf ((estimateIn fp32 0x40000000).1.decode (estimateIn fp32 0x40000000).2) ≠ 0
      ∧ 0 < realOf ((estimateIn fp32 0x40000000).1.decode (estimateIn fp32 0x40000000).2) := by
  have two : (estimateIn fp32 0x40000000).1.decode (estimateIn fp32 0x40000000).2 = .fin false (2 ^ 23) (2 ^ 22) := by decide +kernel
  rw [two]
  refine ⟨rfl, ?_, ?_⟩ <;> norm_num [realOf, Val.num, Val.den]
/-- Bytes whose minima and maxima differ as signed and unsigned, and FP32 values past, at and inside the range of an LS counter. -/
theorem witness_ScatterReduce_words :
    (1 : Nat) ∈ [1, 2, 4, 8] ∧ 0x80 < 2 ^ (8 * 1) ∧ rmwInt .min 1 0x80 1 = 0x80 ∧ rmwInt .max 1 0x80 1 = 1 ∧ rmwInt .add 1 0x80 0x81 = 1
      ∧ fixCvt 0 0x5F000000 = (some (2 ^ 63 - 1), flagXO) ∧ fixCvt 0 0xDF000000 = (some (2 ^ 63), 0) ∧ fixCvt (-1) 0xC0000000 = (some (2 ^ 64 - 1), 0)
      ∧ fixCvt 0 0xDF000001 = (some (2 ^ 63), flagXO) ∧ (fixCvt 0 0x7F800000).1 = none := by decide +kernel
/-- A collected update: its size, its alignment and its value. -/
theorem witness_CollectedUpdate_operands :
    RmwOp.min ∈ [RmwOp.add, .min, .max, .or] ∧ (8 : Nat) ∈ [1, 2, 4, 8] ∧ 0x50000 % 8 = 0 ∧ 3 < 2 ^ (8 * 8)
      ∧ (∀ op, op ∈ [RmwOp.min, .max, .or] → (match base.reach .gather .store 0x50000 with
        | .ok (m, _) => (match base.scatterAt base.who 0x50000 m op 8 3 with | .ok t => works (t.homeRead 0x50000 8) | .error _ => false)
        | .error _ => false) = true) := by decide +kernel
/-- A cut region's chunk that was squashed after its fcut at 0x40024 and executes again, as the head or behind it. -/
def recutting (head : Bool) (wrote : BitVec 64) : State :=
  { cutting 0x40024 with
    thr := { (cutting 0x40024).thr with region := some { kind := .cut, first := 0x40004, last := 0x40024, mask := 2, grain := 1, home := 0, wrote := [], read := [] } }
    cpu := { (cutting 0x40024).cpu with cut := some (0x40024, 2), recut := true, mask := 2, wrote := wrote }
    older := if head then [] else [Chunk.blank] }
theorem witness_Regions_recut :
    Clear { reads := [.x 5] } (recutting true 0) ∧ Clear { reads := [.x 5] } (recutting false 0) ∧ Clear { reads := [.x 5] } (recutting false 4)
      ∧ wrap64 ((recutting true 0).cpu.pc.toNat + (9#21).toInt * 4) = 0x40024 ∧ 0 < (9#21).toInt ∧ (recutting true 0).thr.susp = false
      ∧ ((recutting true 0).cpu.mask ||| (recutting true 0).rx 5) &&& ~~~(1#64) = 2 ∧ (recutting true 0).cpu.cut = some (0x40024, 2)
      ∧ (recutting true 0).cpu.cut ≠ some (0x40028, 2) ∧ (recutting true 0).isHead = true ∧ (recutting false 0).isHead = false
      ∧ ((recutting false 0).thr.region.map (fun g => g.kind)) = some .cut
      ∧ (recutting false 0).cpu.wrote &&& ~~~2#64 = 0#64 ∧ (recutting false 4).cpu.wrote &&& ~~~2#64 ≠ 0#64
      ∧ (recutting true 0).cpu.bank.isSome = false ∧ (recutting true 0).cpu.loupe.isSome = false := by
  refine ⟨?_, ?_, ?_, by decide +kernel⟩ <;>
    exact ⟨by decide +kernel, fun h => absurd h (by decide), by decide +kernel, by decide +kernel, by decide +kernel⟩
/-- A thread that may join group 3, whose member set is empty or whose owner is its own address space; groups with different ids. -/
def joining (members : List (Nat × Nat)) : State :=
  { base with host := { base.host with groups := [{ id := 3, asid := 0, members := members, arrived := [], limits := [], release := [] },
      { id := 4, asid := 9, members := [(8, 0)], arrived := [], limits := [], release := [] }] } }
theorem witness_Groups_join :
    (∀ ms, ms ∈ [[], [(1, 0)]] → ∃ x, (joining ms).host.groups.find? (fun g => g.id == 3) = some x ∧ (0, 0) ∉ x.members
      ∧ (x.members = [] ∨ x.asid = (joining ms).thr.asid) ∧ ((joining ms).host.groups.map (fun y => y.id)).Nodup)
      ∧ (grouped.host.groups.map (fun y => y.id)).Nodup
      ∧ (∀ ms, ms ∈ [[], [(1, 0)]] → Clear { held := true, reads := [.x 6], writes := [.x 5] } (joining ms)) := by
  refine ⟨?_, by decide, ?_⟩ <;> intro ms h <;> simp only [List.mem_cons, List.not_mem_nil, or_false] at h <;> rcases h with rfl | rfl
  · exact ⟨_, rfl, by decide, .inl rfl, by decide⟩
  · exact ⟨_, rfl, by decide, .inr rfl, by decide⟩
  · exact clear_of _ _ (by decide +kernel) (fun _ => rfl)
  · exact clear_of _ _ (by decide +kernel) (fun _ => rfl)
/-- A set that completes when its last member leaves it, with its limit in time; the same limit passed; and a set that has not arrived. -/
def leaving : Group := { halfway with members := [(1, 0)] }
theorem witness_Groups_leave :
    (leaving.members ≠ [] ∧ ∀ q, q ∈ leaving.members → q ∈ leaving.arrived ∧ ¬ ∃ k, (q, k) ∈ leaving.limits ∧ k < 5)
      ∧ (∃ q, q ∈ leaving.members ∧ ∃ k, (q, k) ∈ leaving.limits ∧ k < 6) ∧ (0, 0) ∈ halfway.members
      ∧ (groupLeave 5 [halfway] 3 (0, 0)).map (fun g => (g.members, g.arrived, g.release)) = [([(1, 0)], [], [(1, 0)])]
      ∧ (groupLeave 6 [halfway] 3 (0, 0)).map (fun g => (g.members, g.arrived, g.release)) = [([(1, 0)], [], [])] := by
  refine ⟨⟨by decide, ?_⟩, ⟨(1, 0), by decide, 5, by decide⟩, by decide, by decide +kernel, by decide +kernel⟩
  intro q hq
  simp only [leaving, List.mem_cons, List.not_mem_nil, or_false] at hq
  subst hq
  refine ⟨by decide, ?_⟩
  rintro ⟨k, hk, lt⟩
  simp only [leaving, halfway, List.mem_cons, List.not_mem_nil, or_false, Prod.mk.injEq, true_and] at hk
  omega
/-- A yield that cannot give the ring back yet: a copy command's request waits in a queue (R405), or every save block is taken (R368). -/
def yielding (cmds : List CopyCmd) (n : Nat) : State :=
  { contended with
    thr := { contended.thr with cmds := cmds }
    saved := contended.saved ++ List.replicate n { thr := { base.thr with st := .halted, lid := 1, tix := 2 }, head := base.cpu, block := some 0 } }
theorem witness_ThreadInstructions_later :
    (∀ s, s ∈ [yielding [{ aCmd 0 2 0 true with asked := some (0, 0) }] 0, yielding [] 40960] →
      Clear { held := true, writes := [.x 5] } s ∧ s.squashYounger.saved.any (fun v => v.thr.st == .ready && s.squashYounger.quotaOk v.thr.lid
        && s.squashYounger.permits v.thr s.squashYounger.ring && decide (s.squashYounger.prioOf s.squashYounger.thr.lid ≤ s.squashYounger.prioOf v.thr.lid)) = true
        ∧ (((s.squashYounger.wx 5 1).advance.noteWrites [.x 5]).settle s.cpu.pc).cpu.ended = false)
      ∧ (let s := yielding [{ aCmd 0 2 0 true with asked := some (0, 0) }] 0
        (((s.squashYounger.wx 5 1).advance.noteWrites [.x 5]).settle s.cpu.pc).canSave) = false
      ∧ (let s := yielding [] 40960
        let e := ((s.squashYounger.wx 5 1).advance.noteWrites [.x 5]).settle s.cpu.pc
        e.canSave = true ∧ e.saveThread .ready = .error .wait) := by
  refine ⟨?_, by decide +kernel, by decide +kernel, ?_⟩
  · intro s h
    simp only [List.mem_cons, List.not_mem_nil, or_false] at h
    rcases h with rfl | rfl <;> exact ⟨clear_held _ _ (by decide +kernel), by decide +kernel, by decide +kernel⟩
  · have full (t : State) (h : t.saved = (yielding [] 40960).saved) : t.saveThread .ready = .error .wait := by
      have n : saveBlocks ≤ (t.saved.filterMap (fun v => v.block)).length := by
        have m (l : List Saved) (n : Nat) (v : Saved) (b : v.block = some 0) :
            n ≤ ((l ++ List.replicate n v).filterMap (fun v => v.block)).length := by
          simp [List.filterMap_append, b]
        rw [h]
        exact m _ _ _ rfl
      simp only [State.saveThread, State.freeBlock, if_pos n]
    exact full _ rfl
/-- A fault in a head with a cut region's younger chunk, whose own end is set, set again after a squash, or none. -/
theorem witness_TrapsAndReturns_cut :
    (∀ s, s ∈ [cutting 0x40020, recutting true 0, { recutting true 0 with cpu := { (recutting true 0).cpu with recut := false } }] →
      s.isHead = true ∧ s.younger ≠ [] ∧ ∃ g, s.thr.region = some g ∧ g.kind = .cut)
      ∧ (cutting 0x40020).cpu.cut = none ∧ (recutting true 0).cpu.recut = true ∧ (recutting true 0).cpu.cut.isSome = true := by
  refine ⟨?_, by decide +kernel⟩
  intro s h
  simp only [List.mem_cons, List.not_mem_nil, or_false] at h
  rcases h with rfl | rfl | rfl <;> exact ⟨by decide +kernel, by decide +kernel, _, rfl, rfl⟩
/-- An interrupt waits for an access that waits at a home and for a yield's pre-emption, and for nothing when only the fetch waits. -/
def holding_ (fetching leaving : Bool) : State :=
  { interrupted with
    cpu := { interrupted.cpu with held := [(5, aLeaf)], fetching := fetching }
    thr := { interrupted.thr with leaving := leaving } }
theorem witness_RegisterWritesAndInterrupts_boundary :
    interrupted.cpu.held = [] ∧ interrupted.cpu.squashed = false ∧ interrupted.thr.leaving = false ∧ (holding_ true false).cpu.fetching = true
      ∧ (holding_ false false).cpu.park = none ∧ (holding_ false false).cpu.held ≠ [] ∧ (holding_ false false).cpu.fetching = false
      ∧ (holding_ true true).thr.leaving = true := by decide +kernel
/-- Operations on items that follow one another. -/
def eachRun {α : Type} (f : State → α → Except Stop State) (s : State) : List α → Option State
  | [] => some s
  | a :: r =>
    match f s a with
    | .ok t => eachRun f t r
    | .error _ => none

theorem runsEach_of {α : Type} (f : State → α → Except Stop State) (l : List α) :
    ∀ s t, eachRun f s l = some t → RunsEach f s l t := by
  induction l with
  | nil => intro s t h; exact (Option.some.inj h).symm
  | cons a r ih =>
    intro s t h
    unfold eachRun at h
    split at h
    · rename_i u hl
      exact ⟨u, hl, ih u t h⟩
    · exact absurd h (by simp)

/-- A successor of the head that has these pages, stores and update records to commit, and the state in which they are. -/
def committing (touches : List Touch) (stores : List SpecStore) (upds : List Update) : Chunk :=
  { Chunk.blank with num := 1, core := 1, pc := 0x40000, start := 0x40000, stat := 1, touches := touches, stores := stores, upds := upds }
def taking (n : Chunk) : State :=
  (({ drained with younger := [n] } : State).present.commitLoupe.promote n []).unaliased [] n.loads
def aStore (coh : Coh) : SpecStore := { va := 0x50000, dest := { pa := 0x50000, coh := coh, page := aLeaf }, data := leBytes 8 5 }
def anUpdate : Update :=
  { va := 0x50008, dest := { pa := 0x50008, coh := .trk, page := aLeaf }, op := .add, bytes := 8, val := 3, mode := 0, key := 0, seed := 0 }
theorem witness_ChunkSteps_each :
    (∃ q1 q2 q3, RunsEach State.settleTouch (taking (committing [{ page := aLeaf, vpn := 5, writes := true }] [aStore .trk] [anUpdate]))
        [{ page := aLeaf, vpn := 5, writes := true }] q1 ∧ RunsEach State.commitSpec q1 [aStore .trk] q2 ∧ RunsEach State.applyUpdate q2 [anUpdate] q3)
      ∧ (committing [] [] []).inbox = [] ∧ (committing [] [] []).squashed = false := by
  refine ⟨?_, rfl, rfl⟩
  have h : ((eachRun State.settleTouch (taking (committing [{ page := aLeaf, vpn := 5, writes := true }] [aStore .trk] [anUpdate]))
      [{ page := aLeaf, vpn := 5, writes := true }]).bind (fun q => (eachRun State.commitSpec q [aStore .trk]).bind (fun q =>
        eachRun State.applyUpdate q [anUpdate]))).isSome = true := by decide +kernel
  obtain ⟨q3, h⟩ := Option.isSome_iff_exists.1 h
  obtain ⟨q1, h1, h⟩ := Option.bind_eq_some_iff.1 h
  obtain ⟨q2, h2, h3⟩ := Option.bind_eq_some_iff.1 h
  exact ⟨q1, q2, q3, runsEach_of _ _ _ _ h1, runsEach_of _ _ _ _ h2, runsEach_of _ _ _ _ h3⟩
/-- One store of 8 bytes of a TRK page and of an NC page, and one update record. -/
theorem witness_ChunkSteps_one :
    (∀ c, c ∈ [Coh.trk, Coh.nc] →
      let p := taking (committing [] [aStore c] [])
      let q := p.settledAt (0x50000 / 64)
      p.Sound ∧ p.place 0x50000 = .hbm 0x50000 ∧ 0 < (leBytes 8 5).length ∧ 0x50000 % 64 + (leBytes 8 5).length ≤ 64 ∧ purging p.coh.dir (0x50000 / 64) = false
        ∧ q.deviceStop 0x50000 = none ∧ (q.ringHolds p.ring).length < ringLines
        ∧ q.poisoned (64 * (0x50000 / 64)) 64 = false ∧ q.partialPoison 0x50000 (leBytes 8 5).length = false)
      ∧ anUpdate.op ≠ .fadd
      ∧ works ((taking (committing [] [] [anUpdate])).scatterAt (taking (committing [] [] [anUpdate])).who anUpdate.va anUpdate.dest anUpdate.op
        anUpdate.bytes anUpdate.val) = true := by
  refine ⟨?_, by decide, by decide +kernel⟩
  intro c h
  simp only [List.mem_cons, List.not_mem_nil, or_false] at h
  rcases h with rfl | rfl <;> exact ⟨sound_of _ (by decide +kernel) (by decide +kernel), by decide +kernel⟩
/-- A shootdown that an access of the die waits behind; a purge of a line whose write by a ring is queued; acknowledgements that wait for
the queue, and that arrive. -/
def queuedRing : State :=
  { purgingLine [] with plat := { base.plat with queued := [{ pa := 64 * 0x1400, data := [1], mask := 1, op := none, asid := none, src := 0, since := 9 }] } }
theorem witness_CoherenceSteps_waits :
    ({ chained with cpu := { chained.cpu with held := [(5, aLeaf)] } } : State).shootWaits
        { client := 0, id := 0, asid := 0, all := true, vpn := 0, wide := false, left := [0, 1] } 0 = true
      ∧ chained.shootWaits { client := 0, id := 0, asid := 0, all := true, vpn := 0, wide := false, left := [0, 1] } 0 = false
      ∧ (∃ w, w ∈ queuedRing.plat.queued ∧ w.pa / 64 = 0x1400 ∧ w.ofRing = true) ∧ (purgeOf queuedRing.coh.dir 0x1400).isSome = true
      ∧ (let s : State := { interrupted with plat := queuedRing.plat }
        s.thr.unacked ≤ s.plat.queued.countP (fun w => w.ofRing && w.src % 256 == s.ring))
      ∧ interrupted.plat.queued.countP (fun w => w.ofRing && w.src % 256 == interrupted.ring) < interrupted.thr.unacked := by
  decide +kernel
/-- The group of a command at an element: how many elements it has, if it is read and written. -/
def groupAt (m : CopyCmd) (e limit : Nat) : Option Nat :=
  match (commanding m).copyRun m e limit with
  | .error _ => none
  | .ok (xs, r) => match r.runValues m xs with
    | .error _ => none
    | .ok (vs, t) =>
      match t.putRun m (((xs.filter (fun x => !x.skip)).zip vs).filterMap (fun x => x.1.dst.map (fun a => (a, x.2)))) with
      | .ok _ => some xs.length
      | .error _ => none
/-- Groups of one element each: the last of a command, with a completion word and without; the second, ahead of the first; the first before
one that has been performed, next to it and not; and a command that is resumed after groups out of order. -/
theorem witness_CopyCommands_groups :
    groupAt (aCmd 0 1 0 true) 0 1 = some 1 ∧ groupAt (aCmd 0 1 0x70000 true) 0 1 = some 1 ∧ groupAt (aCmd 0 4 0 true) (0 + 1) 4 = some 1
      ∧ (∀ e, e ∈ [1, 2] → groupAt { aCmd 0 4 0 true with ahead := [(e, 1)] } 0 e = some 1 ∧ 0 < e ∧ e + 1 < (aCmd 0 4 0 true).shape.total)
      ∧ (∀ m, m ∈ [aCmd 0 1 0 true, aCmd 0 1 0x70000 true] → (∀ y, y ∈ (commanding m).thr.cmds → (commanding m).consumedAll y = false)
        ∧ m.rel = false ∧ 0 + 1 = m.shape.total ∧ m.ahead = [] ∧ m.counted = [] ∧ m.once = [] ∧ m.asked = none)
      ∧ (aCmd 0 1 0 true).shape.cen = false ∧ (aCmd 0 1 0x70000 true).shape.cen = true
      ∧ (commanding { aCmd 0 4 0 true with ahead := [(1, 1)] }).older = [] ∧ (commanding { aCmd 0 4 0 true with ahead := [(1, 1)] }).younger = [] := by
  decide +kernel
/-- A faulted command that is resumed: nothing was performed past the fault; a group was, once only, and with a source that may differ. -/
theorem witness_CopyCommands_resume :
    (∀ m, m ∈ [aBadCmd, { aBadCmd with ahead := [(1, 1)] }, { aBadCmd with ahead := [(1, 1)], dirty := true }] →
      (commanding m).cmdOf m.ticket 3 = some m ∧ m.fault = some { cause := causeSegv, info := 0x50000, index := 0 })
      ∧ aBadCmd.dirty = false ∧ (¬ ∃ q, q ∈ aBadCmd.ahead ∧ 0 ≤ q.1) ∧ ∃ q, q ∈ [((1 : Nat), (1 : Nat))] ∧ 0 ≤ q.1 :=
  ⟨by decide +kernel, by decide +kernel, fun ⟨q, h, _⟩ => absurd h (by simp [aBadCmd, aCmd]), (1, 1), by simp⟩
/-- Stream commands into a FIFO of a claimed bank and into a bound Loupe's buffer: a group that appends, one that is the last, with or
without a completion word, one that finds no room, one that repeats bytes that have gone already, one behind an earlier command, and one of
a conversion with scales, whose base is due and is not. -/
def streaming (m : CopyCmd) (full : Bool) : State :=
  { claimed { aBank with fifoA := if full then List.replicate 32768 0 else [], fifoB := [] } (commanding m) with
    cpu := { (claimed { aBank with fifoA := if full then List.replicate 32768 0 else [], fifoB := [] } (commanding m)).cpu with loupe := (louped [] none).cpu.loupe } }
def streamAt (m : CopyCmd) (limit : Nat) : Option Nat :=
  match (streaming m false).copyRun m m.pos limit with
  | .error _ => none
  | .ok (xs, r) => match r.runValues m xs with
    | .error _ => none
    | .ok (_, t) => if t.cpu.park.isNone then some xs.length else none
theorem witness_CopyCommands_streams :
    (∀ m, m ∈ [aCmd 1 2 0 true, aCmd 2 2 0 true, aCmd 3 2 0 true] → streamAt m 2 = some 1 ∧ m.shape.dkind ∈ [1, 2, 3] ∧ m.part < 2 ^ (m.bits % 8)
        ∧ m.pos < m.shape.total ∧ m.shape.conv ≠ 1)
      ∧ streamAt (aCmd 1 1 0 true) 1 = some 1 ∧ streamAt (aCmd 3 1 0x70000 true) 1 = some 1
      ∧ (∀ y, y ∈ (streaming (aCmd 1 1 0 true) false).thr.cmds → (streaming (aCmd 1 1 0 true) false).consumedAll y = false)
      ∧ (∃ b, (streaming (aCmd 1 2 0 true) true).cpu.bank = some b ∧ 32768 < b.fifoA.length + 8)
      ∧ (∃ b, (streaming (aCmd 1 2 0 true) false).cpu.bank = some b ∧ b.baseA = 0 ∧ b.fifoA = [] ∧ b.baseB = 0 ∧ b.fifoB = [])
      ∧ (aCmd 1 2 0 true).next + (0 + 64 + 7) / 8 ≤ ({ aBank with baseA := 8 } : Bank).baseA
      ∧ (∃ l, (streaming (aCmd 3 2 0 true) false).cpu.loupe = some l ∧ l.base + l.taken.length = 0 ∧ l.buf = [])
      ∧ (∃ y, y ∈ [{ aCmd 1 2 0 true with entry := 1 }] ∧ y.chunk = (aCmd 1 2 0 true).chunk ∧ y.shape.dkind = 1 ∧ y.pos < y.shape.total)
      ∧ aCmd 1 2 0 true ∉ [{ aCmd 1 2 0 true with entry := 1 }]
      ∧ Shape.conv { bytes := (aShape 1 2 0).set 58 1 } = 1 ∧ 0 % 4096 = 0 ∧ ({ aCmd 1 2 0 true with scaled := true }).scaled = true := by
  decide +kernel
/-- The format with these FLAGS, DEPTH byte and spill area; a bank with it whose next group gives cell (0, 0) a total of 32,768, and whose scale
records are these. -/
def aFormat (flags depth spcap : Nat) : List Byte :=
  ((((aFmt.set 2 (BitVec.ofNat 8 flags)).set 12 (BitVec.ofNat 8 depth)).set 13 0).take 16) ++ leBytes 8 0x2000000000002000 ++ leBytes 8 spcap ++ List.replicate 96 0
def filling (fmt : List Byte) (ascale bscale : List Byte) (code : Byte) (tray : List TrayEntry) : Bank :=
  { aBank with
    fmt := some fmt, blk := 1, fifoA := 1 :: List.replicate 511 0, fifoB := code :: List.replicate 127 0, tray := tray
    ascale := ascale, bscale := bscale
    cells := ((32767#16) :: List.replicate 127 0) :: List.replicate 127 (List.replicate 128 0) }
/-- A claimed bank beside another of the quad whose Tray is full, with an empty spill area in LS. -/
def crowded (b : Bank) (n : Nat) : State :=
  { (claimed b base).lsWrite (.priv 0x2000) (List.replicate 16 0) with
    older := [{ Chunk.blank with core := 1, bank := some { aBank with tray := List.replicate n { row := 0, col := 0, cnt := 1 } } }] }
def stepFaults (b : Bank) (n : Nat) (fmt : List Byte) (cause : Byte) (info : Dword) : Bool :=
  decide (((crowded b n).applyGroup b { bytes := fmt }).toOption.isNone) && (match (crowded b n).applyGroup b { bytes := fmt } with
    | .error p => p == (cause, info)
    | .ok _ => false)
/-- DEPTH; MSCALE by A's scale, by B's, and by a reserved weight code; SPAN: each with the other conditions as the statement asks for them. -/
theorem witness_EnlargerTotals_checks :
    (FmtCtx.depth { bytes := aFormat 0 7 0 } = 7 ∧ 7 < aBank.steps + 4 ∧ stepFaults (filling (aFormat 0 7 0) [] [] 1 []) 0 (aFormat 0 7 0) causeDepth 4 = true)
      ∧ (FmtCtx.depth { bytes := aFormat 1 8 0 } = aBank.steps + 4 ∧ FmtCtx.scen { bytes := aFormat 1 8 0 } = true
        ∧ field ((filling (aFormat 1 8 0) [127] [127, 255] 1 []).group { bytes := aFormat 1 8 0 }).ea 0 1 ≠ 255
        ∧ field ((filling (aFormat 1 8 0) [127] [127, 255] 1 []).group { bytes := aFormat 1 8 0 }).eb 0 1 ≠ 255
        ∧ field ((filling (aFormat 1 8 0) [127] [127, 255] 1 []).group { bytes := aFormat 1 8 0 }).eb 1 1 = 255
        ∧ stepFaults (filling (aFormat 1 8 0) [127] [127, 255] 1 []) 0 (aFormat 1 8 0) causeMscale (BitVec.ofNat 64 (2 * 2 ^ 48 + 2 ^ 41 + 4)) = true)
      ∧ (field ((filling (aFormat 1 8 0) [255] [127, 127] 1 []).group { bytes := aFormat 1 8 0 }).ea 0 1 = 255
        ∧ stepFaults (filling (aFormat 1 8 0) [255] [127, 127] 1 []) 0 (aFormat 1 8 0) causeMscale (BitVec.ofNat 64 (2 ^ 48 + 4)) = true
        ∧ bitsOf (field ((filling (aFormat 0 8 0) [] [] 9 []).group { bytes := aFormat 0 8 0 }).b 0 1) (2 * 1) 2 = 2
        ∧ bitsOf (field ((filling (aFormat 0 8 0) [] [] 9 []).group { bytes := aFormat 0 8 0 }).b 0 1) (2 * 0) 2 ≠ 2
        ∧ stepFaults (filling (aFormat 0 8 0) [] [] 9 []) 0 (aFormat 0 8 0) causeMscale (BitVec.ofNat 64 (2 * 2 ^ 48 + 5)) = true)
      ∧ stepFaults (filling (aFormat 1 8 0) [127] [126, 126] 1 []) 0 (aFormat 1 8 0) causeSpan 4 = true
      ∧ FmtCtx.m { bytes := aFormat 1 8 0 } = 1 ∧ FmtCtx.n { bytes := aFormat 1 8 0 } = 2 := by decide +kernel
/-- TRAYFULL: a count past 2,047, no entry in TRAP mode, none in STALL mode with no room to spill; and a group that spills. -/
theorem witness_EnlargerTotals_trayfull :
    (trayCount (filling (aFormat 0 8 0) [] [] 1 [{ row := 0, col := 0, cnt := 2047 }]).tray 0 0 = 2047
        ∧ ((cellAt (filling (aFormat 0 8 0) [] [] 1 []).cells 0 0).toInt + 1 + 32768) / 65536 = (1 : Int)
        ∧ stepFaults (filling (aFormat 0 8 0) [] [] 1 [{ row := 0, col := 0, cnt := 2047 }]) 0 (aFormat 0 8 0) causeTrayfull (BitVec.ofNat 64 (2 ^ 50 + 4)) = true)
      ∧ (FmtCtx.trapMode { bytes := aFormat 2 8 0 } = true
        ∧ stepFaults (filling (aFormat 2 8 0) [] [] 1 []) 2048 (aFormat 2 8 0) causeTrayfull 4 = true)
      ∧ (FmtCtx.trapMode { bytes := aFormat 0 8 0 } = false ∧ (crowded (filling (aFormat 0 8 0) [] [] 1 []) 2048).spillAt { bytes := aFormat 0 8 0 } = none
        ∧ stepFaults (filling (aFormat 0 8 0) [] [] 1 []) 2048 (aFormat 0 8 0) causeTrayfull (BitVec.ofNat 64 (2 * 2 ^ 50 + 4)) = true)
      ∧ ((crowded (filling (aFormat 0 8 2) [] [] 1 []) 2048).spillAt { bytes := aFormat 0 8 2 } = some 0x2000
        ∧ (crowded (filling (aFormat 0 8 2) [] [] 1 []) 2048).spillUsed 0x2000 = 0
        ∧ works ((crowded (filling (aFormat 0 8 2) [] [] 1 []) 2048).applyGroup (filling (aFormat 0 8 2) [] [] 1 []) { bytes := aFormat 0 8 2 }) = true
        ∧ ((filling (aFormat 0 8 2) [] [] 1 []).tray.map (fun u => (u.row, u.col))).Nodup
        ∧ (filling (aFormat 0 8 2) [] [] 1 []).cells.length = 128 ∧ ∀ row, row ∈ (filling (aFormat 0 8 2) [] [] 1 []).cells → row.length = 128) := by
  decide +kernel
/-- A block of one row whose codes are all used, one with a reserved code in P, and one with a reserved code in Q; a threshold of activity
of 0 for bytes and for BF16 values, of which one is no number. -/
theorem witness_Loupe_scores :
    LoupeCfg.rk { bytes := aLoupe } = 4 ∧ LoupeCfg.dw { bytes := aLoupe } = 1 ∧ LoupeCfg.nn { bytes := aLoupe } % 64 = 0
      ∧ (∀ st, st ∈ [List.replicate 66 (0 : Byte), [0, 0, 2]] → ∀ k, k < 1 → ∀ t, t < 4 → (st.getD (k * (1 + 4 / 4) + 1 + t / 4) 0).toNat / 4 ^ (t % 4) % 4 ≠ 2)
      ∧ loupeBadCode { bytes := aLoupe } 1 (List.replicate 66 0) = none
      ∧ (([0, 0x20] : List Byte).getD (0 * (1 + 4 / 4) + 1 + 2 / 4) 0).toNat / 4 ^ (2 % 4) % 4 = 2
      ∧ loupeBadCode { bytes := aLoupe } 1 [0, 0x20] = some (BitVec.ofNat 64 (2 ^ 32 + 2))
      ∧ (([0, 0, 2] : List Byte).getD (1 * (1 + 4 / 4) + (0 / 64 * 4 + 0) * 16 + 0 % 64 / 4) 0).toNat / 4 ^ (0 % 4) % 4 = 2
      ∧ loupeBadCode { bytes := aLoupe } 1 [0, 0, 2] = some (BitVec.ofNat 64 (2 * 2 ^ 32))
      ∧ isNumber (fp32.decode (LoupeCfg.acteps { bytes := aLoupe })) = true ∧ LoupeCfg.yfmt { bytes := aLoupe } = 0
      ∧ LoupeCfg.yfmt { bytes := aLoupe.set 32 1 } = 1 ∧ isNumber (bf16.decode 0x3F80) = true ∧ isNumber (bf16.decode 0x7FC0) = false := by
  decide +kernel
/-- A release, and a binding anew, by a slot that has a stream command outstanding. -/
theorem witness_Loupe_aborts :
    (let s : State := { lsHolding aLoupe (louped [] none) with thr := { base.thr with cmds := [aCmd 3 2 0 true] } };
      s.cpu.loupe.isSome = true ∧ s.readRecord lsEa 128 64 = .ok aLoupe ∧ s.badLoupe { bytes := aLoupe } = none
        ∧ (∃ m, m ∈ s.thr.cmds ∧ m.chunk = s.cpu.num ∧ m.shape.dkind = 3) ∧ s.younger = []) := by decide +kernel
/-- A non-privileged queue with a command of another address space, each with the fields that the statement asks for; with the commands of
a privileged queue; and with RESET of a launch, warm and cold. -/
def foreign (opc : Nat) (words : List Nat) : List Byte := (aCommand opc true words).set 2 5
theorem witness_Commands_perm :
    (∀ c, c ∈ [foreign 1 [0x60000], foreign 2 [0xFFFFFFFF], foreign 3 [0x50000, 1], foreign 8 [0], foreign 9 [0], foreign 10 [0x60000, 4], foreign 11 [0x60000, 64],
        aCommand 4 true [0x50000, 0x10000, 0, 2], aCommand 5 true [0x50000, 0x10000, 0, 2], aCommand 6 true [0x50000, 0x10000, 0x70000],
        aCommand 7 true [0x60000, 0x70000, 64], aCommand 9 true [1], aCommand 9 true [2]] →
      ((queued false c base).queue 0).held = some c ∧ ((queued false c base).queue 0).startable c = true ∧ headBad c = none
        ∧ ((queued false c base).queue 0).priv = false)
      ∧ BitVec.ofNat 12 (field (foreign 1 []) 2 2) ≠ ((queued false (foreign 1 []) base).queue 0).asid
      ∧ field (foreign 1 [0x60000]) 32 8 % 64 = 0 ∧ field (foreign 1 [0x60000]) 40 88 = 0 ∧ field (foreign 10 [0x60000, 4]) 40 8 = 4
      ∧ field (foreign 11 [0x60000, 64]) 64 64 = 0 ∧ field (aCommand 4 true [0x50000, 0x10000, 0, 2]) 56 1 = 2
      ∧ field (aCommand 4 true [0x50000, 0x10000, 0, 2]) 57 71 = 0 ∧ field (aCommand 7 true [0x60000, 0x70000, 64]) 48 8 < 2 ^ 32
      ∧ field (aCommand 9 true [1]) 32 1 = 1 ∧ field (aCommand 9 true [2]) 32 1 = 2 ∧ field (aCommand 9 true [2]) 33 3 = 0
      ∧ base.host.moves.find? (fun m => m.queue == 0) = none := by decide +kernel
/-- A SIGNAL with a word to write, which is mapped and is not, to a thread and to none. -/
theorem witness_Commands_signal :
    field (aCommand 2 true [0, 7, 0x50000, 9]) 48 8 ≠ 0 ∧ works (base.pronorWrite 0 0x50000 (leBytes 8 9) 48) = true
      ∧ (match base.pronorWrite 0 (2 ^ 48) (leBytes 8 9) 48 with | .error (.fail _ _ _) => true | _ => false) = true
      ∧ field (aCommand 2 true [0xFFFFFFFF, 7, 0x50000, 9]) 32 4 = 0xFFFFFFFF ∧ field (aCommand 2 true [0xFFFFFFFF]) 64 64 = 0 := by decide +kernel
/-- A MIGRATE of a leaf that is not well formed, and to a misaligned address; an access that waits with the old translation. -/
theorem witness_Commands_migrate_bad :
    (match State.slotFrom { leaf3 with mem := Memory.setBytes leaf3.mem 0x50000 (leBytes 8 (0x600DF + 3 * 256)) } 0x20000000 3 true 4 0 0x10000 with
      | .at_ _ e l => pteV e && !pteRep e && pteBad leaf3 l e | _ => false) = true
      ∧ 0x70001 % 2 ^ pageBits 3 ≠ 0
      ∧ (let s : State := { leaf3 with cpu := { leaf3.cpu with held := [(0x20000000 / 2 ^ 16, { level := 3, addr := 0x50000, entry := 0x600DF, rep := none, root := 0x10000 })] } };
        s.shootReady (s.pageShoot 0 3 0x20000000)) = false := by decide +kernel

/-! ## Single instructions -/

/-- What X[n], element e of V[n] at a width, and n bytes of memory hold after an instruction. -/
def xAfter (n : Reg) (i : Instr) (s : State) : Dword := (after (exec i s)).cpu.x.get n.toFin
def elAfter (n : Reg) (w e : Nat) (i : Instr) (s : State) : Nat := velem w ((after (exec i s)).cpu.v.get n.toFin) e
def memAfter (pa n : Nat) (i : Instr) (s : State) : Nat := leNat (Memory.getBytes (after (exec i s)).mem pa n)
def two (a b : Dword) : State := with_ 7 b (with_ 6 a base)

/-- R176, R6: sums wrap; a W form sign-extends its 32 bits. -/
theorem test_add_wraps : xAfter 5 (.add 5 6 7) (two (BitVec.allOnes 64) 1) = 0 := by decide +kernel
theorem test_addw_extends : xAfter 5 (.addw 5 6 7) (two 0x7FFFFFFF 1) = 0xFFFFFFFF80000000 := by decide +kernel
theorem test_x0_discards : xAfter 0 (.add 0 6 7) (two 1 1) = 0 := by decide +kernel
theorem test_sra_amount : xAfter 5 (.sra 5 6 7) (two 0x8000000000000000 65) = 0xC000000000000000 := by decide +kernel
/-- R182: division by zero, and the least number by -1. -/
theorem test_div_zero : xAfter 5 (.div 5 6 7) (two 9 0) = BitVec.allOnes 64 := by decide +kernel
theorem test_div_overflow : xAfter 5 (.div 5 6 7) (two 0x8000000000000000 (BitVec.allOnes 64)) = 0x8000000000000000 := by decide +kernel
theorem test_rem_sign : xAfter 5 (.rem 5 6 7) (two (BitVec.ofInt 64 (-7)) 2) = BitVec.allOnes 64 := by decide +kernel
theorem test_mulhu : xAfter 5 (.mulhu 5 6 7) (two (BitVec.allOnes 64) (BitVec.allOnes 64)) = 0xFFFFFFFFFFFFFFFE := by decide +kernel
/-- The rounding example after R66: 0x3F80_C000 and its negation to BF16, RNE, with NX. -/
theorem test_round_example :
    (convFmt fp32 bf16 rne 0x3F80C000).1 = 0x3F81 ∧ (convFmt fp32 bf16 rne 0xBF80C000).1 = 0xBF81 := by decide +kernel
/-- 1.0 + 1.0 = 2.0 in FP64; 1 / 0 is an infinity. -/
theorem test_fadd_one : xAfter 5 (.fadd 5 6 7 0 1) (two 0x3FF0000000000000 0x3FF0000000000000) = 0x4000000000000000 := by decide +kernel
theorem test_fdiv_zero : xAfter 5 (.fdiv 5 6 7 0 1) (two 0x3FF0000000000000 0) = 0x7FF0000000000000 := by decide +kernel
/-- R237: an element add wraps in its own width and leaves the others; elements past vl keep their values. -/
theorem test_vadd_wraps : elAfter 2 8 0 (.vadd 0 2 1 2 0 0 0) (vec 2 0x01FF 0x0101) = 0
    ∧ elAfter 2 8 1 (.vadd 0 2 1 2 0 0 0) (vec 2 0x01FF 0x0101) = 2 ∧ elAfter 2 8 2 (.vadd 0 2 1 2 0 0 0) (vec 2 0 0x770000) = 0x77 := by
  decide +kernel
/-- R3: the lowest address holds the least significant byte; a store leaves the byte after it. -/
theorem test_store_order : memAfter 0x50000 3 (.sh 7 6 0) (two 0x50000 0xAABBCCDD) = 0xCCDD := by decide +kernel
theorem test_load_sign : xAfter 5 (.lb 5 6 3) { two 0x50000 0 with mem := Memory.set base.mem 0x50003 0x80 } = 0xFFFFFFFFFFFFFF80 := by
  decide +kernel
/-- R326, R338: a call saves the address of the next instruction, its code, and the status, and enters S mode. -/
theorem test_scall : (after (exec (.scall 5) (user base))).thr.tloc = 0x40004 ∧ (after (exec (.scall 5) (user base))).thr.tcause = causeScall.setWidth 64
    ∧ (after (exec (.scall 5) (user base))).thr.tinfo = 5 ∧ (after (exec (.scall 5) (user base))).thr.tsave = 0
    ∧ (after (exec (.scall 5) (user base))).cpu.stat = 1 := by decide +kernel
theorem test_privileged : (after (exec (.idle 5) (user base))).thr.tcause = causePriv.setWidth 64 := by decide +kernel
/-- R208, R254: a captured kq8 whose staggered D is its B raises ILLOP in that run. -/
theorem test_captured_kq8 : (after (runCaptured (1, 0, 0) 1 (.kq8 3 1 4 0) base)).thr.tcause = causeIllop.setWidth 64 := by decide +kernel
/-- R109: an atomic answers the old value and stores the sum. -/
theorem test_amo_old : xAfter 5 (.amoAdd 5 6 7 2 0 1) (two 0x50000 3) = 0 ∧ memAfter 0x50000 8 (.amoAdd 5 6 7 2 0 1) (two 0x50000 3) = 3 := by
  decide +kernel
/-- The example of a refused group in the notes on the Enlarger: REASON 0, COL 90, ROW 17, KSTEP 160. -/
theorem test_trayfull_info : enlInfo 0 0 90 17 160 = 0x0000B444000000A0 := by decide
/-- The mstat value of the same example: STEPS 160, 140 entries, MSTART 40. -/
theorem test_mstat :
    xAfter 5 (.mstat 5 0) (claimed { aBank with steps := 160, mstart := 40, tray := List.replicate 140 { row := 0, col := 0, cnt := 1 } } base)
      = 0x000000A0008C0028 := by decide +kernel

end Sys2Proof.Tests
end

section
/-! The multiplications, divisions and remainders of major 0x0B (R181, R182): the model computes on words what the
rules say of numbers, because the word of a number is compatible with products, truncation and extension. -/

namespace Sys2Proof.Machine

/-! ## What a two-operand scalar instruction writes -/

/-- An instruction of latency one turn that nothing holds back writes its function of X[A] and X[B] (R173). -/
theorem writesX_of_scalarAB {i : Instr} {d a b : Reg} {f : Dword → Dword → Dword} {s : State} {v : Dword}
    (hi : exec i s = scalarAB d a b f s) (hc : Clear (useAB d a b) s) (hv : f (s.rx a) (s.rx b) = v) :
    WritesX i (useAB d a b) d s v := by
  subst hv
  rw [scalarAB, scalar] at hi
  exact hi.trans (issue_done hc rfl rfl)

/-- The same for an interlocked instruction of long latency (R175). -/
theorem writesX_of_longAB {i : Instr} {d a b : Reg} {f : Dword → Dword → Dword} {s : State} {v : Dword}
    (hi : exec i s = longAB d a b f s) (hc : Clear { useAB d a b with flight := some .long } s) (hv : f (s.rx a) (s.rx b) = v) :
    WritesX i { useAB d a b with flight := some .long } d s v := by
  subst hv
  exact hi.trans (issue_done hc rfl rfl)

/-! ## Words of numbers (R6) -/

/-- Signed(v, w) is the two's complement value of the low w bits of v. -/
theorem signed_eq_toInt (w v : Nat) : signed w v = (BitVec.ofNat w v).toInt := by
  simp only [signed, BitVec.toInt_eq_toNat_cond, BitVec.toNat_ofNat]
  cases w with
  | zero => simp [Nat.mod_one]
  | succ w =>
    have half : v % 2 ^ (w + 1) < 2 ^ w ↔ 2 * (v % 2 ^ (w + 1)) < 2 ^ (w + 1) := by
      rw [Nat.pow_succ]
      omega
    simp [half]

/-- Sext(z, n) extends the n-bit word of z. -/
theorem sextN_eq_signExtend (n : Nat) (z : Int) : sextN n z = (BitVec.ofInt n z).signExtend 64 := by
  have low : BitVec.ofNat n (wrap n z) = BitVec.ofInt n z := by
    apply BitVec.eq_of_toNat_eq
    rw [wrap, ← BitVec.toNat_ofInt, BitVec.toNat_ofNat, Nat.mod_eq_of_lt (BitVec.isLt _)]
  rw [sextN, signed_eq_toInt, low, BitVec.signExtend]

/-- The word of a number cut to its low bits is that number's shorter word. -/
theorem setWidth_ofInt_of_le {m n : Nat} (z : Int) (h : n ≤ m) : (BitVec.ofInt m z).setWidth n = BitVec.ofInt n z := by
  apply BitVec.eq_of_toInt_eq
  have hd : ((2 ^ n : Nat) : Int) ∣ ((2 ^ m : Nat) : Int) := Int.natCast_dvd_natCast.mpr (Nat.pow_dvd_pow 2 h)
  rw [← BitVec.signExtend_eq_setWidth_of_le _ h, BitVec.toInt_signExtend, Nat.min_eq_left h, BitVec.toInt_ofInt,
    BitVec.toInt_ofInt, Int.bmod_bmod_of_dvd (Int.natCast_dvd_natCast.mp hd)]

/-- The wrapped product of two unsigned values is the product of the words. -/
theorem wrap64_mul_toNat (x y : Dword) : wrap64 (x.toNat * y.toNat) = x * y := by
  simp only [wrap64, BitVec.ofInt_mul, BitVec.ofInt_natCast, BitVec.ofNat_toNat, BitVec.setWidth_eq]

/-- The upper half of the double word of z is z divided by 2^64, rounded down. -/
theorem upperHalf_ofInt (z : Int) : ((BitVec.ofInt 128 z) >>> 64).setWidth 64 = wrap64 (z / 2 ^ 64) := by
  apply BitVec.eq_of_toNat_eq
  simp only [wrap64, BitVec.toNat_setWidth, BitVec.toNat_ushiftRight, BitVec.toNat_ofInt, Nat.shiftRight_eq_div_pow]
  omega

/-- A word of unsigned value extended with zeros is the longer word of that value. -/
theorem setWidth_eq_ofInt_toNat (x : Dword) : x.setWidth 128 = BitVec.ofInt 128 x.toNat := by
  rw [BitVec.ofInt_natCast, BitVec.ofNat_toNat]

/-! ## The multiplications (R181) -/

theorem mulh_value (x y : Dword) :
    ((x.signExtend 128 * y.signExtend 128) >>> 64).setWidth 64 = wrap64 (x.toInt * y.toInt / 2 ^ 64) := by
  rw [← upperHalf_ofInt, BitVec.ofInt_mul, BitVec.signExtend, BitVec.signExtend]

theorem mulhu_value (x y : Dword) :
    ((x.setWidth 128 * y.setWidth 128) >>> 64).setWidth 64 = wrap64 (x.toNat * y.toNat / 2 ^ 64) := by
  rw [← upperHalf_ofInt, BitVec.ofInt_mul, setWidth_eq_ofInt_toNat, setWidth_eq_ofInt_toNat]

theorem mulhsu_value (x y : Dword) :
    ((x.signExtend 128 * y.setWidth 128) >>> 64).setWidth 64 = wrap64 (x.toInt * y.toNat / 2 ^ 64) := by
  rw [← upperHalf_ofInt, BitVec.ofInt_mul, BitVec.signExtend, setWidth_eq_ofInt_toNat]

theorem mulw_value (x y : Dword) : sext32 (x * y) = sextN 32 (x.toNat * y.toNat) := by
  rw [sext32, sextN_eq_signExtend, ← wrap64_mul_toNat, wrap64, setWidth_ofInt_of_le _ (by decide)]

/-! ## Quotients and remainders (R182) -/

/-- Quot(n, d, w) of R182, on numbers. -/
def quotInt (n d : Int) (w : Nat) : Int :=
  if d = 0 then -1 else if n = -2 ^ (w - 1) ∧ d = -1 then n else n.tdiv d

/-- Rem(n, d, w) of R182, on numbers. -/
def remInt (n d : Int) (w : Nat) : Int :=
  if d = 0 then n else if n = -2 ^ (w - 1) ∧ d = -1 then 0 else n - d * n.tdiv d

/-- A word is zero when its signed value is. -/
theorem toInt_eq_zero_iff {w : Nat} (d : BitVec w) : d.toInt = 0 ↔ d = 0 := by
  rw [← BitVec.toInt_inj, show (0 : BitVec w).toInt = 0 from BitVec.toInt_zero]

/-- The overflowing operands are the least number and the word of ones. -/
theorem overflow_iff {w : Nat} (hw : 0 < w) (n d : BitVec w) :
    n.toInt = -2 ^ (w - 1) ∧ d.toInt = -1 ↔ n = BitVec.intMin w ∧ d = BitVec.allOnes w := by
  rw [← BitVec.toInt_inj (y := BitVec.intMin w), ← BitVec.toInt_inj (y := BitVec.allOnes w), BitVec.toInt_intMin_of_pos hw,
    BitVec.toInt_allOnes, if_pos hw]

/-- The word of -1 is all ones. -/
theorem ofInt_neg_one {w : Nat} (hw : 0 < w) : BitVec.ofInt w (-1) = BitVec.allOnes w := by
  rw [← BitVec.ofInt_toInt (x := BitVec.allOnes w), BitVec.toInt_allOnes, if_pos hw]

/-- The quotient of two words is the word of the quotient of their signed values. -/
theorem quotS_eq_ofInt {w : Nat} (hw : 0 < w) (n d : BitVec w) : quotS w n d = BitVec.ofInt w (quotInt n.toInt d.toInt w) := by
  simp only [quotS, quotInt, toInt_eq_zero_iff, overflow_iff hw]
  split
  · rw [ofInt_neg_one hw]
  · split
    · rw [BitVec.ofInt_toInt]
    · rfl

/-- The remainder of two words is the word of the remainder of their signed values. -/
theorem remS_eq_ofInt {w : Nat} (hw : 0 < w) (n d : BitVec w) : remS w n d = BitVec.ofInt w (remInt n.toInt d.toInt w) := by
  simp only [remS, remInt, toInt_eq_zero_iff, overflow_iff hw, ← Int.tmod_def]
  split
  · rw [BitVec.ofInt_toInt]
  · split <;> rfl

/-- The unsigned quotient, all ones for a divisor of zero. -/
theorem quotU_value (x y : Dword) : quotU x y = if y = 0 then wrap64 (-1) else wrap64 (x.toNat / y.toNat : Nat) := by
  rw [quotU, wrap64, wrap64, BitVec.ofInt_natCast, ofInt_neg_one (by decide)]

/-- The unsigned remainder, the dividend for a divisor of zero. -/
theorem remU_value (x y : Dword) : remU x y = if y = 0 then x else wrap64 (x.toNat % y.toNat : Nat) := by
  rw [remU, wrap64, BitVec.ofInt_natCast]

/-- A 32-bit form computes on the signed values of the operands' low words. -/
theorem toInt_setWidth_32 (x : Dword) : (x.setWidth 32).toInt = signed 32 x.toNat := by
  rw [signed_eq_toInt, BitVec.ofNat_toNat]

theorem divw_value (x y : Dword) : (quotS 32 (x.setWidth 32) (y.setWidth 32)).signExtend 64
    = sextN 32 (quotInt (signed 32 x.toNat) (signed 32 y.toNat) 32) := by
  rw [quotS_eq_ofInt (by decide), sextN_eq_signExtend, toInt_setWidth_32, toInt_setWidth_32]

theorem remw_value (x y : Dword) : (remS 32 (x.setWidth 32) (y.setWidth 32)).signExtend 64
    = sextN 32 (remInt (signed 32 x.toNat) (signed 32 y.toNat) 32) := by
  rw [remS_eq_ofInt (by decide), sextN_eq_signExtend, toInt_setWidth_32, toInt_setWidth_32]

/-! ## The statement -/

/-- Settles O3: each instruction writes its function of X[A] and X[B], which is the word of the number that R181 and R182 give. -/
theorem multiplyAndDivide : Obligations.MultiplyAndDivide := by
  unfold Obligations.MultiplyAndDivide
  constructor
  · intro s d a b hc
    exact ⟨writesX_of_scalarAB (exec_mul d a b s) hc (wrap64_mul_toNat _ _).symm,
      writesX_of_scalarAB (exec_mulh d a b s) hc (mulh_value _ _),
      writesX_of_scalarAB (exec_mulhu d a b s) hc (mulhu_value _ _),
      writesX_of_scalarAB (exec_mulhsu d a b s) hc (mulhsu_value _ _),
      writesX_of_scalarAB (exec_mulw d a b s) hc (mulw_value _ _)⟩
  · intro quot rem s d a b hc
    exact ⟨writesX_of_longAB (exec_div d a b s) hc (quotS_eq_ofInt (by decide) _ _),
      writesX_of_longAB (exec_divu d a b s) hc (quotU_value _ _),
      writesX_of_longAB (exec_rem d a b s) hc (remS_eq_ofInt (by decide) _ _),
      writesX_of_longAB (exec_remu d a b s) hc (remU_value _ _),
      writesX_of_longAB (exec_divw d a b s) hc (divw_value _ _),
      writesX_of_longAB (exec_remw d a b s) hc (remw_value _ _)⟩

end Sys2Proof.Machine
end

section
/-! Trap entry, calls and the return (R326, R327, R337, R338): what a fault at the head writes is said once as an equation between
states, and the clauses of the statement are its fields. -/

namespace Sys2Proof.Machine

/-! ## What squashing and discarding younger chunks concerns (R38) -/

/-- R25: naming the youngest chunk's end concerns the region descriptor alone. -/
theorem cutOfYoungest_eq (s : State) :
    s.cutOfYoungest = { s with thr := { s.thr with region := s.cutOfYoungest.thr.region } } := by
  unfold State.cutOfYoungest
  split
  · rfl
  · dsimp only
    split <;> rfl

/-- R25: the descriptor of a cut region takes the youngest chunk's own end, or else its start and its create mask. -/
theorem cutOfYoungest_region_cut {s : State} {g : Region} (hr : s.thr.region = some g) (hk : g.kind = .cut) :
    let e := s.youngest.cut.getD (s.youngest.start, s.youngest.mask)
    s.cutOfYoungest.thr.region = some { g with last := e.1, mask := e.2 } := by
  simp only [State.cutOfYoungest, hr, if_pos hk]

/-- R25: the descriptor of a lane loop does not name an end of its chunks. -/
theorem cutOfYoungest_region_loop {s : State} (h : ∀ g, s.thr.region = some g → g.kind = .loop) :
    s.cutOfYoungest.thr.region = s.thr.region := by
  cases hr : s.thr.region with
  | none => simp only [State.cutOfYoungest, hr]
  | some g => simp [State.cutOfYoungest, hr, h g hr]

/-- Naming the youngest chunk's end neither opens nor closes a region. -/
theorem cutOfYoungest_region_isSome (s : State) : s.cutOfYoungest.thr.region.isSome = s.thr.region.isSome := by
  cases hr : s.thr.region with
  | none => rw [cutOfYoungest_region_loop (by simp [hr]), hr]
  | some g =>
    cases hk : g.kind with
    | cut => rw [cutOfYoungest_region_cut hr hk]; rfl
    | loop => rw [cutOfYoungest_region_loop (by simp [hr, hk]), hr]

/-- R29: giving up the end of a squashed chunk concerns two fields of the chunk. -/
theorem uncut_eq (s : State) : s.uncut = { s with cpu := { s.cpu with cut := s.uncut.cpu.cut, recut := s.uncut.cpu.recut } } := by
  unfold State.uncut
  split <;> rfl

/-- R38, R41, R43: squashing the younger chunks concerns them, their work, and the region descriptor. -/
theorem squashYounger_eq (s : State) :
    s.squashYounger =
      { s with
        younger := s.squashYounger.younger
        thr := { s.thr with
          region := s.squashYounger.thr.region, cmds := s.squashYounger.thr.cmds, snaps := s.squashYounger.thr.snaps } } := by
  unfold State.squashYounger State.squashFrom State.dropChunkWork
  split
  · rfl
  · rw [cutOfYoungest_eq]

/-- R38: discarding the younger chunks concerns them, their work and slots, the focused chunk's end, and the region descriptor. -/
theorem discardYounger_eq (s : State) :
    s.discardYounger =
      { s with
        younger := []
        cpu := { s.cpu with cut := s.discardYounger.cpu.cut, recut := s.discardYounger.cpu.recut }
        thr := { s.thr with
          region := s.discardYounger.thr.region, cmds := s.discardYounger.thr.cmds
          snaps := s.discardYounger.thr.snaps, freeing := s.discardYounger.thr.freeing } } := by
  by_cases hy : s.younger = []
  · have same : s.discardYounger = s := by simp [State.discardYounger, hy]
    rw [same, ← hy]
  · unfold State.discardYounger State.freeSlots State.dropChunkWork
    rw [if_neg (by simpa using hy), cutOfYoungest_eq, uncut_eq]

/-- R25: the descriptor is as before where no chunk goes, and where it is that of a lane loop. -/
theorem discardYounger_region_kept {s : State} (h : s.younger = [] ∨ ∀ g, s.thr.region = some g → g.kind = .loop) :
    s.discardYounger.thr.region = s.thr.region := by
  unfold State.discardYounger
  split
  · rfl
  · rename_i hy
    have loop := h.resolve_left (by simpa using hy)
    rw [cutOfYoungest_region_loop (by rw [uncut_eq]; exact loop), uncut_eq]
    rfl

/-- R25, R29: the end that a chunk without younger ones has: the one its own fcut has named, unless a squash came after that fcut,
and else its start and its create mask. -/
def Chunk.ownEnd (c : Chunk) : Dword × Dword := if c.recut = true then (c.start, c.mask) else c.cut.getD (c.start, c.mask)

/-- R29: that end is what is left of the chunk's fcut. -/
theorem uncut_cut (s : State) : s.uncut.cpu.cut.getD (s.cpu.start, s.cpu.mask) = s.cpu.ownEnd := by
  unfold State.uncut Chunk.ownEnd
  split <;> rfl

/-- R21, R29: where younger chunks go from a cut region, its descriptor names the end of the chunk that is left. -/
theorem discardYounger_region_cut {s : State} {g : Region} (hy : s.younger ≠ []) (hr : s.thr.region = some g) (hk : g.kind = .cut) :
    s.discardYounger.thr.region = some { g with last := s.cpu.ownEnd.1, mask := s.cpu.ownEnd.2 } := by
  have alone (q : State) (hq : q.younger = []) (hg : q.thr.region = some g) :
      q.uncut.cutOfYoungest.thr.region = some { g with last := q.cpu.ownEnd.1, mask := q.cpu.ownEnd.2 } := by
    have left : q.uncut.youngest = q.uncut.cpu := by rw [State.youngest, uncut_eq, hq]; rfl
    have start : q.uncut.cpu.start = q.cpu.start := by rw [uncut_eq]
    have mask : q.uncut.cpu.mask = q.cpu.mask := by rw [uncut_eq]
    rw [cutOfYoungest_region_cut (by rw [uncut_eq, hg]) hk, left, start, mask, uncut_cut]
  rw [State.discardYounger, if_neg (by simpa using hy)]
  exact alone _ rfl hr

/-- Discarding younger chunks neither opens nor closes a region. -/
theorem discardYounger_region_isSome (s : State) : s.discardYounger.thr.region.isSome = s.thr.region.isSome := by
  unfold State.discardYounger
  split
  · rfl
  · rw [cutOfYoungest_region_isSome, uncut_eq]
    rfl

/-! ## Entering the handler (R210, R326, R327) -/

/-- R210: leaving a repeat frame concerns the frame and rptst. -/
theorem saveFrame_eq (s : State) : s.saveFrame = { s with cpu := { s.cpu with frame := none, rptst := s.saveFrame.cpu.rptst } } := by
  unfold State.saveFrame
  cases hf : s.cpu.frame with
  | none => simp only [← hf]
  | some f => rfl

@[simp] theorem saveFrame_younger (s : State) : s.saveFrame.younger = s.younger := by rw [saveFrame_eq]
@[simp] theorem saveFrame_thr (s : State) : s.saveFrame.thr = s.thr := by rw [saveFrame_eq]
@[simp] theorem saveFrame_isHead (s : State) : s.saveFrame.isHead = s.isHead := by rw [saveFrame_eq]; rfl
@[simp] theorem saveFrame_ownEnd (s : State) : s.saveFrame.cpu.ownEnd = s.cpu.ownEnd := by rw [saveFrame_eq]; rfl

/-- Outside a repeat frame there is no place to save. -/
theorem saveFrame_none {s : State} (h : s.cpu.frame = none) : s.saveFrame = s := by
  simp only [State.saveFrame, h]

/-- R209, R210: the place in a frame can be read back from rptst. -/
theorem saveFrame_rptst {s : State} {f : Frame} (hf : s.cpu.frame = some f) (hrun : f.run < 256) (hindex : f.index < 16) :
    rptAct s.saveFrame.cpu.rptst = true ∧ rptReplay s.saveFrame.cpu.rptst = f.run ∧ rptIndex s.saveFrame.cpu.rptst = f.index := by
  have place : s.saveFrame.cpu.rptst = BitVec.ofNat 64 (2 ^ 16 + f.run * 2 ^ 8 + f.index * 2 ^ 4) := by
    simp only [State.saveFrame, hf, Nat.mod_eq_of_lt hrun, Nat.mod_eq_of_lt hindex]
  rw [place]
  simp only [rptAct, rptReplay, rptIndex, bitsOf, BitVec.getLsbD, BitVec.toNat_ofNat, Nat.testBit_eq_decide_div_mod_eq,
    decide_eq_true_eq, Nat.shiftRight_eq_div_pow]
  omega

/-- R326: trap entry sets MODE, clears IE, and leaves every other bit of stat. -/
theorem trapStat_getLsbD (v : Dword) {i : Nat} (hi : i < 64) :
    (trapStat v).getLsbD i = if i = 0 then true else if i = 1 then false else v.getLsbD i := by
  have one : (1#64).getLsbD i = decide (i = 0) := by simp
  have two : (2#64).getLsbD i = decide (i = 1) := by simp [show 2#64 = BitVec.twoPow 64 1 from rfl, hi]
  rw [trapStat, BitVec.getLsbD_and, BitVec.getLsbD_or, BitVec.getLsbD_not, one, two]
  split
  · simp [*]
  · split <;> simp [*]

/-- R210, R295, R326, R327, R335: everything that a trap of the head writes. -/
theorem raiseAt_head {s d : State} (h : s.isHead = true) (hd : s.saveFrame.discardYounger = d) (c : Byte) (loc x : Dword) :
    s.raiseAt c loc x =
      { s with
        younger := []
        thr := { s.thr with
          tsave := s.cpu.stat, tloc := loc &&& ~~~3#64, tcause := c.setWidth 64, tinfo := x
          region := d.thr.region, susp := s.thr.region.isSome, fetchOld := FetchOld.empty
          cmds := d.thr.cmds, snaps := d.thr.snaps, freeing := d.thr.freeing }
        cpu := { s.cpu with
          stat := trapStat s.cpu.stat, pc := s.thr.tvec, trap := none, park := none, asked := none, held := [], fetching := false
          pend := [], bank := s.cpu.bank.map (fun b => { b with lease := none }), entering := true
          frame := none, rptst := s.saveFrame.cpu.rptst, cut := d.cpu.cut, recut := d.cpu.recut } } := by
  have taken : s.raiseAt c loc x = takeTrap { cause := c, loc := loc, info := x } s.saveFrame := by
    rw [State.raiseAt, if_pos (by rw [saveFrame_isHead, h])]
  have suspended : s.thr.region.isSome = d.thr.region.isSome := by rw [← hd, discardYounger_region_isSome, saveFrame_thr]
  have discarded := discardYounger_eq s.saveFrame
  rw [hd] at discarded
  rw [taken, takeTrap, suspended, hd, discarded, saveFrame_eq]

/-- R44: a fault of a speculative chunk, outside a repeat frame, is recorded and nothing else. -/
theorem raise_speculative {s : State} (h : s.isHead = false) (hf : s.cpu.frame = none) (c : Byte) (x : Dword) :
    s.raise c x = { s with cpu := { s.cpu with trap := some { cause := c, loc := s.cpu.pc, info := x }, held := [] } } := by
  simp [State.raise, State.raiseAt, saveFrame_none hf, h]

/-! ## scall and brk (R337) -/

/-- A call that nothing holds back completes by the entry into the handler, located at the next instruction. -/
theorem callTrap_clear {s : State} (h : Clear { held := true } s) (c : Byte) (n : BitVec 10) :
    callTrap c n s = .next (completed { held := true } s (s.raiseAt c (s.cpu.pc + 4) (n.setWidth 64))) :=
  issue_done h rfl rfl

/-! ## tret (R338) -/

/-- R338: the reserved bits of stat that tret checks are those outside 0x77F. -/
theorem reservedStat_mask : bitMask 11 63 ||| bitMask 7 7 = ~~~0x77F#64 := by decide

/-- The two low bits of a word are zero when 4 divides it. -/
theorem and_three_eq_zero_iff (v : Dword) : v &&& 3#64 = 0#64 ↔ v.toNat % 4 = 0 := by
  have low : v.toNat &&& 3 = v.toNat % 4 := Nat.and_two_pow_sub_one_eq_mod v.toNat 2
  rw [← BitVec.toNat_inj, BitVec.toNat_and, ← low]
  rfl

/-- R42: two values of stat agree in what a chunk copies when their difference lies in FRM and VRM. -/
theorem statCopied_eq_iff (a b : Dword) : statCopied a = statCopied b ↔ (a ^^^ b) &&& ~~~(0x770#64) = 0 := by
  have differ : (a &&& ~~~0x770#64) ^^^ (b &&& ~~~0x770#64) = (a ^^^ b) &&& ~~~0x770#64 :=
    BitVec.eq_of_toNat_eq (Nat.and_xor_distrib_right ..).symm
  rw [statCopied, statCopied, ← BitVec.xor_eq_zero_iff, differ]
  rfl

@[simp] theorem squashYounger_cpu (s : State) : s.squashYounger.cpu = s.cpu := by rw [squashYounger_eq]
@[simp] theorem squashYounger_mem (s : State) : s.squashYounger.mem = s.mem := by rw [squashYounger_eq]

/-- R42: the state to which tret brings stat and pc back: younger chunks that have copied another stat are squashed. -/
def State.beforeReturn (s : State) : State :=
  if (s.thr.tsave ^^^ s.cpu.stat) &&& ~~~(0x770#64) = 0 then s else s.squashYounger

@[simp] theorem beforeReturn_cpu (s : State) : s.beforeReturn.cpu = s.cpu := by
  unfold State.beforeReturn
  split <;> simp

@[simp] theorem beforeReturn_mem (s : State) : s.beforeReturn.mem = s.mem := by
  unfold State.beforeReturn
  split <;> simp

/-- R338: what tret makes of a state that passes its checks. -/
theorem trapReturn_eq (s : State) :
    trapReturn s =
      { s.beforeReturn with
        cpu := { s.beforeReturn.cpu with stat := s.thr.tsave, pc := s.thr.tloc, pend := [] }
        thr := { s.beforeReturn.thr with susp := false, fetchOld := FetchOld.empty } } := by
  simp only [trapReturn, statCopied_eq_iff, State.beforeReturn]
  split
  · rfl
  · rw [squashYounger_eq]

section Return
variable {s : State} (h : Clear { held := true, writes := [.frm, .vrm] } s)
include h

/-- R158, R338: what tret comes to when nothing holds it back: its checks, in their order, or its return. -/
theorem exec_tret_clear :
    exec .tret s = .next (issued { held := true, writes := [.frm, .vrm] } s (tretEarly s)
      (if s.thr.tsave &&& ~~~(0x77F#64) ≠ 0 then .trap s causeIllstate s.thr.tsave
      else if s.thr.tloc.toNat % 4 ≠ 0 then .trap s causeIllstate s.thr.tloc
      else .done (trapReturn s))) := by
  rw [exec_tret, execTret, issue_clear h, reservedStat_mask]
  simp only [ne_eq, and_three_eq_zero_iff]
  rfl

/-- R158, R338: tret in U mode is ILLOP. -/
theorem tret_user (hm : s.smode = false) : Traps .tret s causeIllop (s.cpu.ir.setWidth 64) := by
  refine ⟨[], (exec_tret_clear h).trans ?_⟩
  rw [tretEarly, hm, if_neg Bool.false_ne_true]
  rfl

/-- R338: a saved stat with a reserved bit is refused. -/
theorem tret_badStat (hm : s.smode = true) (hs : s.thr.tsave &&& ~~~(0x77F#64) ≠ 0) : Traps .tret s causeIllstate s.thr.tsave := by
  refine ⟨[], (exec_tret_clear h).trans ?_⟩
  rw [tretEarly, if_pos hm, if_pos hs]
  rfl

/-- R338: a misaligned saved location is refused after it. -/
theorem tret_badLoc (hm : s.smode = true) (hs : s.thr.tsave &&& ~~~(0x77F#64) = 0) (hl : s.thr.tloc.toNat % 4 ≠ 0) :
    Traps .tret s causeIllstate s.thr.tloc := by
  refine ⟨[], (exec_tret_clear h).trans ?_⟩
  rw [tretEarly, if_pos hm, if_neg (not_not.mpr hs), if_pos hl]
  rfl

/-- R338: when both checks pass, tret returns. -/
theorem tret_completes (hm : s.smode = true) (hs : s.thr.tsave &&& ~~~(0x77F#64) = 0) (hl : s.thr.tloc.toNat % 4 = 0) :
    Completes .tret { held := true, writes := [.frm, .vrm] } s (trapReturn s) := by
  refine (exec_tret_clear h).trans ?_
  rw [tretEarly, if_pos hm, if_neg (not_not.mpr hs), if_neg (not_not.mpr hl)]
  rfl

end Return

/-! ## The statement -/

/-- Settles O38: the equation of trap entry gives the first two clauses field by field; calls complete by that entry, and tret by its
checks in their order. -/
theorem trapsAndReturns : Obligations.TrapsAndReturns := by
  refine ⟨fun s c x => ⟨fun h => ?_, fun h hf => raise_speculative h hf c x⟩, fun s n => ⟨?_, ?_⟩⟩
  · have frameNone (hf : s.cpu.frame = none) : s.saveFrame.cpu.rptst = s.cpu.rptst := by rw [saveFrame_none hf]
    have kept (hr : s.younger = [] ∨ ∀ g, s.thr.region = some g → g.kind = .loop) :
        s.saveFrame.discardYounger.thr.region = s.thr.region := by
      rw [discardYounger_region_kept (by simpa using hr), saveFrame_thr]
    have cut (g : Region) (hy : s.younger ≠ []) (hr : s.thr.region = some g) (hk : g.kind = .cut) :
        s.saveFrame.discardYounger.thr.region = some { g with last := s.cpu.ownEnd.1, mask := s.cpu.ownEnd.2 } := by
      rw [discardYounger_region_cut (g := g) (by simpa using hy) (by simpa using hr) hk, saveFrame_ownEnd]
    rw [State.raise, raiseAt_head h rfl]
    simp only [true_and]
    exact ⟨fun i hi => trapStat_getLsbD _ hi, kept, cut, frameNone, fun f hf hrun hindex => saveFrame_rptst hf hrun hindex⟩
  · intro h enters
    have enter (j : Instr) (c : Byte) (hj : exec j s = callTrap c n s) : enters j c := by
      have done : exec j s = _ := hj.trans (callTrap_clear h c n)
      refine ⟨done, _, done, ?_⟩
      simp only [completed_thr, completed_cpu_pc, completed_cpu_stat, completed_younger, completed_cpu_x, completed_cpu_v,
        completed_cpu_k, completed_mem]
      rw [raiseAt_head (h.held rfl) rfl]
      simp only [true_and, and_true]
      exact ⟨trapStat_getLsbD _ (by decide), trapStat_getLsbD _ (by decide)⟩
    exact ⟨enter _ _ (exec_scall n s), enter _ _ (exec_brk n s)⟩
  · intro u h
    refine ⟨tret_user h, fun hm => ⟨tret_badStat h hm, tret_badLoc h hm, fun hs hl => ?_⟩⟩
    have done := tret_completes h hm hs hl
    rw [trapReturn_eq] at done
    refine ⟨done, _, done, ?_⟩
    simp only [completed_thr, completed_cpu_pc, completed_cpu_stat, completed_cpu_x, completed_cpu_v, completed_cpu_k, completed_mem,
      beforeReturn_cpu, beforeReturn_mem, true_and, and_true]
    rfl

end Sys2Proof.Machine
end
